-- ==== Sys2Proof/Word.lean ====
section
/-!
DEFINITION. The word types of the model and the two containers it keeps its data in.

`Mem` is byte memory as a list of (address, byte) pairs in one canonical form: addresses strictly rising and no
byte equal to 0, which is what an address that is not listed reads as. `Tab` is a table of records by number; an
entry that is not listed has the default its reader names.
-/

namespace Sys2Proof

/-- A byte of memory, of a descriptor or of a frame. -/
abbrev Byte := BitVec 8
/-- A 32-bit word. -/
abbrev W32 := BitVec 32
/-- A 64-bit word. -/
abbrev W64 := BitVec 64
/-- A token: class in [15:12], identifier in [11:0] (R182). -/
abbrev Tok := BitVec 16
/-- One vector register: 512 lanes of 32 bits, lane i in bits [32i + 31 : 32i] (R142). -/
abbrev VReg := BitVec 16384
/-- One predicate register: bit i is lane i (R142). -/
abbrev Pred := BitVec 512
/-- A string of bytes. -/
abbrev Bytes := List Byte

/-- A table of records keyed by number. -/
abbrev Tab (α : Type) := List (Nat × α)

/-- The entry with number k, or d when the table lists none. -/
def Tab.get {α : Type} (d : α) : Tab α → Nat → α
  | [], _ => d
  | (j, v) :: t, k => if j = k then v else Tab.get d t k

/-- The table with entry k set to v; the order of the other entries is kept. -/
def Tab.set {α : Type} : Tab α → Nat → α → Tab α
  | [], k, v => [(k, v)]
  | (j, u) :: t, k, v => if j = k then (k, v) :: t else (j, u) :: Tab.set t k v

/-- The table without entry k. -/
def Tab.del {α : Type} : Tab α → Nat → Tab α
  | [], _ => []
  | (j, u) :: t, k => if j = k then Tab.del t k else (j, u) :: Tab.del t k

/-- Byte memory. (DESIGN CHOICE, log entry 2.) -/
abbrev Mem := List (Nat × Byte)

/-- The byte at address a; an address that is not listed reads 0. (DESIGN CHOICE, log entry 2, DEDUCED, log entry 3.) -/
def Mem.read : Mem → Nat → Byte
  | [], _ => 0
  | (j, v) :: t, a => if j = a then v else Mem.read t a

/-- The memory with byte a set to v, in the canonical form. (DESIGN CHOICE, log entry 2.) -/
def Mem.write : Mem → Nat → Byte → Mem
  | [], a, v => if v = 0 then [] else [(a, v)]
  | (j, u) :: t, a, v =>
    if a < j then (if v = 0 then (j, u) :: t else (a, v) :: (j, u) :: t)
    else if a = j then (if v = 0 then t else (a, v) :: t)
    else (j, u) :: Mem.write t a v

/-- Every listed address lies above `lo` (when there is one), the addresses rise, and no listed byte is 0. -/
def Mem.wfFrom : Option Nat → Mem → Bool
  | _, [] => true
  | lo, (j, v) :: t => (match lo with | none => true | some l => decide (l < j)) && decide (v ≠ 0) && Mem.wfFrom (some j) t

/-- The canonical form of a memory. (DESIGN CHOICE, log entry 2.) -/
def Mem.wf (m : Mem) : Bool := Mem.wfFrom none m

/-- n bytes from address a upward, the lowest address first. -/
def Mem.bytes (m : Mem) (a : Nat) : Nat → Bytes
  | 0 => []
  | n + 1 => m.read a :: Mem.bytes m (a + 1) n

/-- The bytes bs written from address a upward. -/
def Mem.store (m : Mem) (a : Nat) : Bytes → Mem
  | [] => m
  | b :: bs => Mem.store (m.write a b) (a + 1) bs

/-- n zero bytes written from address a upward. -/
def Mem.clear (m : Mem) (lo n : Nat) : Mem :=
  m.filter (fun kv => !(decide (lo ≤ kv.1) && decide (kv.1 < lo + n)))

/-- A little-endian number from its bytes (R15). -/
def leNat : Bytes → Nat
  | [] => 0
  | b :: bs => b.toNat + 256 * leNat bs

/-- The n little-endian bytes of a number (R15). -/
def leBytes : Nat → Nat → Bytes
  | 0, _ => []
  | n + 1, x => BitVec.ofNat 8 x :: leBytes n (x / 256)

/-- n bytes at offset o of a byte string, as a little-endian number; bytes past its end count as 0. -/
def Bytes.num (bs : Bytes) (o n : Nat) : Nat := leNat ((bs.drop o).take n)

/-- Bits [hi:lo] of a number. -/
def bits (x hi lo : Nat) : Nat := x / 2 ^ lo % 2 ^ (hi + 1 - lo)

/-- Bit i of a number. -/
def bit (x i : Nat) : Bool := x / 2 ^ i % 2 == 1

/-- ceil(a / b). -/
def ceilDiv (a b : Nat) : Nat := (a + (b - 1)) / b

end Sys2Proof
end

