-- ==== Sys2Proof/Syntax.lean ====
section
/-!
DEFINITION. The commands the module takes: one constructor of `Instr` for each row of spec/opcode_table.json, with
the row's operands. What comes from outside the module with a command (bytes of host memory, a received frame, a
device time, a sensor value, the outcome of a check that a hardware upset decides) is an operand of it. An operand
that numbers a part of the module has a type that holds no number beyond the part's range.
-/

namespace Sys2Proof

/-- Physical engine index p, 0 to 51 (R31). -/
abbrev PhysE := Fin 52
/-- Context place c, 0 to 3 (R406). -/
abbrev Place := Fin 4
/-- Partition q, 0 to 7 (R406). -/
abbrev PartId := Fin 8
/-- Submission ring, 0 to 4,095 (R427). -/
abbrev RingId := BitVec 13
/-- External port, 0 to 15 (R366). -/
abbrev PortId := Fin 16
/-- Tilth context number (R382). -/
abbrev TCtx := BitVec 20
/-- PCIe function: 0 is PF0, k is VFk (R426). -/
abbrev Func := Fin 9

/-- Another failure of the same context in the same cc: its class and its detail fields (R175, R504). -/
structure Second where
  cls : Byte
  detail : Bytes
  deriving DecidableEq, Repr

/-- What a protected read meets: nothing, a corrected error, an uncorrectable one in the unit of that place among those
the step reads (64-bit words of Sand, 96-bit partials of Silt, sectors of the other tiers: R283, R308), or a bad CRC on a
link between the dies that brings the data (R501); the last two with another failure of the context in the same cc. -/
inductive ReadErr
  | ok
  | corrected
  | uncorrectable (unit : Nat) (also : Option Second)
  | linkCrc (also : Option Second)
  deriving DecidableEq, Repr

/-- A data-path upset that a check finds: its lane, and another failure in the same cc (R171 to R175). -/
structure Upset where
  lane : BitVec 9
  also : Option Second := none
  deriving DecidableEq, Repr

/-- What the control core's checks meet in one cycle, with another failure of the context in the same cc (R234, R235, R504). -/
inductive CcUpset | none | lockstep (also : Option Second) | eccCorrected | eccUncorrectable (also : Option Second)
  deriving DecidableEq, Repr

/-- What the host returns to a read that a ring makes: the bytes, with whether their completions came under the IDE stream of the
ring's function with the T bit set (R482), or a failed request, by its byte in the range that is read (R446). -/
inductive HostRead
  | got (data : Bytes) (ide : Bool)
  | failed (at_ : Nat)
  deriving DecidableEq, Repr

/-- The reference clocks (R579). -/
inductive RefClk | core | eth | pcie | cxl0 | cxl1
  deriving DecidableEq, Repr

/-- How an SPDM request arrives (R460): at the DOE mailbox of a function, over I3C, over the management port. -/
inductive Transport | doe (f : Func) | i3c | tcp
  deriving DecidableEq, Repr

/-- How a debug request arrives (R494): JTAG, or the management port with its sequence number and the outcome of its MAC check. -/
inductive DbgRoute | jtag | mgmt (seq : W64) (macOk : Bool)
  deriving DecidableEq, Repr

/-- Who makes a BAR0 write: a PCIe function, or Gauntlet (R369, R454). -/
inductive RegSrc | func (f : Func) | gauntlet
  deriving DecidableEq, Repr

/-- What a debug HALT or RESUME acts on (R495). -/
inductive DbgScope | ctx (p : PhysE) (c : Place) | part (q : PartId) | eng (p : PhysE)
  deriving DecidableEq, Repr

/-- An SPDM message's place: its transport and, inside a session, the session's number, and the record that carries it there
(R460). -/
structure SpdmSrc where
  tr : Transport
  sess : Option Nat
  wire : Bytes := []
  deriving DecidableEq, Repr

/-- What a requester shows to authenticate itself (R460, R463): the public key at the root of its certificate chain, the chain,
the key that it certifies, and the signature over the session's transcript. -/
structure Requester where
  root : Bytes
  chain : Bytes
  leaf : Bytes
  sig : Bytes
  deriving DecidableEq, Repr

/-- What the operator sets through its session: the ports of the services of R562, the collector with its ports for records and
telemetry, TEL_PERIOD in ms (R565), and the retired engines that it releases (R525). -/
structure MgmtSet where
  ports : List Nat
  collector : Option (BitVec 128 × Nat × Nat)
  telPeriod : Nat
  release : BitVec 52 := 0
  deriving DecidableEq, Repr

/-- The rails that an over-voltage comparator watches (R578). -/
inductive Rail | vcore0 | vcore1 | vpdie | vserdes | vhbm | vhbmq | vlp1 | vlp2 | vlpq | v1p8 | v3p3
  deriving DecidableEq, Repr

/-- One set of telemetry readings (R564, TEL_PWR, TEL_TEMP, HOLDUP_STAT). Currents are in mA. -/
structure Sample where
  pin : BitVec 16
  vin : BitVec 16
  iin : Nat
  tj0 : Byte
  tj1 : Byte
  tjp : Byte
  thbm : Byte
  tlp : Byte
  tin : BitVec 12
  tout : BitVec 12
  eavail : BitVec 16
  deriving DecidableEq, Repr

/-- A fabric plan as the module keeps it (R566, R568): its digest; the identifier of each location; the planned neighbour
of each port of this module; this module's network tables by table key; the group shift; and whether the job's bind set is
rate-tolerant (R553). (DEDUCED, log entry 75.) -/
structure Plan where
  digest : BitVec 384
  places : List (W32 × Nat)
  neighbours : Tab Nat
  tables : Tab Bytes
  gshift : BitVec 3
  tolerant : Bool
  deriving DecidableEq, Repr

/-- A firmware image as Gauntlet sees it: the digests of its Gauntlet firmware, its sequencer firmware and its library,
whether its two signatures verify, the SHA-384 of the keys under which they do (R467), its SVN, the version of the library
it carries and whether it raises the minimum SVN (R468). -/
structure FwImage where
  digest : BitVec 384
  seq : BitVec 384
  lib : BitVec 384
  sigE : Bool
  sigQ : Bool
  keyE : BitVec 384
  keyQ : BitVec 384
  svn : Nat
  raiseSvn : Bool
  tlibMajor : Byte
  tlibMinor : Byte
  deriving DecidableEq, Repr

/-- A row of an HBM4 stack: the stack, the pseudo-channel, the bank group, the bank and the row (R286, R312). -/
structure HbmRow where
  stack : Nat
  pc : Nat
  bg : Nat
  bank : Nat
  row : Nat
  deriving DecidableEq, Repr

/-- A trained item (R549): the PHY of an HBM4 stack, an LPDDR5X channel, a SerDes lane, a CXL port, the PCIe link. -/
inductive TrainItem
  | hbm (i : Fin 12)
  | lp (i : Fin 64)
  | lane (i : Fin 64)
  | cxl (i : Fin 2)
  | pcie
  deriving DecidableEq, Repr

/-- How an item's training came out (R544, R549, R550): what the use of its saved settings rests on (a junction temperature in °C,
or a device's serial number), the settings that it now has, in tap steps, and whether its validation test passed with the saved
ones. -/
structure ItemTrain where
  item : TrainItem
  ref : Nat
  taps : List Nat
  valid : Bool
  deriving DecidableEq, Repr

/-- One mismatching record of a self-test: the engine, the record's index and its operation code (R103). -/
structure TestFail where
  p : PhysE
  record : BitVec 21
  op : BitVec 16
  deriving DecidableEq, Repr

/-- How the activities that end a start stage came out (R542 to R547, R551, R571). `items` are those trained, `failEng` the
engines that failed BIST, `selfFail` the mismatches of the self-test, `softRows` the rows that Gauntlet repairs softly and
`badRows` the marked rows that failed their test, `mgmtUp` says whether the management port is up, `cxl` the decoded capacities
of the two CXL devices in units of 4 GiB, and `plan` and `fw` are the plan whose network tables, and the firmware image, that a
planned start has brought. -/
structure StageOutcome where
  railOk : Bool
  pDieOk : Bool
  hbmOk : Bool
  lpOk : Bool
  tempOk : Bool
  fwAOk : Bool
  fwBOk : Bool
  mgmtUp : Bool
  items : List ItemTrain
  failEng : BitVec 52
  selfFail : List TestFail
  softRows : List HbmRow
  badRows : List HbmRow
  cxl : Nat × Nat
  plan : Option Plan
  fw : Option FwImage
  ms : W32
  deriving DecidableEq, Repr

/-- What training finds on a port: the lanes that trained, and whether the link partner offers the narrower mode, for port n or
sub-port Pn.0 and for sub-port Pn.1, which have partners of their own (R366, R368). -/
structure LinkState where
  good : BitVec 4
  narrow : Bool
  narrow1 : Bool := false
  deriving DecidableEq, Repr

/-- A PTP message of the default profile with the delay request-response mechanism and two-step event messages (R403). -/
inductive PtpType | sync | delayReq | followUp | delayResp | announce
  deriving DecidableEq, Repr

/-- The identity a neighbour's LLDP frame carries (R567). -/
structure Neighbour where
  nmod : BitVec 17
  nvalid : Bool
  nport : BitVec 4
  nsub : Bool
  nser : W64
  deriving DecidableEq, Repr

/-- A setup policy: the BAR0 offset ranges (first, last) whose writes it refuses (R21, R22). (DESIGN CHOICE, log entry 9.) -/
structure Policy where
  refuse : List (Nat × Nat)
  digest : BitVec 384
  deriving DecidableEq, Repr

/-- What the bring-up relay chains carry (R571): the network tables, the firmware or the weights, from their seed modules along a
chain of modules. -/
inductive PayloadKind | tables | firmware | weights
  deriving DecidableEq, Repr
structure Payload where
  kind : PayloadKind
  seeds : List (BitVec 17)
  chain : List (BitVec 17)
  deriving DecidableEq, Repr

/-- What GO names (R568, R570, R571): the plan's digest, the set key, the payloads, the partition layout as register writes, and
the identifier of a module without a place. -/
structure GoOrder where
  digest : BitVec 384
  setid : W64
  payloads : List Payload
  layout : List (BitVec 26 × W64)
  assign : Option (BitVec 17)
  deriving DecidableEq, Repr

/-- The fabric manager's answer (R570): GO, or HOLD with the modules that it cannot accept. -/
inductive Answer | go (o : GoOrder) | hold (mods : List (BitVec 17))
  deriving DecidableEq, Repr

/-- A JOIN of a member, or the acknowledgement of this module's own (R569). -/
inductive JoinMsg | member (nmod : BitVec 17) | ack
  deriving DecidableEq, Repr

/-- The commands: one constructor for each row of the operation table. -/
inductive Instr
  -- matrix instructions and the M unit's events (chapters 04 and 06)
  | mLoadw (p : PhysE) (c : Place) (err : ReadErr)
  | mPass (p : PhysE) (c : Place) (err : ReadErr)
  | mPasst (p : PhysE) (c : Place) (err : ReadErr)
  | mFold (p : PhysE) (c : Place)
  | mOut (p : PhysE) (c : Place) (err : ReadErr)
  | mSetib (p : PhysE) (c : Place)
  | pendingMBegin (p : PhysE) (err : ReadErr)
  | loadCornerCompare (p : PhysE) (err : ReadErr) (upset : Bool) (also : Option Second)
  | arrayRowCheck (p : PhysE) (err : ReadErr) (upset : Byte) (also : Option Second)
  | passTokenEntry (p : PhysE)
  -- vector instructions (chapters 05 and 06)
  | vAdd (p : PhysE) (c : Place)
  | vSub (p : PhysE) (c : Place)
  | vMul (p : PhysE) (c : Place)
  | vFma (p : PhysE) (c : Place)
  | vCmp (p : PhysE) (c : Place) (upset : Option Upset)
  | vSel (p : PhysE) (c : Place) (upset : Option Upset)
  | vMin (p : PhysE) (c : Place) (upset : Option Upset)
  | vMax (p : PhysE) (c : Place) (upset : Option Upset)
  | vAnd (p : PhysE) (c : Place) (upset : Option Upset)
  | vOr (p : PhysE) (c : Place) (upset : Option Upset)
  | vXor (p : PhysE) (c : Place) (upset : Option Upset)
  | vAndn (p : PhysE) (c : Place) (upset : Option Upset)
  | vShl (p : PhysE) (c : Place) (upset : Option Upset)
  | vShr (p : PhysE) (c : Place) (upset : Option Upset)
  | vSra (p : PhysE) (c : Place) (upset : Option Upset)
  | vCvt (p : PhysE) (c : Place)
  | vPerm (p : PhysE) (c : Place) (upset : Option Upset)
  | vLd (p : PhysE) (c : Place) (err : ReadErr) (upset : Option Upset)
  | vSt (p : PhysE) (c : Place) (upset : Option Upset)
  | vCompress (p : PhysE) (c : Place) (upset : Option Upset)
  | vExpand (p : PhysE) (c : Place) (err : ReadErr) (upset : Option Upset)
  | vSetib (p : PhysE) (c : Place)
  | vPtr (p : PhysE) (c : Place)
  | vSumq (p : PhysE) (c : Place) (ahead : Nat)
  | vLi (p : PhysE) (c : Place)
  | vSetrk (p : PhysE) (c : Place)
  | vPst (p : PhysE) (c : Place)
  | vPlog (p : PhysE) (c : Place)
  | residueCheck (p : PhysE) (upset : Option Upset)
  | compressCountLands (p : PhysE) (c : Place) (kept : Bool)
  -- reduction instructions
  | qSum (p : PhysE) (c : Place) (ahead : Nat) (upset : Option Upset)
  | qSumsq (p : PhysE) (c : Place) (ahead : Nat) (upset : Option Upset)
  | qMax (p : PhysE) (c : Place) (ahead : Nat) (upset : Option Upset)
  | qMin (p : PhysE) (c : Place) (ahead : Nat) (upset : Option Upset)
  | qArgmax (p : PhysE) (c : Place) (ahead : Nat) (upset : Option Upset)
  | qArgmin (p : PhysE) (c : Place) (ahead : Nat) (upset : Option Upset)
  | qNfc (p : PhysE) (c : Place) (ahead : Nat) (upset : Option Upset)
  | qSetib (p : PhysE) (c : Place)
  | sumqHeldWrite (p : PhysE) (c : Place)
  -- data movement
  | dGet (p : PhysE) (c : Place) (err : ReadErr)
  | dPut (p : PhysE) (c : Place) (err : ReadErr)
  | dSend (p : PhysE) (c : Place) (err : ReadErr)
  | dGather (p : PhysE) (c : Place) (err : ReadErr)
  | dIload (p : PhysE) (c : Place) (err : ReadErr)
  | transferPieceLanding (p : PhysE) (c : Place) (id : Nat) (err merge : ReadErr)
  | lockedTransferComplete (p : PhysE) (c : Place) (id : Nat)
  | dChunkHandoff (p : PhysE) (c : Place) (id : Nat) (err : ReadErr)
  | shaleCompletion (p : PhysE) (c : Place) (id : Nat) (err : ReadErr)
  | heldTokenEntry (p : PhysE) (c : Place) (cls : Fin 7)
  | waitExpired (p : PhysE) (c : Place) (core : Bool) (cc : Nat)
  -- control instructions
  | cNop (p : PhysE) (c : Place)
  | cLoop (p : PhysE) (c : Place)
  | cWait (p : PhysE) (c : Place)
  | cArm (p : PhysE) (c : Place)
  | cSetlc (p : PhysE) (c : Place)
  | cSelect (p : PhysE) (c : Place)
  | cJump (p : PhysE) (c : Place)
  | cCommit (p : PhysE) (c : Place)
  | cSwapbank (p : PhysE) (c : Place)
  | cStep (p : PhysE) (c : Place)
  | cEnd (p : PhysE) (c : Place)
  | segmentCommit (p : PhysE) (c : Place) (err table : ReadErr)
  | instructionStreamHeader (p : PhysE) (c : Place)
  | streamSealLands (p : PhysE) (c : Place) (also : Option Second)
  -- control core (chapter 07)
  | ccInstruction (p : PhysE) (c : Place) (upset : CcUpset)
  | ebreak (p : PhysE) (c : Place)
  | csrAccess (p : PhysE) (c : Place) (lost : Bool)
  | xsqPop (p : PhysE) (c : Place)
  | xsel (p : PhysE) (c : Place)
  | xtok (p : PhysE) (c : Place)
  | admitSeq (p : PhysE) (c : Place)
  | capture (p : PhysE) (c : Place)
  | retire (p : PhysE) (c : Place)
  | release (p : PhysE) (c : Place)
  | xcrcB (p : PhysE) (c : Place)
  | xcrcH (p : PhysE) (c : Place)
  | xcrcW (p : PhysE) (c : Place)
  | xcrcSand (p : PhysE) (c : Place)
  | cuffSandFeedComplete (p : PhysE) (c : Place) (err : ReadErr)
  | xrnGo (p : PhysE) (c : Place)
  | randomFillComplete (p : PhysE) (c : Place) (err : ReadErr)
  -- replay, migration and audit (chapter 16)
  | restorationComplete (p : PhysE) (c : Place)
  | replayFirstIssue (p : PhysE) (c : Place)
  | partitionStallEnd (q : PartId)
  | migrationReentry (p : PhysE)
  | engineProbe (p : PhysE) (passed : Bool)
  | auditStart (le : Fin 48) (c : Place)
  | auditCompare (upset : W64)
  -- periods, slices and partitions (chapters 09, 13 and 15)
  | periodBoundary (scrub : ReadErr) (clay : Bool) (addr : BitVec 44)
  | cxlSweepPage (q : PartId)
  | sliceTrigger (k : Fin 8) (now : W64)
  | switchDeadline (p : PhysE)
  | contextEntry (p : PhysE) (c : Place) (now : W64)
  | partitionEnable (q : PartId)
  | partitionDisable (q : PartId)
  | loamZeroingComplete (q : PartId)
  | partitionReset (q : PartId)
  | partitionResetComplete (q : PartId)
  -- setup registers (chapters 01 to 05, 09, 12, 17 and 19)
  | registerWrite (w : RegSrc) (off : BitVec 26) (bytes : Nat) (v : W64)
  | halfReadLatch (f : Func) (off : BitVec 26)
  | detCtlStrictWrite (strict lock : Bool)
  | detCtlLockSet
  | npstStart (spares abort : Bool)
  | npstAbort
  | selfTestEnd (aborted : Bool) (fails : List TestFail)
  | arrInjArm (p : PhysE) (v : W64)
  | vecInjArm (p : PhysE) (v : W64)
  | slotSwitchRequest
  | slotTableSwap
  | swSwitchRequest (gshift : BitVec 3)
  | switchTableSwap (now : W64)
  | engsetReset (w : RegSrc) (mask : BitVec 52)
  | engsetResetComplete (failed : BitVec 52)
  -- host rings (chapter 14)
  | submissionDoorbell (f : Func) (page : BitVec 13) (word : Bool) (t : W32)
  | completionDoorbell (f : Func) (page : BitVec 13) (word : Bool) (h : W32)
  | eventRingDoorbell (f : Func) (page : BitVec 13) (word : Bool) (h : W32)
  | ringEnable (v : W64)
  | ringDisable (v : W64)
  | eventRingEnable (e : Fin 9) (v : W32)
  | descriptorFetch (r : RingId) (d : HostRead)
  | descriptorStart (r : RingId)
  | nop (r : RingId)
  | copy (r : RingId) (data : HostRead) (err : ReadErr)
  | token (r : RingId)
  | stream (r : RingId) (data : HostRead)
  | ctxLoad (r : RingId) (file bind : HostRead)
  | ctxUnload (r : RingId)
  | setup (r : RingId)
  | slotLoad (r : RingId) (data : HostRead)
  | swtabLoad (r : RingId) (data : HostRead)
  | tilthLoad (r : RingId)
  | request (r : RingId)
  | admitBatch (r : RingId)
  | admitBatchTokenEntry (r : RingId)
  | epochLoad (r : RingId)
  | epochSwitch (r : RingId)
  | frameTx (r : RingId) (data : HostRead)
  | frameRx (r : RingId)
  | completionWrite (r : RingId) (ok : Bool)
  | msixInterrupt (r : RingId) (timer : Bool)
  -- clocks, power, starts (chapters 01, 16, 17 and 18)
  | bonnetStep
  | telemetrySample (x : Sample) (now : W64)
  | thermalTrip (sensor : Byte)
  | refclkLoss (r : RefClk)
  | refclkReturn (r : RefClk)
  | powerGood
  | inputPowerLoss
  | modRst
  | hostLinkReset
  | stageAdvance (o : StageOutcome)
  | portTrainingComplete (n : PortId) (l : LinkState) (items : List ItemTrain)
  | linkChange (n : PortId) (l : LinkState)
  | savedSettingsWrite
  | storeBatchWrite (size : Nat)
  | recoveryImage (img : FwImage)
  | fwActivationComplete
  | gauntletLockstepRestart
  -- Gauntlet: mailbox, SPDM, vendor requests, ownership (chapter 15)
  | mbxInfo
  | mbxWindow (w : Byte) (base limit : W64) (rd wr : Bool) (q : PartId) (mod en : Bool)
  | mbxUnwrap (record : Bytes) (slot : BitVec 6) (q : PartId)
  | fwStage (off len : Nat) (img : Option FwImage)
  | fwActivate
  | mbxRotate (q : PartId)
  | getVersion (m : SpdmSrc)
  | getCapabilities (m : SpdmSrc) (v13 : Bool)
  | negotiateAlgorithms (m : SpdmSrc) (common : Bool)
  | getDigests (m : SpdmSrc)
  | getCertificate (m : SpdmSrc) (off len : BitVec 16)
  | challenge (m : SpdmSrc) (nonce : BitVec 256)
  | getMeasurements (m : SpdmSrc) (nonce : BitVec 256)
  | keyExchange (m : SpdmSrc) (pub : Bytes)
  | finish (m : SpdmSrc) (mac : Bytes) (opCert : Option Requester)
  | keyUpdate (m : SpdmSrc) (all : Bool)
  | heartbeat (m : SpdmSrc) (cfg : Option MgmtSet)
  | endSession (m : SpdmSrc)
  | pqBind (m : SpdmSrc) (ct : Bytes)
  | dualSign (m : SpdmSrc)
  | seal (m : SpdmSrc) (dxk : BitVec 256) (imgAlg : Bool) (imgKey : BitVec 384)
  | unseal (m : SpdmSrc)
  | forceUnseal (m : SpdmSrc) (q : PartId)
  | stopInterfaceRequest (f : Func)
  | setWindow (m : SpdmSrc) (w : Byte) (base limit : W64) (rd wr en : Bool)
  | telemetry (m : SpdmSrc)
  | unwrap (m : SpdmSrc) (record : Bytes) (slot : BitVec 6) (q : PartId)
  | rotate (m : SpdmSrc) (q : PartId)
  | setJoin (m : SpdmSrc) (setid : W64) (pub ct wrapped : Bytes)
  | own (m : SpdmSrc) (caE caQ : BitVec 384) (mac : BitVec 384)
  | ownerRelease (m : SpdmSrc) (sigE sigQ : Bool)
  -- operator debug
  | debugHalt (r : DbgRoute) (x : DbgScope)
  | debugResume (r : DbgRoute) (x : DbgScope) (cc : Nat)
  | debugStep (r : DbgRoute) (p : PhysE) (c : Place) (n cc : Nat)
  | debugStepEnd (p : PhysE) (c : Place)
  | debugArm (r : DbgRoute) (p : PhysE) (c : Place)
  | debugReadControl (r : DbgRoute) (p : PhysE) (c : Place)
  | debugReadRegisters (r : DbgRoute) (off : BitVec 26)
  | debugReadData (r : DbgRoute) (space : Byte) (addr : W64) (len : Nat)
  | debugWrite (r : DbgRoute)
  -- network and Tilth (chapter 12)
  | frameReceive (n : PortId) (sub : Bool) (fcsOk : Bool) (frame : Bytes)
  | calendarSlot (n : PortId) (sub : Bool) (now : W64)
  | packetRelease (x : TCtx)
  | tilthDataReceive (i : Fin 4)
  | chunkPlacement (x : TCtx) (err : ReadErr)
  | tilthAckReceive
  | tilthConfirmReceive (i : Fin 4)
  | tilthRetractReceive (i : Fin 4)
  | confirmSend (x : TCtx)
  | ackSend (x : TCtx)
  | retransmitTimeout (x : TCtx)
  | egressDown (n : PortId) (sub : Bool)
  | rateIncrease (x : TCtx)
  | reductionFold (entry : BitVec 12) (upset : Bool)
  | relayRecordComplete (k : Fin 8)
  | relayForward (k : Fin 8)
  | bundleChunkVerify (k : Fin 8) (upset : Bool)
  -- management services (chapters 16 and 17)
  | lldpTransmit (n : PortId)
  | lldpReceive (n : PortId) (x : Neighbour)
  | errorRecordSend
  | recordResend (seq : W64)
  | collectorAck (seq : W64)
  | telemetryDatagram (now : W64)
  | location (code : W32)
  | status
  | offRequest
  | i3cReset
  | entdaa (addr : BitVec 7)
  | join (x : JoinMsg)
  | joinTimeout
  | register (acting : Option (BitVec 17))
  | go (o : GoOrder) (ms : W32)
  | hold (mods : List (BitVec 17))
  -- rows added to the table after the first
  | perstRelease
  | lockInterfaceRequest (f : Func)
  | startInterfaceRequest (f : Func)
  | ideKeySetActivate (strm : Fin 10) (set : Bool)
  | vfEnable (f : Func) (on : Bool)
  | cxlLinkFailure (port : Bool)
  | timeToLiveExpiry (n : PortId)
  | recoveryImageTimeout (mgmtUp : Bool)
  | storeBatchComplete
  | slewBackComplete (r : RefClk)
  | overVoltageShutdown (rail : Rail)
  | ptpMessageTransmit (n : PortId) (sub : Bool) (typ : PtpType) (now : W64)
  | setupPolicyInstall (pol : Policy)
  deriving DecidableEq, Repr

end Sys2Proof
end

