-- ==== Sys2Proof/Decode.lean ====
section
/-!
DEFINITION. The command that a word of the operation table spells. The table of this hardware gives its rows no bits:
its commands are events of the module and not words, so no word spells one. (The words that the engines fetch are decoded
in Machine/Operands.lean, and the control core's in Machine/ControlCore.lean.)
-/

namespace Sys2Proof

/-- The command that the `nbits` bits of `w` spell by the table's bits: none, since no row has bits. (DEDUCED, log entry
97.) -/
def decodeTableWord (_nbits _w : Nat) : Option Instr := none

end Sys2Proof
end

