-- ==== Sys2Proof/Config.lean ====
section
/-!
DEFINITION. What the spec leaves to the implementation or to published algorithms that it names without laying them
down: opaque constants, of which nothing can be proved but what holds for every value. Each is named in the assumption
log. A free value that must be fresh on each use is applied to `State.fresh`.
-/

namespace Sys2Proof

/-- AES-256 under a key, as the round functions of a balanced Feistel network, which has every even permutation of the
blocks among its values (R472). (DESIGN CHOICE, log entry 4.) -/
opaque Config.aesRounds : BitVec 256 → List (BitVec 64 → BitVec 64)

/-- Data that a lost rail, a repaired row or a lost tier leaves behind: the number of the event and the address. (DESIGN
CHOICE, log entry 99.) -/
opaque Config.freeByte : Nat → Nat → Byte

/-- SHA-384 (R257, R462). (PRESUMED, log entry 80.) -/
opaque Config.sha384 : Bytes → BitVec 384

/-- A signature under the key that a seed generates: whether ML-DSA-87 signs and not ECDSA P-384, the seed, the message, a
fresh number (R459, R461). (DESIGN CHOICE, log entry 79, PRESUMED, log entry 80.) -/
opaque Config.sign : Bool → Bytes → Bytes → Nat → Bytes

/-- The certificate of the alias key that a seed generates, signed with the DevID key of another: whether the keys are
ML-DSA-87 and not ECDSA P-384, the DevID seed, the alias seed (R459). (DESIGN CHOICE, log entry 79.) -/
opaque Config.aliasCert : Bool → Bytes → Bytes → Bytes

/-- ECDH on P-384: the public value of a private one, and the shared secret of a private value and a peer's public one
(R460, R488). (PRESUMED, log entry 80.) -/
opaque Config.ecdhPub : Bytes → Bytes
opaque Config.ecdh : Bytes → Bytes → Bytes

/-- ML-KEM-1024: the shared secret of a ciphertext under the key that a seed generates (R462, R488). (PRESUMED, log
entry 80.) -/
opaque Config.kemDecaps : Bytes → Bytes → Bytes

/-- ML-KEM-1024: the public key that a seed generates; and its certificate under the ML-DSA-87 alias key of a seed (R459). (DESIGN
CHOICE, log entry 79, PRESUMED, log entry 80.) -/
opaque Config.kemPub : Bytes → Bytes
opaque Config.kemCert : Bytes → Bytes → Bytes

/-- A certificate chain from a root key certifies a leaf key, and a signature of a message verifies under a key (R463).
(PRESUMED, log entry 80.) -/
opaque Config.chains : Bytes → Bytes → Bytes → Bool
opaque Config.signed : Bytes → Bytes → Bytes → Bool

/-- A random value that Gauntlet draws, by the number of the draw. (PRESUMED, log entry 80, DESIGN CHOICE, log entry
99.) -/
opaque Config.random : Nat → BitVec 384

/-- AES-256-GCM under a key: the plaintext of a ciphertext with its nonce, additional data and tag, when the tag is right
(R363). (PRESUMED, log entry 80.) -/
opaque Config.gcmOpen : BitVec 256 → Bytes → Bytes → Bytes → Bytes → Option Bytes

/-- AES-256-GCM under a key: the ciphertext and the tag of a nonce, additional data and a plaintext (R498). (PRESUMED, log entry
80.) -/
opaque Config.gcmSeal : BitVec 256 → Bytes → Bytes → Bytes → Bytes

/-- The contents of the 128 KiB boot ROM (R453, R464). (DESIGN CHOICE, log entry 99.) -/
opaque Config.rom : Bytes

/-- The spare rows of a bank group of an HBM4 stack (R312). (DESIGN CHOICE, log entry 124.) -/
opaque Config.spareRows : Nat

/-- The addresses that SLAAC and DHCP give the management port, by SERIAL (R561). (DESIGN CHOICE, log entry 125.) -/
opaque Config.slaacAddr : W64 → BitVec 128
opaque Config.dhcpAddr : W64 → BitVec 32

/-- The class code of a record of class "store deferred" (R559), which the table of R501 does not list. (DESIGN CHOICE,
log entry 73.) -/
opaque Config.storeDeferred : Nat

/-- The class code of the record that a failed start sends (R546), which the table of R501 does not list. (DESIGN CHOICE,
log entry 73.) -/
opaque Config.startFailed : Nat

/-- Detail of a completion whose status the tables give and whose detail they do not, by the occasion. (DEDUCED, log entry
46, DESIGN CHOICE, log entry 55.) -/
opaque Config.openDetail : Nat → W64

/-- The number of a NUMPROF field, which a completion with IMAGE code 0x03 names, by the field's place in the table
(R446). (DESIGN CHOICE, log entry 98.) -/
opaque Config.npField : Nat → Nat

/-- A signature of an image verifies: its algorithm, the hash of the public key, the digest signed, the signature
(R483). (PRESUMED, log entry 80.) -/
opaque Config.verify : Nat → BitVec 384 → BitVec 384 → Bytes → Bool

/-- The bytes of a response or message whose layout is not laid down: which one, and what it carries. (DESIGN CHOICE, log
entry 79, DESIGN CHOICE, log entry 84.) -/
opaque Config.layout : Nat → Bytes → Bytes

end Sys2Proof
end

