-- ==== Sys2Proof/Machine/Xts.lean ====
section
/-!
DEFINITION. AES-256-XTS under IEEE 1619 over byte memory (R472): the tweak of a 16-byte block, the encryption of blocks with
a tweak of their own each, and reads and writes of a memory that holds ciphertext.
-/

namespace Sys2Proof.Machine

/-- One step of the cipher on its two halves, and the step back. -/
def halfStep (f : BitVec 64 → BitVec 64) (b : BitVec 128) : BitVec 128 :=
  let l := b.extractLsb' 64 64
  let r := b.extractLsb' 0 64
  r ++ (l ^^^ f r)
def halfBack (f : BitVec 64 → BitVec 64) (b : BitVec 128) : BitVec 128 :=
  let r := b.extractLsb' 64 64
  let x := b.extractLsb' 0 64
  (x ^^^ f r) ++ r

/-- AES-256 of one block under a key, and its inverse. (DESIGN CHOICE, log entry 4.) -/
def aesEnc (k : BitVec 256) (b : BitVec 128) : BitVec 128 := (Config.aesRounds k).foldl (fun b f => halfStep f b) b
def aesDec (k : BitVec 256) (b : BitVec 128) : BitVec 128 := (Config.aesRounds k).foldr halfBack b

/-- A tweak multiplied by α in GF(2^128) (IEEE 1619, little-endian). (PRESUMED, log entry 4.) -/
def mulAlpha (t : BitVec 128) : BitVec 128 := if t.msb then (t <<< 1) ^^^ 0x87 else t <<< 1

/-- The tweak of block j of a data unit: the encrypted unit number times α^j. -/
def blockTweak (k : BitVec 256) (unit : BitVec 128) : Nat → BitVec 128
  | 0 => aesEnc k unit
  | j + 1 => mulAlpha (blockTweak k unit j)

/-- Block j of a data unit encrypted and decrypted under the data and tweak keys of a slot (R457, R472). A slot that holds
no key leaves the block as it is. (DESIGN CHOICE, log entry 4.) -/
def xtsEnc (ks : List (BitVec 256)) (unit : BitVec 128) (j : Nat) (b : BitVec 128) : BitVec 128 :=
  match ks with
  | k :: t :: _ => let w := blockTweak t unit j; aesEnc k (b ^^^ w) ^^^ w
  | _ => b
def xtsDec (ks : List (BitVec 256)) (unit : BitVec 128) (j : Nat) (b : BitVec 128) : BitVec 128 :=
  match ks with
  | k :: t :: _ => let w := blockTweak t unit j; aesDec k (b ^^^ w) ^^^ w
  | _ => b

/-- n blocks of 16 bytes from address a, each changed by `op` at its address. -/
def cipherBlocks (op : Nat → BitVec 128 → BitVec 128) (a : Nat) : Nat → Bytes → Bytes
  | 0, _ => []
  | n + 1, bs => leBytes 16 (op a (BitVec.ofNat 128 (leNat (bs.take 16)))).toNat ++ cipherBlocks op (a + 16) n (bs.drop 16)

/-- n bytes at address a of a memory of ciphertext: `key` names the slot's keys for a block's address, `unit` its data unit's
tweak. -/
def xtsRead (m : Mem) (key : Nat → List (BitVec 256)) (unit : Nat → BitVec 128) (a n : Nat) : Bytes :=
  let lo := a / 16 * 16
  let k := ceilDiv (a + n - lo) 16
  ((cipherBlocks (fun b x => xtsDec (key b) (unit b) (b % 4096 / 16) x) lo k (m.bytes lo (16 * k))).drop (a - lo)).take n

/-- Bytes written at address a of a memory of ciphertext: the units of `grain` bytes (16 or 64) that they touch are read under
`old`, and encrypted with the new bytes under `new`. -/
def xtsStore (m : Mem) (old new : Nat → List (BitVec 256)) (unit : Nat → BitVec 128) (grain a : Nat) (bs : Bytes) : Mem :=
  let lo := a / grain * grain
  let n := ceilDiv (a + bs.length - lo) grain * grain
  let was := xtsRead m old unit lo n
  let now := was.take (a - lo) ++ bs ++ was.drop (a - lo + bs.length)
  m.store lo (cipherBlocks (fun b x => xtsEnc (new b) (unit b) (b % 4096 / 16) x) lo (n / 16) now)

end Sys2Proof.Machine
end

