-- ==== Sys2Proof/Machine/Crypto.lean ====
section
/-!
DEFINITION. What Gauntlet computes from its accelerators (R453): HMAC-SHA-384 (RFC 2104) and HKDF-SHA-384 (RFC 5869) over
SHA-384, the AES-256 key wrap of RFC 3394, and the labels of the SPDM key schedule (R460).
-/

namespace Sys2Proof.Machine

/-- The bytes of a text. -/
def ascii (t : String) : Bytes := t.toList.map (fun c => BitVec.ofNat 8 c.toNat)

/-- The 48 bytes of a digest. -/
def digestBytes (d : BitVec 384) : Bytes := leBytes 48 d.toNat

/-- SHA-384 of a message, as bytes. -/
def sha384 (m : Bytes) : Bytes := digestBytes (Config.sha384 m)

/-- A key as one block of 128 bytes, each combined with x. -/
def keyPad (x : Byte) (k : Bytes) : Bytes :=
  let k := if 128 < k.length then sha384 k else k
  (k ++ List.replicate (128 - k.length) 0).map (fun b => b ^^^ x)

/-- HMAC-SHA-384 (RFC 2104). (PRESUMED, log entry 80.) -/
def hmac384 (k m : Bytes) : Bytes := sha384 (keyPad 0x5C k ++ sha384 (keyPad 0x36 k ++ m))

/-- HKDF-SHA-384's two steps (RFC 5869): a pseudorandom key from a salt and keying material, and n bytes from such a key and an
info string. (PRESUMED, log entry 80.) -/
def hkdfExtract (salt ikm : Bytes) : Bytes := hmac384 salt ikm
def hkdfBlocks (prk info : Bytes) : Nat → Nat → Bytes → Bytes
  | 0, _, _ => []
  | n + 1, i, prev =>
    let t := hmac384 prk (prev ++ info ++ [BitVec.ofNat 8 i])
    t ++ hkdfBlocks prk info n (i + 1) t
def hkdfExpand (prk info : Bytes) (n : Nat) : Bytes := (hkdfBlocks prk info (ceilDiv n 48) 1 []).take n

/-- HKDF-SHA-384 without a salt. (PRESUMED, log entry 80.) -/
def hkdf (ikm info : Bytes) (n : Nat) : Bytes := hkdfExpand (hkdfExtract [] ikm) info n

/-- A 256-bit key from its 32 bytes. -/
def keyOf (b : Bytes) : BitVec 256 := BitVec.ofNat 256 (leNat b)

/-! ## Key wrap -/

/-- Step t of unwrapping four blocks of 8 bytes: the check register and the blocks (RFC 3394, 2.2.2). (PRESUMED, log entry
80.) -/
def unwrapStep (k : BitVec 256) (s : Bytes × List Bytes) (t : Nat) : Bytes × List Bytes :=
  let i := (t - 1) % 4
  let a := s.1.take 7 ++ (s.1.drop 7).map (fun b => b ^^^ BitVec.ofNat 8 t)
  let b := leBytes 16 (aesDec k (BitVec.ofNat 128 (leNat (a ++ (s.2[i]?).getD [])))).toNat
  (b.take 8, s.2.set i (b.drop 8))

/-- The 32 bytes of key in a wrapped key of 40 bytes, when its integrity check passes (R488, R489). -/
def keyUnwrap (k : BitVec 256) (w : Bytes) : Option Bytes :=
  if w.length ≠ 40 then none
  else
    let r := (List.range 24).foldl (fun s j => unwrapStep k s (24 - j))
      (w.take 8, (List.range 4).map (fun i => (w.drop (8 + 8 * i)).take 8))
    if r.1 = List.replicate 8 0xA6 then some r.2.flatten else none

/-! ## The SPDM key schedule -/

/-- An info string of the key schedule: a length of output, the version, a label and a context (DSP0277). (PRESUMED, log
entry 80.) -/
def binStr (v13 : Bool) (n : Nat) (label : String) (context : Bytes) : Bytes :=
  leBytes 2 n ++ ascii (if v13 then "spdm1.3 " else "spdm1.2 ") ++ ascii label ++ context

/-- A 48-byte secret of the schedule: from a secret, a label and a transcript hash. -/
def spdmSecret (v13 : Bool) (secret : Bytes) (label : String) (context : Bytes) : Bytes :=
  hkdfExpand secret (binStr v13 48 label context) 48

/-- The AEAD key and the base nonce of a direction. -/
def spdmKey (v13 : Bool) (secret : Bytes) : BitVec 256 := keyOf (hkdfExpand secret (binStr v13 32 "key" []) 32)
def spdmIv (v13 : Bool) (secret : Bytes) : Bytes := hkdfExpand secret (binStr v13 12 "iv" []) 12

/-- The nonce of record n of a direction: the base nonce combined with the sequence number. -/
def spdmNonce (v13 : Bool) (secret : Bytes) (n : Nat) : Bytes :=
  (spdmIv v13 secret).zipWith (fun a b => a ^^^ b) (leBytes 12 n)

end Sys2Proof.Machine
end

