-- ==== Sys2Proof/Machine/Flags.lean ====
section
/-!
DEFINITION. The conversion flags of R90.
-/

namespace Sys2Proof.Machine

/-- The flags INV, OVF, UNF, INX that one conversion raises (R90). -/
structure Flags where
  inv : Bool := false
  ovf : Bool := false
  unf : Bool := false
  inx : Bool := false
  deriving DecidableEq, Repr

/-- No flag raised. -/
def Flags.none : Flags := {}

/-- The flags of two conversions together: the sticky words OR them (R90, R153). -/
def Flags.or (a b : Flags) : Flags :=
  { inv := a.inv || b.inv, ovf := a.ovf || b.ovf, unf := a.unf || b.unf, inx := a.inx || b.inx }

/-- The flags as the bits of VEC_FLAGS_c and ARR_TSTAT_c: INV, OVF, UNF, INX in bits 0 to 3. -/
def Flags.word (f : Flags) : Nat :=
  f.inv.toNat + 2 * f.ovf.toNat + 4 * f.unf.toNat + 8 * f.inx.toNat

end Sys2Proof.Machine
end

