-- ==== Sys2Proof/Machine/Numeric.lean ====
section
/-!
DEFINITION. Number formats, rounding and exact arithmetic (chapter 03): the formats of R71 and R72, the rounding
modes of R85 to R90, P96 (R81 to R84), E8M0 and MX blocks (R76 to R78, R93), and the exact sums, products and
comparisons that the vector engine, the arrays and the reduction unit round from.
-/

namespace Sys2Proof.Machine

/-- The formats of R71 that hold one number. An MX format's element format is the per-tensor format with the same
bits; `Fmt.mx` marks the MX code. -/
inductive Fmt
  | fp32 | bf16 | e4m3 | e5m2 | e3m2 | e2m3 | e2m1 | int32
  | mx8a | mx8b | mx6a | mx6b | mx4
  | e8m0 | p96
  deriving DecidableEq, Repr

/-- The format a 4-bit code names; 0xF is reserved (R71). -/
def Fmt.ofCode : Nat → Option Fmt
  | 0x0 => some .fp32 | 0x1 => some .bf16 | 0x2 => some .e4m3 | 0x3 => some .e5m2
  | 0x4 => some .e3m2 | 0x5 => some .e2m3 | 0x6 => some .e2m1 | 0x7 => some .int32
  | 0x8 => some .mx8a | 0x9 => some .mx8b | 0xA => some .mx6a | 0xB => some .mx6b
  | 0xC => some .mx4 | 0xD => some .e8m0 | 0xE => some .p96
  | _ => none

/-- The code of a format (R71). -/
def Fmt.code : Fmt → Nat
  | .fp32 => 0x0 | .bf16 => 0x1 | .e4m3 => 0x2 | .e5m2 => 0x3 | .e3m2 => 0x4 | .e2m3 => 0x5 | .e2m1 => 0x6
  | .int32 => 0x7 | .mx8a => 0x8 | .mx8b => 0x9 | .mx6a => 0xA | .mx6b => 0xB | .mx4 => 0xC | .e8m0 => 0xD | .p96 => 0xE

/-- The element format of an MX format, and every other format itself (R71). -/
def Fmt.elem : Fmt → Fmt
  | .mx8a => .e4m3 | .mx8b => .e5m2 | .mx6a => .e3m2 | .mx6b => .e2m3 | .mx4 => .e2m1
  | f => f

/-- An MX format (codes 0x8 to 0xC). -/
def Fmt.isMx : Fmt → Bool
  | .mx8a | .mx8b | .mx6a | .mx6b | .mx4 => true
  | _ => false

/-- A narrow format with a per-tensor scale (codes 0x2 to 0x6). -/
def Fmt.isNarrow : Fmt → Bool
  | .e4m3 | .e5m2 | .e3m2 | .e2m3 | .e2m1 => true
  | _ => false

/-- Bits of one element (R71). -/
def Fmt.width : Fmt → Nat
  | .fp32 | .int32 => 32
  | .bf16 => 16
  | .e4m3 | .e5m2 | .mx8a | .mx8b | .e8m0 => 8
  | .e3m2 | .e2m3 | .mx6a | .mx6b => 6
  | .e2m1 | .mx4 => 4
  | .p96 => 96

/-- The parameters of a floating-point format (R72, and binary32 and BF16). Codes are those of a positive value. -/
structure FloatP where
  frac : Nat
  bias : Nat
  emax : Int
  maxCode : Nat
  inf : Option Nat
  nan : Option Nat
  signBit : Nat
  deriving DecidableEq, Repr

/-- R72 and the text on BF16 and FP32; formats that are no floating-point format take the last line. -/
def Fmt.par (f : Fmt) : FloatP :=
  match f.elem with
  | .fp32 => ⟨23, 127, 127, 0x7F7F_FFFF, some 0x7F80_0000, some 0x7FC0_0000, 31⟩
  | .bf16 => ⟨7, 127, 127, 0x7F7F, some 0x7F80, some 0x7FC0, 15⟩
  | .e4m3 => ⟨3, 7, 8, 0x7E, none, some 0x7F, 7⟩
  | .e5m2 => ⟨2, 15, 15, 0x7B, some 0x7C, some 0x7F, 7⟩
  | .e3m2 => ⟨2, 3, 4, 0x1F, none, none, 5⟩
  | .e2m3 => ⟨3, 1, 2, 0x1F, none, none, 5⟩
  | _ => ⟨1, 1, 2, 0x7, none, none, 3⟩

/-- A number: NaN, an infinity, or (−1)^neg × m × 2^e exactly. A zero (m = 0) keeps its sign. -/
inductive Num
  | nan
  | inf (neg : Bool)
  | fin (neg : Bool) (m : Nat) (e : Int)
  deriving DecidableEq, Repr

/-- +0. -/
def Num.zero : Num := .fin false 0 0

/-- floor(log2(m)) of a nonzero m; 0 for 0. -/
def log2 (m : Nat) : Nat := Nat.log2 m

/-- m × 2^e as an integer pair with the smaller exponent f ≤ e: m × 2^(e − f). -/
def shiftTo (m : Nat) (e f : Int) : Nat := m * 2 ^ (e - f).toNat

/-- The signed integer of a magnitude. -/
def sgn (neg : Bool) (m : Nat) : Int := if neg then -(m : Int) else (m : Int)

/-- A number from a signed integer times 2^e; a zero is +0. -/
def Num.ofInt (x : Int) (e : Int) : Num := .fin (decide (x < 0)) x.natAbs e

/-- Reads a floating-point code (R72, R73: subnormals are kept). -/
def FloatP.decode (p : FloatP) (code : Nat) : Num :=
  let neg := bit code p.signBit
  let mag := code % 2 ^ p.signBit
  if mag ≤ p.maxCode then
    let e := mag / 2 ^ p.frac
    let f := mag % 2 ^ p.frac
    if e = 0 then .fin neg f (1 - (p.bias : Int) - p.frac)
    else .fin neg (2 ^ p.frac + f) ((e : Int) - p.bias - p.frac)
  else if p.inf = some mag then .inf neg else .nan

/-- Reads one element of a format that holds one number: floating point, INT32, E8M0 (R76, R78). -/
def Fmt.decode (f : Fmt) (code : Nat) : Num :=
  match f with
  | .int32 => if bit code 31 then .fin true (2 ^ 32 - code % 2 ^ 32) 0 else .fin false (code % 2 ^ 32) 0
  | .e8m0 => if code % 256 = 255 then .nan else .fin false 1 ((code % 256 : Nat) - 127)
  | f => f.par.decode code

/-- The rounding modes of R85, by their 2-bit codes. -/
inductive Rm | rne | sr | rz | rdn
  deriving DecidableEq, Repr

/-- R85. -/
def Rm.ofCode (c : Nat) : Rm :=
  match c % 4 with
  | 0 => .rne | 1 => .sr | 2 => .rz | _ => .rdn

/-- Rounds the magnitude m × 2^e to a multiple of 2^q: the multiple, and whether the value was not one. The word r
is the random word of R86 and matters under SR only. -/
def roundMag (rm : Rm) (neg : Bool) (r : Nat) (m : Nat) (e q : Int) : Nat × Bool :=
  if q ≤ e then (m * 2 ^ (e - q).toNat, false)
  else
    let k := (q - e).toNat
    let lo := m / 2 ^ k
    let rem := m % 2 ^ k
    if rem = 0 then (lo, false)
    else
      let up := match rm with
        | .rne => decide (2 ^ k < 2 * rem) || (decide (2 * rem = 2 ^ k) && decide (lo % 2 = 1))
        | .sr => decide (2 ^ 32 ≤ rem * 2 ^ 32 / 2 ^ k + r)
        | .rz => false
        | .rdn => neg
      (if up then lo + 1 else lo, true)

/-- The exponent of the spacing u of a target at m × 2^e (R86, R88): the spacing of the subnormals below the least
normal exponent and the spacing at the greatest one above it. -/
def FloatP.quantum (p : FloatP) (m : Nat) (e : Int) : Int :=
  let l := (log2 m : Int) + e
  let l := if l < 1 - (p.bias : Int) then 1 - (p.bias : Int) else l
  let l := if p.emax < l then p.emax else l
  l - p.frac

/-- The signed code of a magnitude code. -/
def FloatP.sign (p : FloatP) (neg : Bool) (code : Nat) : Nat := code + if neg then 2 ^ p.signBit else 0

/-- Rounds an exact number once into a floating-point format (R79, R85 to R90). -/
def FloatP.encode (p : FloatP) (rm : Rm) (sat : Bool) (r : Nat) (v : Num) : Nat × Flags :=
  match v with
  | .nan =>
    match p.nan with
    | some c => (c, {})
    | none => (0, { inv := true })
  | .inf neg =>
    match p.inf, p.nan with
    | some c, _ => if sat then (p.sign neg p.maxCode, { inx := true }) else (p.sign neg c, {})
    | none, some c => (if sat then p.sign neg p.maxCode else c, { inv := true, inx := true })
    | none, none => (p.sign neg p.maxCode, { inv := true, inx := true })
  | .fin neg m e =>
    if m = 0 then (p.sign neg 0, {})
    else
      let q := p.quantum m e
      let (n, inexact) := roundMag rm neg r m e q
      -- the code of n × 2^q: the subnormal and the normal codes are one rising sequence
      let code := (q - (1 - (p.bias : Int) - p.frac)).toNat * 2 ^ p.frac + n
      if p.maxCode < code ∧ q = p.emax - p.frac then
        let fl : Flags := { ovf := true, inx := true }
        if sat || rm == .rz || (rm == .rdn && !neg) then (p.sign neg p.maxCode, fl)
        else
          match p.inf, p.nan with
          | some c, _ => (p.sign neg c, fl)
          | none, some c => (c, fl)
          | none, none => (p.sign neg p.maxCode, fl)
      else (p.sign neg code, { unf := n == 0, inx := inexact })

/-- Rounds an exact number to INT32 (R89, R96). -/
def encodeInt32 (rm : Rm) (r : Nat) (v : Num) : Nat × Flags :=
  match v with
  | .nan => (0, { inv := true })
  | .inf neg => (if neg then 2 ^ 31 else 2 ^ 31 - 1, { inv := true, inx := true })
  | .fin neg m e =>
    let (n, inexact) := roundMag rm neg r m e 0
    if neg then
      if 2 ^ 31 < n then (2 ^ 31, { ovf := true, inx := true })
      else ((2 ^ 32 - n) % 2 ^ 32, { unf := n == 0 && m != 0, inx := inexact })
    else if 2 ^ 31 - 1 < n then (2 ^ 31 - 1, { ovf := true, inx := true })
    else (n, { unf := n == 0 && m != 0, inx := inexact })

/-! ## P96 -/

/-- The canonical encodings of R82 that hold no finite nonzero value. -/
def p96Zero : Nat := 0x8000 * 2 ^ 80
def p96Nan : Nat := 0x7FFF * 2 ^ 80
def p96Inf (neg : Bool) : Nat := 0x7FFF * 2 ^ 80 + if neg then 2 ^ 80 - 1 else 1

/-- Reads a P96 value; an encoding outside R82's table is NaN. -/
def p96Decode (w : Nat) : Num :=
  let sig := w % 2 ^ 80
  let exp := w / 2 ^ 80 % 2 ^ 16
  let neg := bit sig 79
  let mag := if neg then 2 ^ 80 - sig else sig
  if exp = 0x8000 then (if sig = 0 then .zero else .nan)
  else if exp = 0x7FFF then
    if sig = 1 then .inf false else if sig = 2 ^ 80 - 1 then .inf true else .nan
  else
    let e : Int := if bit exp 15 then (exp : Int) - 2 ^ 16 else exp
    if bit sig 79 != bit sig 78 then .fin neg mag e
    else if exp = 0x8001 ∧ sig ≠ 0 then .fin neg mag e
    else .nan

/-- The words of S × 2^E (R81). -/
def p96Raw (neg : Bool) (m : Nat) (e : Int) : Nat :=
  (if neg then (2 ^ 80 - m) % 2 ^ 80 else m) + (e % 2 ^ 16).toNat * 2 ^ 80

/-- Rounds an exact number to P96: the finite form of R82, RNE at 80 significand bits (R83). A negative power of two
has S = −2^79. -/
def p96Encode (v : Num) : Nat :=
  match v with
  | .nan => p96Nan
  | .inf neg => p96Inf neg
  | .fin neg m e =>
    if m = 0 then p96Zero
    else
      let q := (log2 m : Int) + e - 78
      let n := (roundMag .rne neg 0 m e q).1
      -- n lies between 2^78 and 2^79
      let (n, q) := if neg && n == 2 ^ 78 then (2 ^ 79, q - 1)
                    else if !neg && n == 2 ^ 79 then (2 ^ 78, q + 1) else (n, q)
      if 32766 < q then p96Inf neg
      else if q < -32767 then
        let n := (roundMag .rne neg 0 m e (-32767)).1
        if n = 0 then p96Zero else p96Raw neg n (-32767)
      else p96Raw neg n q

/-! ## Exact arithmetic -/

/-- The negation. -/
def Num.neg : Num → Num
  | .nan => .nan
  | .inf n => .inf !n
  | .fin n m e => .fin (!n) m e

/-- The exact sum. An exact zero is −0 only when both operands are −0 (IEEE 754-2019 under RNE). -/
def Num.add : Num → Num → Num
  | .nan, _ => .nan
  | _, .nan => .nan
  | .inf a, .inf b => if a = b then .inf a else .nan
  | .inf a, .fin .. => .inf a
  | .fin .., .inf b => .inf b
  | .fin a m e, .fin b n f =>
    if m = 0 ∧ n = 0 then .fin (a && b) 0 0
    else
      let g := if e ≤ f then e else f
      Num.ofInt (sgn a (shiftTo m e g) + sgn b (shiftTo n f g)) g

/-- The exact product. -/
def Num.mul : Num → Num → Num
  | .nan, _ => .nan
  | _, .nan => .nan
  | .inf a, .inf b => .inf (a != b)
  | .inf a, .fin b m _ => if m = 0 then .nan else .inf (a != b)
  | .fin a m _, .inf b => if m = 0 then .nan else .inf (a != b)
  | .fin a m e, .fin b n f => .fin (a != b) (m * n) (e + f)

/-- The product with a positive finite scale (R91, R92, R94), or the number itself when no scale applies. -/
def Num.scale (v : Num) : Option Num → Num
  | none => v
  | some s => v.mul s

/-- The order of two numbers that are not NaN, with −0 equal to +0. -/
def Num.cmp : Num → Num → Ordering
  | .inf a, .inf b => if a = b then .eq else if a then .lt else .gt
  | .inf a, _ => if a then .lt else .gt
  | _, .inf b => if b then .gt else .lt
  | .fin a m e, .fin b n f =>
    let g := if e ≤ f then e else f
    compare (sgn a (shiftTo m e g)) (sgn b (shiftTo n f g))
  | _, _ => .eq

/-- NaN or infinite. -/
def Num.nonFinite : Num → Bool
  | .fin .. => false
  | _ => true

/-- The total order of R166, with −0 below +0; NaN takes no part. -/
def Num.lt (a b : Num) : Bool :=
  match Num.cmp a b with
  | .lt => true
  | .gt => false
  | .eq => match a, b with
    | .fin true 0 _, .fin false 0 _ => true
    | _, _ => false

/-- P96 addition (R83). -/
def p96Add (a b : Nat) : Nat := p96Encode ((p96Decode a).add (p96Decode b))

/-- Rounds to the target of a conversion: floating point, INT32 or P96 (R84 to R96). (DEDUCED, log entry 16.) -/
def Fmt.encode (f : Fmt) (rm : Rm) (sat : Bool) (r : Nat) (v : Num) : Nat × Flags :=
  match f with
  | .int32 => encodeInt32 rm r v
  | .p96 => (p96Encode v, {})
  | f => f.par.encode rm sat r v

/-! ## MX blocks -/

/-- A per-tensor scale: a finite, positive, normal FP32 value (R75). -/
def scaleOk (w : Nat) : Bool := 0x0080_0000 ≤ w % 2 ^ 32 && w % 2 ^ 32 ≤ 0x7F7F_FFFF

/-- Encodes one block into an MX element format (R93): the scale code, the elements, the flags. `rs` holds the random
words of the elements under SR. -/
def mxEncode (f : Fmt) (rm : Rm) (sat : Bool) (rs : List Nat) (xs : List Num) : Nat × List Nat × Flags :=
  if xs.any Num.nonFinite then (0xFF, xs.map (fun _ => 0), { inv := true })
  else
    let logs := xs.filterMap (fun x => match x with
      | .fin _ m e => if m = 0 then none else some ((log2 m : Int) + e)
      | _ => none)
    match logs with
    | [] => (0x00, xs.map (fun _ => 0), {})
    | l :: ls =>
      let e := ls.foldl max l
      let c := min 254 (max 0 (e - f.par.emax + 127))
      let elems := (xs.zip (rs ++ xs.map (fun _ => 0))).map (fun (x, r) => f.par.encode rm sat r (x.mul (.fin false 1 (127 - c))))
      (c.toNat, elems.map (·.1), elems.foldl (fun a x => a.or x.2) {})

/-! ## The vector engine's scalar operations (R80) -/

/-- The result of an FP32 or BF16 operation: the exact value rounded once by RNE, overflow by R88 with SAT = 0. -/
def Fmt.rne (f : Fmt) (v : Num) : Nat := (f.par.encode .rne false 0 v).1

/-- Add (R80, R79). -/
def Fmt.add (f : Fmt) (a b : Nat) : Nat :=
  match f with
  | .int32 => (a + b) % 2 ^ 32
  | f => f.rne ((f.decode a).add (f.decode b))

/-- Subtract: the sum with the negated operand. -/
def Fmt.sub (f : Fmt) (a b : Nat) : Nat :=
  match f with
  | .int32 => (a + (2 ^ 32 - b % 2 ^ 32)) % 2 ^ 32
  | f => f.rne ((f.decode a).add (f.decode b).neg)

/-- Multiply; INT32 returns the low 32 bits. -/
def Fmt.mul (f : Fmt) (a b : Nat) : Nat :=
  match f with
  | .int32 => a * b % 2 ^ 32
  | f => f.rne ((f.decode a).mul (f.decode b))

/-- Fused multiply-add a × b + c with one rounding. -/
def Fmt.fma (f : Fmt) (a b c : Nat) : Nat := f.rne (((f.decode a).mul (f.decode b)).add (f.decode c))

/-- Minimum and maximum (R151): NaN when either operand is NaN, −0 below +0; INT32 is signed. -/
def Fmt.minMax (f : Fmt) (wantMax : Bool) (a b : Nat) : Nat :=
  let x := f.decode a
  let y := f.decode b
  if x = .nan ∨ y = .nan then f.par.nan.getD 0
  else if x.lt y then (if wantMax then b else a) else (if wantMax then a else b)

/-- The comparison conditions of V.CMP by their code: EQ, NE, LT, LE, GT, GE, UN (R151). -/
def Fmt.cmp (f : Fmt) (cond : Nat) (a b : Nat) : Bool :=
  let x := f.decode a
  let y := f.decode b
  if x = .nan ∨ y = .nan then cond = 1 || cond = 6
  else
    match cond, Num.cmp x y with
    | 0, .eq => true | 1, .lt => true | 1, .gt => true
    | 2, .lt => true | 3, .lt => true | 3, .eq => true
    | 4, .gt => true | 5, .gt => true | 5, .eq => true
    | _, _ => false

end Sys2Proof.Machine
end

