-- ==== Sys2Proof/Machine/Arrays.lean ====
section
/-!
DEFINITION. The arithmetic of the matrix arrays (chapter 04): the loaded weight block and its check values and
exponent records (R111), the corner comparison (R112), a row's pass in the exact and the windowed forms (R123 to
R128), its check (R135, R136) with an injected bit (R141), and the final conversion (R133).
-/

namespace Sys2Proof.Machine

/-- A weight block as loaded: the element codes of its KROWS rows of NCOLS columns and, for MX, the E8M0 codes of each
row's 32-element blocks (R110, R600). -/
structure WBlock where
  fmtW : Fmt
  fmtA : Fmt
  krows : Nat
  ncols : Nat
  elems : List (List Nat)
  scales : List (List Nat)
  deriving DecidableEq, Repr

/-- An exact number m × 2^e. -/
structure Exact where
  m : Int
  e : Int
  deriving DecidableEq, Repr

/-- 0. -/
def Exact.zero : Exact := ⟨0, 0⟩

/-- The finite value of a number, 0 for a number that is not finite (R128: the feeder and the loader screen). -/
def Num.screen : Num → Exact
  | .fin neg m e => ⟨sgn neg m, e⟩
  | _ => Exact.zero

/-- Product. -/
def Exact.mul (a b : Exact) : Exact := ⟨a.m * b.m, a.e + b.e⟩

/-- floor(x / 2^l), exact when x is a multiple of 2^l. -/
def Exact.floorAt (x : Exact) (l : Int) : Int :=
  if l ≤ x.e then x.m * 2 ^ (x.e - l).toNat else x.m / 2 ^ (l - x.e).toNat

/-- Sum. -/
def Exact.add (a b : Exact) : Exact :=
  let g := if a.e ≤ b.e then a.e else b.e
  ⟨a.floorAt g + b.floorAt g, g⟩

/-- floor(log2 |x|) of a nonzero x. -/
def Exact.log? (x : Exact) : Option Int :=
  if x.m = 0 then none else some ((log2 x.m.natAbs : Int) + x.e)

/-- The greatest of a list of exponents, when there is one. -/
def maxExp (xs : List (Option Int)) : Option Int :=
  xs.foldl (fun a x => match a, x with
    | none, x => x
    | a, none => a
    | some u, some v => some (if u < v then v else u)) none

/-- One element as a number: its code in its element format times its block's scale (R78). -/
def elemNum (f : Fmt) (code : Nat) (scale : Option Nat) : Num :=
  match scale with
  | none => f.elem.decode code
  | some c => (Fmt.e8m0.decode c).mul (f.elem.decode code)

/-- A row of elements as numbers; `scales` holds one code for each 32 elements of an MX format. -/
def rowNums (f : Fmt) (codes scales : List Nat) : List Num :=
  codes.zipIdx.map (fun (c, i) => elemNum f c (if f.isMx then some (scales.getD (i / 32) 127) else none))

/-- The operand pairs the arrays accept (R109). -/
def pairOk (a b : Fmt) : Bool :=
  (a.isNarrow && b.isNarrow) || (a.isMx && b.isMx) || (a == .bf16 && b == .bf16)

/-- The step exponent q and top exponent t of a narrow format (chapter 04's table before R123). -/
def stepTop (f : Fmt) : Int × Int :=
  match f.elem with
  | .e4m3 => (-9, 9) | .e5m2 => (-16, 16) | .e3m2 => (-4, 5) | .e2m3 => (-3, 3) | _ => (-1, 3)

/-- w = b_a + b_b + 9: the width an exact pair needs (R123). -/
def pairWidth (a b : Fmt) : Int :=
  (stepTop a).2 - (stepTop a).1 + ((stepTop b).2 - (stepTop b).1) + 9

/-- The pairs that are windowed whatever the operands: E5M2 × E5M2, BF16 × BF16 and MXFP8 (E5M2) squared (R109). -/
def alwaysWindowed (a b : Fmt) : Bool :=
  (a.elem == .e5m2 && b.elem == .e5m2) || a == .bf16 || b == .bf16

/-- Largest less smallest of the counted E8M0 codes, 0 for none. -/
def spread (codes : List Nat) : Nat :=
  match codes with
  | [] => 0
  | c :: cs => cs.foldl max c - cs.foldl min c

/-- The smallest of the counted codes. -/
def minCode (codes : List Nat) : Nat :=
  match codes with
  | [] => 127
  | c :: cs => cs.foldl min c

/-- The codes a weight block counts (R111). -/
def WBlock.codes (b : WBlock) : List Nat := b.scales.flatten

/-- The block's weights as numbers, by row. -/
def WBlock.nums (b : WBlock) : List (List Num) :=
  b.elems.zipIdx.map (fun (r, k) => rowNums b.fmtW r (b.scales.getD k []))

/-- The block's weights as screened values, by row. -/
def WBlock.vals (b : WBlock) : List (List Exact) := b.nums.map (·.map Num.screen)

/-- Column n of a list of rows. -/
def colOf (rows : List (List Exact)) (n : Nat) : List Exact := rows.map (fun r => r.getD n Exact.zero)

/-- The exponent record of each column (R111); none when the column has no nonzero finite weight. -/
def WBlock.ecol (b : WBlock) (n : Nat) : Option Int := maxExp ((colOf b.vals n).map Exact.log?)

/-- The exponent record of each row. -/
def WBlock.erow (b : WBlock) (k : Nat) : Option Int := maxExp ((b.vals.getD k []).map Exact.log?)

/-- E_max, the largest exponent record over both axes. -/
def WBlock.emax (b : WBlock) : Option Int := maxExp (b.vals.map (fun r => maxExp (r.map Exact.log?)))

/-- Whether the check values are exact: an exact per-tensor pair, or an MX pair with w + σ_w ≤ 64 (R111). -/
def WBlock.checkExact (b : WBlock) : Bool :=
  !alwaysWindowed b.fmtW b.fmtA &&
    (!b.fmtW.isMx || decide (pairWidth b.fmtW b.fmtA + spread b.codes ≤ 64))

/-- The exact value of a finite P96 encoding. -/
def p96Exact (w : Nat) : Exact := (p96Decode w).screen

/-- A check value floored to the grid 2^(E_max − 55) where flooring applies (R111). -/
def WBlock.grid (b : WBlock) (x : Exact) : Exact :=
  if b.checkExact then x
  else match b.emax with
    | none => x
    | some m => ⟨x.floorAt (m - 55), m - 55⟩

/-- The sum of exact numbers. -/
def sumExact (xs : List Exact) : Exact := xs.foldl Exact.add Exact.zero

/-- A number from an exact value. -/
def Exact.num (x : Exact) : Num := Num.ofInt x.m x.e

/-- C[k]: the exact sum of row k rounded once to P96, then floored (R111). -/
def WBlock.checkC (b : WBlock) (k : Nat) : Exact :=
  b.grid (p96Exact (p96Encode (sumExact (b.vals.getD k [])).num))

/-- R[n]: the P96 fold of column n in ascending k, then floored (R111). -/
def WBlock.checkR (b : WBlock) (n : Nat) : Exact :=
  b.grid (p96Exact ((colOf b.vals n).foldl (fun a x => p96Add a (p96Encode x.num)) p96Zero))

/-- The corner comparison Z_C against Z_R (R112). -/
def WBlock.cornerOk (b : WBlock) : Bool :=
  let zc := sumExact ((List.range 256).map b.checkC)
  let zr := sumExact ((List.range 256).map b.checkR)
  let d := zc.add ⟨-zr.m, zr.e⟩
  if b.checkExact then d.m == 0
  else match b.emax with
    | none => d.m == 0
    | some m => decide ((d.floorAt (m - 55)).natAbs ≤ 2 ^ 10)

/-- An injected bit as it meets one row: the output whose partial it inverts (256 for the check partial), how many
elements have been added when it does, and the bit of that row's own partial (R141). -/
structure Inject where
  out : Nat
  after : Nat
  bit : Nat
  deriving DecidableEq, Repr

/-- Two's complement wrap to n bits. -/
def wrapTo (n : Nat) (x : Int) : Int :=
  let y := x % 2 ^ n
  if y < 2 ^ (n - 1) then y else y - 2 ^ n

/-- The partial sum of one output from its placed products, with the injected bit if it falls on it. -/
def partialSum (width : Nat) (out : Nat) (inj : Option Inject) (ps : List Int) : Int :=
  let total := ps.foldl (· + ·) 0
  match inj with
  | some j =>
    if j.out = out then
      let here := (ps.take j.after).foldl (· + ·) 0
      let set := here / 2 ^ j.bit % 2 == 1
      wrapTo width (total + if set then -(2 ^ j.bit : Int) else 2 ^ j.bit)
    else total
  | none => total

/-- What one row's pass gives: the 256 P96 results, whether its check passes, and the status bits it sets. -/
structure RowResult where
  outs : List Nat
  ok : Bool
  nonfin : Bool
  mxwin : Bool
  deriving DecidableEq, Repr

/-- The spread of a row against a block: σ = σ_a + σ_w (R124). -/
def rowSpread (b : WBlock) (scales : List Nat) : Nat := spread scales + spread b.codes

/-- Whether a row runs in the exact form (R109, R123, R124). -/
def rowExact (b : WBlock) (scales : List Nat) : Bool :=
  !alwaysWindowed b.fmtW b.fmtA &&
    (!b.fmtW.isMx || decide (pairWidth b.fmtW b.fmtA + rowSpread b scales ≤ 64))

/-- Whether a row qualifies for a lane of a two-lane slot (R109, R125). -/
def rowLane (b : WBlock) (scales : List Nat) : Bool :=
  b.fmtW.elem == .e2m1 && b.fmtA.elem == .e2m1 && (!b.fmtW.isMx || decide (rowSpread b scales ≤ 11))

/-- One row's pass through the block (R123 to R128) and its check (R135, R136). `two` says the row shares a two-lane
slot, which narrows the partials to 32 and 36 bits. -/
def passRow (b : WBlock) (trans two : Bool) (codes scales : List Nat) (inj : Option Inject) : RowResult :=
  let xn := rowNums b.fmtA codes scales
  let rowBad := xn.any Num.nonFinite
  let xs := xn.map Num.screen
  let vals := b.vals
  let nums := b.nums
  let weights := fun (j : Nat) => if trans then vals.getD j [] else colOf vals j
  let bad := fun (j : Nat) =>
    if trans then (nums.getD j []).any Num.nonFinite
    else nums.any (fun r => match r[j]? with | some v => v.nonFinite | none => false)
  let checkW := (List.range 256).map (fun k => if trans then b.checkR k else b.checkC k)
  let pw := if two then 32 else 64
  let cw := if two then 36 else 72
  let exact := rowExact b scales
  let ea := maxExp (xs.map Exact.log?)
  let eb := fun (j : Nat) => if trans then b.erow j else b.ecol j
  -- the weight exponent of output j's partial, none when every partial is an integer (R126)
  let l : Nat → Option Int := fun j =>
    if exact then
      some ((stepTop b.fmtA).1 + (stepTop b.fmtW).1 +
        (if b.fmtW.isMx then (minCode scales : Int) - 127 + ((minCode b.codes : Int) - 127) else 0))
    else match ea, b.emax with
      | some a, some m => some (a + (match eb j with | some e => e | none => m) - 53)
      | _, _ => none
  let ps := (List.range 256).map (fun j =>
    match l j with
    | some e => partialSum pw j inj ((xs.zip (weights j)).map (fun (x, w) => (x.mul w).floorAt e))
    | none => partialSum pw j inj [])
  let lc : Option Int :=
    if exact then l 0
    else match ea, b.emax with
      | some a, some m => some (a + m - 46)
      | _, _ => none
  let check := match lc with
    | some e => partialSum cw 256 inj ((xs.zip checkW).map (fun (x, w) => (x.mul w).floorAt e))
    | none => partialSum cw 256 inj []
  let ok := match lc with
    | none => decide (ps.foldl (· + ·) 0 = check)
    | some e =>
      if exact then decide (ps.foldl (· + ·) 0 = check)
      else
        let a := (sumExact (ps.zipIdx.map (fun (p, j) => ⟨p, (l j).getD 0⟩))).floorAt e
        decide ((a - check).natAbs ≤ 2 ^ 10)
  let outs := ps.zipIdx.map (fun (p, j) =>
    if rowBad || bad j then p96Nan else p96Encode (Num.ofInt p ((l j).getD 0)))
  { outs := outs, ok := ok, nonfin := rowBad || (List.range 256).any bad, mxwin := b.fmtW.isMx && !exact }

/-- Bytes of n packed elements of a format (R74). -/
def packedBytes (f : Fmt) (n : Nat) : Nat := ceilDiv (n * f.elem.width) 8

/-- n packed elements from the low bits of a number (R74). -/
def unpack (f : Fmt) (n x : Nat) : List Nat :=
  (List.range n).map (fun i => x / 2 ^ (i * f.elem.width) % 2 ^ f.elem.width)

/-- Elements packed into a number, element 0 lowest (R74). -/
def packElems (w : Nat) (xs : List Nat) : Nat := xs.foldr (fun x a => x % 2 ^ w + 2 ^ w * a) 0

/-- The bytes a converted row takes: its packed elements and, for MX, one code for each 32 of them (R205). -/
def outRowBytes (f : Fmt) : Nat := packedBytes f 256 + if f.isMx then 8 else 0

/-- The final conversion of a row of 256 P96 values (R133): its bytes as a number and the flags. `scales` are s_a, s_b
and s_o, `rs` the random words of its elements under SR. -/
def convertRow (f : Fmt) (rm : Rm) (sat : Bool) (scales : List Num) (rs : List Nat) (ps : List Nat) : Nat × Flags :=
  let vs := ps.map (fun p => scales.foldl Num.mul (p96Decode p))
  if f.isMx then
    let blocks := (List.range 8).map (fun k =>
      mxEncode f rm sat ((rs.drop (32 * k)).take 32) ((vs.drop (32 * k)).take 32))
    let elems := packElems f.elem.width (blocks.map (fun b => b.2.1)).flatten
    let codes := packElems 8 (blocks.map (·.1))
    (elems + codes * 2 ^ (8 * packedBytes f 256), blocks.foldl (fun a b => a.or b.2.2) {})
  else
    let rs := rs ++ ps.map (fun _ => 0)
    let enc := (vs.zip rs).map (fun (v, r) => f.encode rm sat r v)
    (packElems f.width (enc.map (·.1)), enc.foldl (fun a e => a.or e.2) {})

end Sys2Proof.Machine
end

