-- ==== Sys2Proof/Machine/Units.lean ====
section
/-!
DEFINITION. The small published functions the module computes: the Philox generator and its rounding words (R87,
R244), the Cuff check values (R251), the digest contribution (chapter 02), and the Loam and Clay maps (R286, R303).
-/

namespace Sys2Proof.Machine

/-- One Philox round on counter (c0, c1, c2, c3) with key (k0, k1) (R244). -/
def philoxRound (c : W32 × W32 × W32 × W32) (k0 k1 : W32) : W32 × W32 × W32 × W32 :=
  let (c0, c1, c2, c3) := c
  let p0 := 0xD2511F53 * c0.toNat
  let p1 := 0xCD9E8D57 * c2.toNat
  (BitVec.ofNat 32 (p1 / 2 ^ 32) ^^^ c1 ^^^ k0, BitVec.ofNat 32 p1,
   BitVec.ofNat 32 (p0 / 2 ^ 32) ^^^ c3 ^^^ k1, BitVec.ofNat 32 p0)

/-- n Philox rounds, the key stepping after each. -/
def philoxRounds : Nat → W32 × W32 × W32 × W32 → W32 → W32 → W32 × W32 × W32 × W32
  | 0, c, _, _ => c
  | n + 1, c, k0, k1 => philoxRounds n (philoxRound c k0 k1) (k0 + 0x9E3779B9) (k1 + 0xBB67AE85)

/-- Philox4x32-10 with key K and counter words W0 to W3: the words x0 to x3 (R244). -/
def philox (key : W64) (w0 w1 w2 w3 : W32) : List W32 :=
  let (a, b, c, d) := philoxRounds 10 (w0, w1, w2, w3) (key.setWidth 32) ((key >>> 32).setWidth 32)
  [a, b, c, d]

/-- The word of logical index i in the layout of R87 and R246: word i mod 4 of block floor(i / 4). -/
def philoxAt (key i : W64) (id w3 : W32) : W32 :=
  let blk := i >>> 2
  (philox key (blk.setWidth 32) ((blk >>> 32).setWidth 32) id w3).getD (i.toNat % 4) 0

/-- Eight steps of the reflected CRC (R251). -/
def crcSteps (poly : W64) : Nat → W64 → W64
  | 0, r => r
  | n + 1, r => crcSteps poly n (if r.getLsbD 0 then (r >>> 1) ^^^ poly else r >>> 1)

/-- One byte fed to a running value (R251). -/
def crcByte (poly : W64) (r : W64) (b : Byte) : W64 := crcSteps poly 8 (r ^^^ b.setWidth 64)

/-- The reflected polynomials (R251). -/
def polyCrc32c : W64 := 0x82F63B78
def polyCrc64 : W64 := 0xC96C5795D7870F42

/-- The finished CRC-32C of a byte string. -/
def crc32c (bs : Bytes) : W32 :=
  ~~~ ((bs.foldl (crcByte polyCrc32c) 0xFFFFFFFF).setWidth 32)

/-- fmix (chapter 02, the contribution of one element). -/
def fmix (x : W64) : W64 :=
  let x := x ^^^ (x >>> 33)
  let x := x * 0xFF51AFD7ED558CCD
  let x := x ^^^ (x >>> 33)
  let x := x * 0xC4CEB9FE1A85EC53
  x ^^^ (x >>> 33)

/-- The contribution of an element with the given stored bits and width (R57, R58). -/
def contribution (index : W64) (bits width : Nat) (ident : W32) : W64 :=
  let h := fmix (index + ident.setWidth 64 * 0x9E3779B97F4A7C15)
  if width ≤ 64 then fmix (h ^^^ BitVec.ofNat 64 bits)
  else fmix (fmix (h ^^^ BitVec.ofNat 64 bits) ^^^ BitVec.ofNat 64 (bits / 2 ^ 64))

/-- Where a Loam byte lies: stack, pseudo-channel, bank group, bank, row, byte (R286). -/
structure LoamPlace where
  stack : Nat
  pc : Nat
  bg : Nat
  bank : Nat
  row : Nat
  byte : Nat
  deriving DecidableEq, Repr

/-- R286. `rowmode` is LOAM_ROWMODE.LOCAL. -/
def loamMap (rowmode x : Nat) : LoamPlace :=
  let r := x / (12 * 2 ^ 30)
  let o := x - r * 12 * 2 ^ 30
  let (stack, k) :=
    if bit rowmode r then
      let d := o / (6 * 2 ^ 30)
      let c := (o - d * 6 * 2 ^ 30) / 2 ^ 11
      (6 * d + c % 6, c / 6)
    else
      let c := o / 2 ^ 11
      (c % 12, c / 12)
  { stack := stack, pc := k % 64, bg := k / 64 % 16, bank := k / 1024 % 2, row := 256 * r + k / 2048, byte := o % 2048 }

/-- Where a Clay byte lies: channel, bank, row, byte (R303). -/
structure ClayPlace where
  chan : Nat
  bank : Nat
  row : Nat
  byte : Nat
  deriving DecidableEq, Repr

/-- R303. -/
def clayMap (x : Nat) : ClayPlace :=
  { chan := x / 2 ^ 11 % 64, bank := x / 2 ^ 11 / 64 % 16, row := x / 2 ^ 11 / 1024, byte := x % 2048 }

end Sys2Proof.Machine
end

