-- ==== Sys2Proof/Machine/Lanes.lean ====
section
/-!
DEFINITION. Vector registers as lanes and elements (R142, R145, R147) and what the lane operations of chapter 05
compute from them: arithmetic, comparison, permutation, compression, conversion (R153, R154), and the long
accumulators of the reduction unit (R163 to R169).
-/

namespace Sys2Proof.Machine

/-- The n elements of w bits from the low end of a register. -/
def elemsOf (w n : Nat) (r : VReg) : List Nat := (List.range n).map (fun i => r.toNat / 2 ^ (w * i) % 2 ^ w)

/-- A register from its elements of w bits, element 0 lowest. -/
def ofElems (w : Nat) (xs : List Nat) : VReg := BitVec.ofNat 16384 (packElems w xs)

/-- Lane i. -/
def lane (r : VReg) (i : Nat) : W32 := BitVec.ofNat 32 (r.toNat / 2 ^ (32 * i))

/-- The register with lane i set to x. -/
def setLane (r : VReg) (i : Nat) (x : W32) : VReg :=
  let m : VReg := (0xFFFFFFFF : VReg) <<< (32 * i)
  (r &&& ~~~ m) ||| ((x.setWidth 16384) <<< (32 * i))

/-- Lanes l, l + 1, … set to the words of a list. -/
def setLanes (r : VReg) (l : Nat) : List W32 → VReg
  | [] => r
  | x :: xs => setLanes (setLane r l x) (l + 1) xs

/-- The 64-bit value of lanes 0 and 1. -/
def lanePair (r : VReg) : W64 := r.setWidth 64

/-- Elements per register of a layout (R154). -/
def Fmt.count : Fmt → Nat
  | .bf16 => 1024
  | .p96 => 170
  | _ => 512

/-- The arithmetic type of a T field: 0 FP32, 1 BF16, 2 INT32; 3 is reserved (R207). -/
def typeOf : Nat → Option Fmt
  | 0 => some .fp32 | 1 => some .bf16 | 2 => some .int32 | _ => none

/-- The lane that holds element j of a layout: the first of a P96 value's three, and the one that holds the lowest bit
of an element that spans two (R154). -/
def laneOf (f : Fmt) (j : Nat) : Nat := f.width * j / 32

/-- The predicate bit that governs element j of a layout (R147, R154). -/
def active (f : Fmt) (vp : Pred) (j : Nat) : Bool := vp.getLsbD (laneOf f j)

/-- An operation on each active element of a layout; an inactive one keeps its destination value (R147). -/
def mapElems (f : Fmt) (vp : Pred) (dst : VReg) (op : Nat → Nat) : VReg :=
  ofElems f.width ((elemsOf f.width f.count dst).zipIdx.map (fun (d, i) => if active f vp i then op i else d))

/-- Element i of a register under a layout. -/
def elem (f : Fmt) (r : VReg) (i : Nat) : Nat := r.toNat / 2 ^ (f.width * i) % 2 ^ f.width

/-- A two-source operation. -/
def map2 (f : Fmt) (vp : Pred) (dst a b : VReg) (op : Nat → Nat → Nat) : VReg :=
  mapElems f vp dst (fun i => op (elem f a i) (elem f b i))

/-- A three-source operation. -/
def map3 (f : Fmt) (vp : Pred) (dst a b c : VReg) (op : Nat → Nat → Nat → Nat) : VReg :=
  mapElems f vp dst (fun i => op (elem f a i) (elem f b i) (elem f c i))

/-- The comparison predicate: bit i of an active lane is the condition, for BF16 of both its elements (R151); an
inactive lane keeps the old predicate's bit (R147). -/
def cmpPred (f : Fmt) (cond : Nat) (vp old : Pred) (a b : VReg) : Pred :=
  BitVec.ofNat 512 (packElems 1 ((List.range 512).map (fun i =>
    if vp.getLsbD i then
      (if f = .bf16 then
        (f.cmp cond (elem f a (2 * i)) (elem f b (2 * i)) && f.cmp cond (elem f a (2 * i + 1)) (elem f b (2 * i + 1))).toNat
      else (f.cmp cond (elem f a i) (elem f b i)).toNat)
    else (old.getLsbD i).toNat)))

/-- The permutation of R152: active lane i takes lane (idx_i mod 512) of the source. -/
def permute (vp : Pred) (dst src idx : VReg) : VReg :=
  mapElems .int32 vp dst (fun i => elem .int32 src (elem .int32 idx i % 512))

/-- A shift of each active lane by the count's bits [4:0]. -/
def shiftLane (kind : Nat) (x n : Nat) : Nat :=
  let v := BitVec.ofNat 32 x
  let k := n % 32
  (match kind with | 0 => v <<< k | 1 => v >>> k | _ => v.sshiftRight k).toNat

/-- The active lanes' numbers in ascending order. -/
def activeLanes (vp : Pred) : List Nat := (List.range 512).filter (fun i => vp.getLsbD i)

/-- The number of 1 bits of a predicate. -/
def countBits (vp : Pred) : Nat := (activeLanes vp).length

/-- Whether V.CVT accepts a source and a destination (R153). -/
def cvtPair (s d : Fmt) : Bool :=
  match s with
  | .fp32 => d == .bf16 || d == .int32 || d == .p96 || d.isNarrow || d.isMx
  | .bf16 => d == .fp32 || d == .int32 || d == .p96 || d.isNarrow || d.isMx
  | .int32 => d == .fp32 || d == .bf16
  | .p96 => d == Fmt.fp32 || d == .bf16 || d.isNarrow
  | s => (s.isNarrow || s.isMx) && (d == .fp32 || d == .bf16 || d == .p96)

/-- The number of PART values of a pair (R154). -/
def cvtParts (s d : Fmt) : Nat := if d.count ≤ s.count then ceilDiv s.count d.count else d.count / s.count

/-- The source element that PART maps to destination element j, when it maps one (R154). -/
def cvtSource (s d : Fmt) (part j : Nat) : Option Nat :=
  if d.count ≤ s.count then
    (if part * d.count + j < s.count then some (part * d.count + j) else none)
  else if part * s.count ≤ j ∧ j < part * s.count + s.count then some (j - part * s.count) else none

/-- The value of source element i: MX elements take the code of their block, which follows the elements (R145, R94). -/
def cvtValue (s : Fmt) (src : VReg) (i : Nat) : Num :=
  match s with
  | .p96 => p96Decode (elem Fmt.p96 src i)
  | s => elemNum s (elem s src i) (if s.isMx then some (src.toNat / 2 ^ (512 * s.width + 8 * (i / 32)) % 256) else none)

/-- The conversion of R153 and R154: the register and the flags. `scale` is the per-tensor scale when the pair reads
one; `rw i` is the random word of source element i. (DEDUCED, log entry 16.) -/
def convert (s d : Fmt) (rm : Rm) (sat : Bool) (part : Nat) (vp : Pred) (scale : Option Num) (rw : Nat → Nat)
    (src dst : VReg) : VReg × Flags :=
  if d.isMx then
    let blocks := (List.range 16).map (fun b =>
      let js := (List.range 32).filterMap (fun k => cvtSource s d part (32 * b + k))
      mxEncode d rm sat (js.map rw) (js.map (fun i => (cvtValue s src i).scale scale)))
    let elems := packElems d.width (blocks.map (fun b => b.2.1)).flatten
    let codes := packElems 8 (blocks.map (·.1))
    (BitVec.ofNat 16384 (elems + codes * 2 ^ (512 * d.width)), blocks.foldl (fun a b => a.or b.2.2) {})
  else
    let same := s.width == 32 && d.width == 32
    let outs := (List.range d.count).map (fun j =>
      match cvtSource s d part j with
      | none => (if d.isNarrow then 0 else elem d dst j, ({} : Flags))
      | some i =>
        if active d vp j then d.encode rm sat (rw i) ((cvtValue s src i).scale scale)
        else if same then (elem d dst j, {})
        else (if d = Fmt.p96 then p96Zero else 0, {}))
    let body := packElems d.width (outs.map (·.1))
    let top := if d.isNarrow then 0 else dst.toNat / 2 ^ (d.width * d.count) * 2 ^ (d.width * d.count)
    (BitVec.ofNat 16384 (body + top), outs.foldl (fun a o => a.or o.2) {})

/-! ## The reduction unit -/

/-- A long accumulator (R163). `used` says that a START has opened it since the last commit (R169). -/
structure Accum where
  a : BitVec 640 := 0
  pinf : Bool := false
  ninf : Bool := false
  nan : Bool := false
  count : W64 := 0
  best : Option W32 := none
  bestIdx : W64 := 0
  open_ : Bool := false
  used : Bool := false
  deriving DecidableEq, Repr

/-- The reduction operations with lane inputs, and the count (R210). -/
inductive QOp | sum | sumsq | max | min | argmax | argmin | nfc
  deriving DecidableEq, Repr

/-- An arg operation. -/
def QOp.isArg : QOp → Bool
  | .argmax | .argmin => true
  | _ => false

/-- A maximum or minimum, with or without its index. -/
def QOp.isBest : QOp → Bool
  | .max | .min | .argmax | .argmin => true
  | _ => false

/-- START: the accumulator cleared and opened (R169). -/
def Accum.start : Accum := { open_ := true, used := true }

/-- One active input with its logical index (R164, R166, R167). -/
def Accum.input (op : QOp) (f : Fmt) (q : Accum) (code : Nat) (idx : W64) : Accum :=
  let v := f.decode code
  let w : W32 := BitVec.ofNat 32 (if f = .bf16 then code * 2 ^ 16 else code)
  let q := if v.nonFinite then { q with count := q.count + 1 } else q
  match op with
  | .sum | .sumsq =>
    match v with
    | .nan => { q with nan := true }
    | .inf neg =>
      if op = .sumsq || !neg then { q with pinf := true } else { q with ninf := true }
    | .fin neg m e =>
      let x := if op = .sumsq then (m * m : Nat) * 2 ^ (2 * e + 298).toNat else m * 2 ^ (e + 298).toNat
      { q with a := if op = .sum && neg then q.a - BitVec.ofNat 640 x else q.a + BitVec.ofNat 640 x }
  | .nfc => q
  | _ =>
    if v = .nan then q
    else
      let better : Bool := match q.best with
        | none => true
        | some b =>
          let u := Fmt.fp32.decode b.toNat
          let strict := if op = .max || op = .argmax then u.lt v else v.lt u
          strict || (b == w && decide (idx.toNat < q.bestIdx.toNat))
      if better then { q with best := some w, bestIdx := idx } else q

/-- The exact value of the accumulator as a number (R163, R165). -/
def Accum.value (q : Accum) : Num :=
  if q.nan || (q.pinf && q.ninf) then .nan
  else if q.pinf then .inf false
  else if q.ninf then .inf true
  else Num.ofInt q.a.toInt (-298)

/-- A finish's value as FP32 (R165, R166) and its flags. -/
def Accum.fp32 (op : QOp) (q : Accum) : Nat × Flags :=
  if op.isBest then ((match q.best with | some b => b.toNat | none => 0x7FC00000), {})
  else Fmt.fp32.par.encode .rne false 0 q.value

/-- The index an arg finish gives (R166). -/
def Accum.index (q : Accum) : W64 := match q.best with | some _ => q.bestIdx | none => 0xFFFFFFFFFFFFFFFF

/-- A finish's value as P96 (R165) and its flags: INX when the rounded value differs from the sum. -/
def Accum.p96 (q : Accum) : Nat × Flags :=
  let w := p96Encode q.value
  match q.value with
  | .fin .. => (w, { inx := (p96Decode w).cmp q.value != .eq })
  | _ => (w, {})

/-- After a finish other than Q.NFC the accumulator is idle and keeps its non-finite count (R169). -/
def Accum.finish (q : Accum) : Accum := { count := q.count, open_ := false, used := true }

/-- The active inputs of one half of a register under T: lanes lo to hi − 1, with QIB-based indices (R166, R168). -/
def Accum.lanes (op : QOp) (f : Fmt) (vp : Pred) (r : VReg) (qib : W64) (lo hi : Nat) (q : Accum) : Accum :=
  ((List.range (hi - lo)).map (· + lo)).foldl (fun q i =>
    if vp.getLsbD i then
      (if f = .bf16 then
        let q := q.input op f (elem f r (2 * i)) (qib + BitVec.ofNat 64 (2 * i))
        q.input op f (elem f r (2 * i + 1)) (qib + BitVec.ofNat 64 (2 * i + 1))
      else q.input op f (elem f r i) (qib + BitVec.ofNat 64 i))
    else q) q

end Sys2Proof.Machine
end

