-- ==== Sys2Proof/Machine/State.lean ====
section
/-!
DEFINITION. The state of the module: everything the spec gives it, as plain data. Registers of BAR0 are held in one
table by their offset (`State.regs`; an offset that is not listed holds its reset value, Machine/Registers.lean). Each
engine holds its memories, its units and its four context places; the module-wide parts follow by chapter.
-/

namespace Sys2Proof.Machine

/-- Why the machine stops with a fault. No command of this block does: the spec gives each of them an effect on
State. (DEDUCED, log entry 101.) -/
inductive Fault
  deriving DecidableEq, Repr

/-- Why a command is refused. (DEDUCED, log entry 101.) -/
inductive Refusal
  /-- Raised by `exec` for a row that has no meaning yet; the mnemonic is the row's. Safe: nothing is claimed. -/
  | notModelled (mnemonic : String)
  deriving DecidableEq, Repr

/-! ## Contexts of an engine -/

/-- The state of a copy of an instruction region (R192). -/
inductive CopySt | empty | loading | ready | active
  deriving DecidableEq, Repr

/-- An entry of the summary queue (R159). -/
structure SumEntry where
  value : W64 := 0
  tag : BitVec 16 := 0
  kind : BitVec 4 := 0
  fromRed : Bool := false
  deriving DecidableEq, Repr

/-- An open loop: its first body group, its END group and the iterations left, the running one included (R197). -/
structure Loop where
  body : Nat
  stop : Nat
  left : Nat
  deriving DecidableEq, Repr

/-- A stochastic-rounding key RKk (R209). -/
structure RKey where
  seed : W64 := 0
  rid : W32 := 0
  deriving DecidableEq, Repr

/-- A running Sand feed of the Cuff program lane (R253). -/
structure CuffFeed where
  src : Nat
  len : Nat
  tok : Tok
  deriving DecidableEq, Repr

/-- A running random-number fill: the configuration it latched, and the address of its xrn.go (R236, R249). -/
structure RnFill where
  seed : W64
  id : W32
  w3 : W32
  ib : W64
  dst : Nat
  cnt : Nat
  seq : Bool
  src : Nat
  tok : Tok
  pc : Nat
  deriving DecidableEq, Repr

/-- The extension CSRs that hold state of their own (R243). -/
structure Csrs where
  lclost : Bool := false
  poly : Bool := false
  run : W64 := 0xFFFFFFFF
  cuffSrc : W32 := 0
  cuffLen : W32 := 0
  rnSeed : W64 := 0
  rnId : W32 := 0
  rnW3 : W32 := 0
  rnIb : W64 := 0
  rnDst : W32 := 0
  rnCnt : W32 := 0
  rnMode : Bool := false
  rnStep : Bool := false
  rnSrc : W32 := 0
  latch : SumEntry := {}
  deriving DecidableEq, Repr

/-- A recorded block: the Sand offset of the load descriptor and the serial number of the load (R416). -/
structure BlockRef where
  ld : Nat
  serial : Nat
  deriving DecidableEq, Repr

/-- What a commit records of a context and a replay restores (R223, R237, R505); `arrfl` and `vecfl` are XARRFL and XVECFL
as the commit found them. (DESIGN CHOICE, log entry 5.) -/
structure Rec where
  pc : Nat := 0
  bankB : Bool := false
  loops : List Loop := []
  lc : Tab W32 := []
  ws : Tab Tok := []
  cptr : Nat := 0
  eptr : Nat := 0
  lp : Tab Nat := []
  vib : W64 := 0
  qib : W64 := 0
  mib : W64 := 0
  rk : Tab RKey := []
  vp : Tab Pred := []
  stepNo : W64 := 0
  sumq : List SumEntry := []
  x : Tab W32 := []
  ccpc : Nat := 0
  csr : Csrs := {}
  arrfl : W64 := 0
  vecfl : W64 := 0
  cycle : W64 := 0
  instret : W64 := 0
  feed : Option CuffFeed := none
  fill : Option RnFill := none
  block : Option BlockRef := none
  deriving DecidableEq, Repr

/-- CTX_STAT_c.STATE (R408). -/
inductive CtxSt | free | ready | running | waiting | halted | ended
  deriving DecidableEq, Repr

/-- A compress count on its way to a loop-count register, with the group and the copy of its V.COMPRESS (R157). -/
structure CmpPend where
  n : Nat
  count : Nat
  acc : Bool
  pc : Nat
  bankB : Bool
  deriving DecidableEq, Repr

/-- A digest accumulator (R57, R60). -/
structure DigAcc where
  ident : W32
  bucket : Nat
  sum : W64
  count : W64
  nonfinite : Bool
  deriving DecidableEq, Repr

/-- A held range: a tier code, a first byte and a length (R271). -/
structure HRange where
  tier : Nat
  base : Nat
  len : Nat
  deriving DecidableEq, Repr

/-- A posted sequence-table operation: entry rs1 and operation rs2 (R242). -/
structure SeqOp where
  entry : W32
  op : W32
  deriving DecidableEq, Repr

/-- The kind of a D transfer (R212). -/
inductive DKind | get | put | send | gather | iload
  deriving DecidableEq, Repr

/-- A D transfer that is outstanding (R215, R216): its descriptor as read, its row count, its group's address and copy, its
ordinal among the segment's outbound transfers and whether a replay suppresses it (R509), and the row, byte and chunk that
come next. For a receive queue `chunk` is the first chunk it takes. `buf` holds the bytes of the present row that have been
read or have landed, `ahead` the pieces of a move inside the engine that are read and have
not landed (R601), and `dead` marks a transfer that outlives its discarded segment (R509). -/
structure Xfer where
  id : Nat
  kind : DKind
  desc : Bytes
  tok : Tok
  prov : Bool := false
  lcmp : Bool := false
  rows : Nat
  pc : Nat
  bankB : Bool
  rxq : Bool := false
  shale : Bool := false
  ordinal : Option Nat := none
  suppressed : Bool := false
  row : Nat := 0
  off : Nat := 0
  chunk : Nat := 0
  buf : Bytes := []
  ahead : List (Nat × Nat × Bytes) := []
  dead : Bool := false
  deriving DecidableEq, Repr

/-- A commit that waits for the instructions before it (R219), with C.END's code when it ends the context. -/
structure CommitReq where
  hdesc : Option Nat
  ends : Option W32
  pc : Nat
  deriving DecidableEq, Repr

/-- An instruction stream whose header has been accepted (R193, R194): the copy it names, its first word, its payload
count, whether it comes by a D.ILOAD, the payload words that have entered the copy, and the running check value. -/
structure StreamIn where
  bankB : Bool
  start : Nat
  count : Nat
  iload : Bool
  got : Nat := 0
  crc : W64 := 0xFFFFFFFF
  deriving DecidableEq, Repr

/-- A stream that a ring's STREAM command brings: the ring, the descriptor's index, its length in bytes, and the bytes that
have not entered the instruction queue. -/
structure RingStream where
  ring : Nat
  idx : Nat
  len : Nat
  data : Bytes
  deriving DecidableEq, Repr

/-- Where a replay stands (R507, R509). -/
inductive RepPhase
  | idle
  | restoring
  | waiting
  | running
  deriving DecidableEq, Repr

/-- The last fault of a replayable class of a context: its class and, for a tier class, the address. -/
structure RepFault where
  cls : Nat
  addr : Option Nat
  deriving DecidableEq, Repr

/-- What a HOST token carries with it: nothing, the descriptor that waits for its segment's commit (ring and ring index,
R447), or the switch of an admission batch (R343). -/
inductive HostTag
  | plain
  | ack (ring idx : Nat)
  | batch (slot : Option Nat)
  deriving DecidableEq, Repr

/-- What a NET token carries with it: the receive context and the transfer on it that brought the token, and whether that
transfer was provisional (R516, R517). (DESIGN CHOICE, log entry 5.) -/
structure NetTag where
  x : Nat := 0
  xfer : Nat := 0
  prov : Bool := false
  deriving DecidableEq, Repr

/-! ## The M unit -/

/-- The M instructions that use the pending slot (R201). -/
inductive MKind | loadw | pass | passt | fold | out
  deriving DecidableEq, Repr

/-- An M instruction in the pending slot or running: its context, its word, its descriptor as read at issue, its row
count, group address, index base and step number at issue (R202, R203, R205). (DEDUCED, log entry 17.) -/
structure MOp where
  kind : MKind
  ctx : Nat
  word : W64
  desc : Bytes
  rows : Nat
  pc : Nat
  bankB : Bool
  mib : W64
  step : W64
  deriving DecidableEq, Repr

/-- Who holds a token that a full queue does not take, and with it the data path behind it (R184): a context's M unit, its D
unit's locked, receive-queue or Shale path, its control core and Cuff units, a submission ring, a Tilth context. (DESIGN CHOICE,
log entry 102.) -/
inductive Producer
  | m (p c : Nat)
  | locked (p c : Nat)
  | rxq (p c : Nat)
  | shale (p c : Nat)
  | core (p c : Nat)
  | ring (r : Nat)
  | tilth (x : Nat)
  deriving DecidableEq, Repr

/-- A context place of an engine (R406). `waited` notes a hold at a declared wait point since the last slice trigger (R419),
`dbgGo` a requested RESUME (0) or STEP (its cc) that waits for its entry, and `dbgPhase` the context time modulo 6,000 at which
a debug halt left it (R496). `iq` is the instruction queue of 64 words (R193); `shadow` marks the shadow of an audit on a spare
(R526); `netTags` go with the tokens of the NET queue and those held before it, `netPopped` with those popped since the commit,
and `provHeld` are the popped ones of provisional transfers (R516). `savedHeld` and `savedX` are the tokens that a full queue
kept at the commit, and the landed transfers whose tokens were to come (R219, R505). (DESIGN CHOICE, log entry 5.) -/
structure Ctx where
  st : CtxSt := .free
  part : Nat := 0
  cur : Rec := {}
  saved : Rec := {}
  copyA : CopySt := .empty
  copyB : CopySt := .empty
  digA : W64 := 0
  digB : W64 := 0
  queue : Tab (List Tok) := []
  popped : Tab (List Tok) := []
  savedQ : Tab (List Tok) := []
  savedHeld : Tab (List (Tok × Producer)) := []
  savedX : List Xfer := []
  heldTok : Tab (List (Tok × Producer)) := []
  netTags : List NetTag := []
  netPopped : List NetTag := []
  provHeld : List (Tok × NetTag) := []
  fault : Nat := 0
  fpc : Nat := 0
  fbankB : Bool := false
  fclass : Nat := 0
  ccFpc : Nat := 0
  held : Bool := false
  waited : Bool := false
  gi : Nat := 0
  oldV : Tab VReg := []
  oldP : Option (Tab Pred) := none
  sumHeld : List SumEntry := []
  cmpPend : List CmpPend := []
  mPend : Option MOp := none
  qa : Tab Accum := []
  qaDup : Tab Accum := []
  nfc : W64 := 0
  xfers : List Xfer := []
  nextXfer : Nat := 0
  shaleOut : List Xfer := []
  outNext : Nat := 0
  outDone : List Nat := []
  suppress : List Nat := []
  digs : List DigAcc := []
  hranges : List HRange := []
  journal : Tab W32 := []
  seqOps : List SeqOp := []
  sel : Option W32 := none
  commit : Option CommitReq := none
  stream : Option StreamIn := none
  ringStream : Option RingStream := none
  iq : Bytes := []
  ccWait : Nat := 0
  ccHalt : Bool := false
  rep : RepPhase := .idle
  run : Nat := 1
  engFails : Nat := 0
  repFault : Option RepFault := none
  sameAddr : Nat := 0
  stalls : Bool := false
  migFrom : Option Nat := none
  savedSel : Option W32 := none
  stalled : Bool := false
  dbgReq : Bool := false
  dbgHalt : Bool := false
  dbgArm : Bool := false
  dbgSteps : Nat := 0
  dbgPhase : Nat := 0
  dbgGo : Option Nat := none
  going : Bool := false
  taken : Tab Nat := []
  hchunk : Tab Nat := []
  vchunk : Tab Nat := []
  audit : W64 := 0
  auditOrd : Nat := 0
  shadow : Bool := false
  segNo : Nat := 0
  hostTags : List HostTag := []
  hostPopped : List HostTag := []
  deriving DecidableEq, Repr

/-- A block with the context that loaded it and its load (R416). -/
structure Loaded where
  blk : WBlock
  ctx : Nat
  ref : BlockRef
  deriving DecidableEq, Repr

/-- A fed row: its index in the tile, its array, its feed slot, its lane in a two-lane slot (true for the second),
its elements and scale codes, and the injection that met it (R141). -/
structure FedRow where
  row : Nat
  array : Nat
  slot : Nat
  lane : Option Bool
  codes : List Nat
  scales : List Nat
  inj : Option Inject
  deriving DecidableEq, Repr

/-- A pass whose rows are in the arrays or the drain: the block they met and the rows still to be checked. -/
structure Flight where
  op : MOp
  blk : WBlock
  rows : List FedRow
  deriving DecidableEq, Repr

/-- A vector check that is still to come: the context, the lane, the bundle address, and whether an injection made the
result wrong (R171, R176). -/
structure VCheck where
  ctx : Nat
  lane : Nat
  pc : Nat
  wrong : Bool
  deriving DecidableEq, Repr

/-- A switch of an engine under way (R414 to R421): the slice switched into with its trigger, the trigger that the switch
began with, the outgoing context's segment number when that was seen, and whether the outgoing context has stopped. -/
structure Switch where
  slice : Nat
  trigger : Nat
  since : Nat
  seg : Nat
  stopped : Bool
  deriving DecidableEq, Repr

/-- A physical engine. `reloading` says that the load in progress is the reload of a recorded block (R415, R507), `retireDue`
that its retirement waits for Gauntlet's firmware (R29), and `kept` holds what its window shows once it is retired: its contexts
and its registers as they stood then (R596).
(DEDUCED, log entry 3, DESIGN CHOICE, log entry 5.) -/
structure Engine where
  sand : Mem := []
  silt : Mem := []
  imemA : Tab W64 := []
  imemB : Tab W64 := []
  ccI : Mem := []
  ccD : Mem := []
  vreg : Tab VReg := []
  ctx : Tab Ctx := []
  active : Option Loaded := none
  shadow : Option Loaded := none
  nextSerial : Nat := 0
  mLoad : Option (MOp × Loaded) := none
  reloading : Bool := false
  flights : List Flight := []
  mDone : List MOp := []
  vchk : List VCheck := []
  holder : Option Nat := none
  slice : Option Nat := none
  last : Option Nat := none
  switch : Option Switch := none
  owners : Tab Nat := []
  migrate : Option Nat := none
  auditCtx : Nat := 0
  probeRung : Nat := 0
  retireDue : Bool := false
  kept : Option (Tab Ctx × Tab W64) := none
  deriving DecidableEq, Repr

/-! ## Records, events and messages -/

/-- An error record before Gauntlet numbers it (R532). `detail` holds bytes 32 to 61, `second` bytes 62 and 63. (DESIGN
CHOICE, log entry 64.) -/
structure ErrRec where
  cls : Nat
  flags : Nat := 0
  part : Option Nat := none
  phys : Option Nat := none
  le : Option Nat := none
  ctx : Option Nat := none
  run : Nat := 0
  step : W64 := 0
  detail : Bytes := []
  second : Nat := 0
  deriving DecidableEq, Repr

/-- Why Gauntlet answers an SPDM request with an error (R461, R467, R468, R481, R488). -/
inductive SpdmErr | busy | unexpected | invalid | sessionLimit | refused | auth | noSpace | decrypt
  deriving DecidableEq, Repr

/-- Gauntlet's answer to an SPDM request: data, measurement blocks with their signature, or an error. -/
inductive SpdmRsp
  | ok (data : Bytes)
  | blocks (bs : List (Nat × Bytes)) (sig : Bytes)
  | err (e : SpdmErr)
  deriving DecidableEq, Repr

/-- What goes out on the management port (R533, R565, R569, R570, R552): a record, a telemetry datagram, a JOIN to a
module, its acknowledgement, a REGISTER with the leader it names as absent, the fabric manager's answer passed to the
members, a change of the link map, or the report of a bank group of a stack whose spare rows are exhausted (R312). -/
inductive MgmtMsg
  | record (data : Bytes)
  | telemetry (data : Bytes)
  | join (dest : Nat) (data : Bytes)
  | joined (dest : Nat)
  | register (members : List Nat) (absent : Option Nat)
  | answer (x : Answer) (members : List Nat)
  | links (dest : Option Nat) (data : Bytes)
  | exhausted (stack bg : Nat)
  deriving DecidableEq, Repr

/-- What the module sends outside itself. A write to the host names the function on whose IDE selective stream it travels, with the
TDISP T bit set, when its partition is sealed (R482); `wire` is the record that carries an SPDM answer of a session. (DESIGN
CHOICE, log entry 100.) -/
inductive Msg
  | hostWrite (addr : W64) (data : Bytes) (ide : Option Nat)
  | msix (f : Nat) (vec : Nat)
  | readData (f : Nat) (v : W32)
  | frame (port : Nat) (sub : Bool) (data : Bytes)
  | mgmt (m : MgmtMsg)
  | i3c (data : Bytes)
  | i3cSafe
  | i3cInterrupt
  | spdm (m : SpdmSrc) (r : SpdmRsp) (wire : Bytes)
  | debug (data : Bytes)
  | debugRefused
  | power (on : Bool)
  deriving DecidableEq, Repr

/-- The audit in progress (R526 to R528): the engine, the context, the spare; whether the audited segment has begun; the original's
accumulators, audit digest and step and the tokens that it popped once it has committed; and the shadow's accumulators and digest
once it has. (DEDUCED, log entry 37.) -/
structure AuditRun where
  le : Nat
  p : Nat
  c : Nat
  spare : Nat
  begun : Bool := false
  orig : Option (List DigAcc × W64 × W64) := none
  popped : Tab (List Tok) := []
  shade : Option (List DigAcc × W64) := none
  deriving DecidableEq, Repr

/-- The slice schedule of R420 beside SLICE_STAT: A, s and D of the period, and the largest overrun of the switches with
the present start. -/
structure Sched where
  a : Nat := 0
  s : Nat := 0
  d : Nat := 0
  best : Nat := 0
  deriving DecidableEq, Repr

/-- The fuses and the identity of the part (chapters 00, 01, 15, 19): fixed at manufacture. (DESIGN CHOICE, log entry 6.) -/
structure Fuses where
  vendor : Nat
  binS : Bool
  steppingC0 : Bool
  good : BitVec 52
  serial : W64
  pcap : Nat
  uds : BitVec 256
  rootE : BitVec 384
  rootQ : BitVec 384
  deriving DecidableEq, Repr

/-- A transcendental library: TLIB_MAJOR, TLIB_MINOR and its digest (R45, R464). -/
structure Lib where
  major : Nat := 1
  minor : Nat := 0
  hash : BitVec 384 := 0
  deriving DecidableEq, Repr

/-- A fetched descriptor of a ring: its ring index, its bytes (none when the fetch failed), whether it has started and
run, its status and detail once it has completed (R437, R445), and its place in the order of all fetches. -/
structure Desc where
  idx : Nat
  raw : Bytes
  started : Bool := false
  ran : Bool := false
  status : Option (Nat × W64) := none
  seq : Nat := 0
  deriving DecidableEq, Repr

/-- A submission ring with its completion ring (R431 to R435, R445, R448). `fetched` are the descriptors whose completion
is not written, oldest first; `unread` counts the entries written and not consumed. -/
structure Ring where
  sqb : W64 := 0
  cqb : W64 := 0
  cfg : W64 := 0
  head : Nat := 0
  tail : Nat := 0
  cqtail : Nat := 0
  phase : Bool := false
  err : Bool := false
  stop : Bool := false
  fetched : List Desc := []
  unread : Nat := 0
  since : Nat := 0
  deriving DecidableEq, Repr

/-- A request of a partition's list: its REQSEQ and its list slot (R340). -/
structure Req where
  seq : W64
  slot : Nat
  deriving DecidableEq, Repr

/-- What an epoch slot holds beside its registers (R358, R363). -/
structure Epoch where
  bundle : W64 := 0
  first : Nat := 0
  dest : Nat := 0
  key : Nat := 0
  got : List Nat := []
  deriving DecidableEq, Repr

/-- What an event ring holds beside its registers: entries not yet consumed, and the free-running count (R450). -/
structure EvRing where
  used : Nat := 0
  count : W32 := 0
  deriving DecidableEq, Repr

/-! ## The network (chapter 12) -/

/-- A Tilth packet of a send half: its type, its flags, its chunk number, its token, its payload, and its PSN once it has
been released (R380, R387). `src` is the internal input it comes by. -/
structure Pkt where
  typ : Nat
  prov : Bool := false
  eoc : Bool := false
  eot : Bool := false
  chunk : Nat := 0
  tok : Tok := 0
  data : Bytes := []
  psn : Nat := 0
  src : Nat
  deriving DecidableEq, Repr

/-- A provisional transfer whose CONFIRM is still to come: its token, the context that sent it, its ordinal, the number of
its first chunk, and whether its last chunk has been handed off (R515). -/
structure ProvSend where
  tok : Tok
  p : Nat
  c : Nat
  ordinal : Option Nat
  first : Nat
  whole : Bool
  deriving DecidableEq, Repr

/-- A Tilth send half (R382) with the packets that are handed off and not released, those not acknowledged, its
provisional transfers, and the device time of its last rate cut (R397). -/
structure SendHalf where
  sstate : Nat := 0
  path : Nat := 0
  retries : Nat := 0
  dmod : Nat := 0
  dctx : Nat := 0
  npsn : Nat := 0
  infl : Nat := 0
  win : Nat := 0
  credit : Nat := 0
  hchunk : Nat := 0
  rate : Nat := 0
  provok : Bool := false
  p96 : Bool := false
  todo : List Pkt := []
  unacked : List Pkt := []
  provs : List ProvSend := []
  cut : Option W64 := none
  deriving DecidableEq, Repr

/-- A complete chunk of a receive half that is not placed yet, with the number of its transfer on the half. -/
structure RxChunk where
  stamp : Nat
  data : Bytes
  eot : Bool
  tok : Tok
  prov : Bool
  xfer : Nat := 0
  deriving DecidableEq, Repr

/-- A Tilth receive half (R382) with the chunk that is arriving, the complete chunks that wait for their place, the chunks
placed or folded (P_i of R390), whether its sender has ended, the chunks of the present transfer, its number on the half and
whether it is provisional, the provisional transfers that are whole with their chunks and numbers (R517), and what its next ACK
says (R391). -/
structure RecvHalf where
  rstate : Nat := 0
  kind : Nat := 0
  epsn : Nat := 0
  echunk : Nat := 0
  grant : Nat := 0
  pmod : Nat := 0
  pctx : Nat := 0
  target : Nat := 0
  ackpend : Bool := false
  buf : Bytes := []
  done : List RxChunk := []
  placed : Nat := 0
  bytes : Nat := 0
  raised : Bool := false
  ended : Bool := false
  inXfer : Nat := 0
  xferNo : Nat := 0
  inProv : Bool := false
  provs : List (Tok × Nat × Nat) := []
  ce : Bool := false
  nak : Bool := false
  path : Nat := 0
  deriving DecidableEq, Repr

/-- A received Tilth packet as its header gives it (R380), with its payload, whether the payload's check value agreed
(R255), and whether it arrived marked CE. -/
structure RxPkt where
  typ : Nat
  prov : Bool
  eoc : Bool
  eot : Bool
  ceEcho : Bool
  nak : Bool
  smod : Nat
  path : Nat
  sctx : Nat
  dctx : Nat
  psn : Nat
  apsn : Nat
  tok : Tok
  grant : Nat
  data : Bytes
  crcOk : Bool
  ce : Bool
  deriving DecidableEq, Repr

/-- An exchange of several senders at one receive descriptor, by its FIRSTCTX: whether a chunk of it has been placed (R51),
the sender whose turn it is, the bytes placed, and whether it was discarded (R389). -/
structure Exch where
  begun : Bool := false
  turn : Nat := 0
  bytes : Nat := 0
  bad : Bool := false
  deriving DecidableEq, Repr

/-- A fold of the reduction engine, by its entry: the chunk position, and whether its present chunk has mismatched once
(R398, R502). -/
structure Fold where
  pos : Nat := 0
  missed : Bool := false
  deriving DecidableEq, Repr

/-- What the best master clock algorithm makes of a port. (PRESUMED, log entry 120.) -/
inductive PtpRole | master | slave | passive
  deriving DecidableEq, Repr

/-- What a port or sub-port keeps of its PTP messages (R403): the next sequence number, the sequence number and timestamp of
the last Sync and Delay_Req that it sent, the last Sync and Delay_Req that it received with their timestamps, the last other
event message with its timestamp, the last Follow_Up and Delay_Resp, the last Announce, what the best master clock algorithm
makes of the port, and the offset from its master that the servo has computed. (PRESUMED, log entry 120.) -/
structure PtpPort where
  seq : Nat := 0
  syncTx : Option (Nat × W64) := none
  reqTx : Option (Nat × W64) := none
  syncRx : Option (Bytes × W64) := none
  reqRx : Option (Bytes × W64) := none
  eventRx : Option (Bytes × W64) := none
  followUp : Option Bytes := none
  delayResp : Option Bytes := none
  announce : Option Bytes := none
  role : PtpRole := .master
  offset : Int := 0
  deriving DecidableEq, Repr

/-- A record in a relay buffer: still to be forwarded, still to be verified (R364). -/
structure RelayRec where
  data : Bytes
  fwd : Bool
  keep : Bool
  deriving DecidableEq, Repr

/-- A posted receive buffer of the host virtual port, with its place in the order of fetches (R449). -/
structure RxBuf where
  ring : Nat
  idx : Nat
  addr : W64
  len : Nat
  seq : Nat := 0
  deriving DecidableEq, Repr

/-- A clearing of a partition that runs (R425, R479, R481, R485). An unsealing, and an enabling written with RESET = 1, reset
the partition first and zero its Loam after that. (DEDUCED, log entry 59.) -/
inductive ClearKind
  | enable
  | enableReset
  | seal
  | reset
  | unsealReset (forced : Bool)
  | unsealZero (forced : Bool)
  deriving DecidableEq, Repr

/-- The TDISP state of a VF's interface (R429, R481, R485). -/
inductive Tdi | unlocked | locked | run | error
  deriving DecidableEq, Repr

/-- What a partition holds beside its registers: the clearing that runs, RESETS and DEBUG of its measurement (R464), the
debug export key and count and the image key of its seal (R481, R498), its VF's interface state, and whether that VF is
enabled (R428). -/
structure PartX where
  clearing : Option ClearKind := none
  resets : W32 := 0
  debug : W32 := 0
  dxk : BitVec 256 := 0
  imgKey : BitVec 384 := 0
  dbgctr : W64 := 0
  tdi : Tdi := .unlocked
  vf : Bool := false
  deriving DecidableEq, Repr

/-- A key rotation (R475 to R478): Clay periods counted, Clay chunks in a channel, CXL pages of the partition, and the
pages below the sweep pointer. -/
structure Rot where
  i : Nat
  chunks : Nat
  cxl : Nat
  ptr : Nat
  deriving DecidableEq, Repr

/-- The tag of a GCM slot: BUNDLE, EPOCH_ID and the partition (R490). -/
structure GcmTag where
  bundle : W64
  epoch : W64
  part : Nat
  deriving DecidableEq, Repr

/-- A device set key: SETID, SK, and the partition it serves when a tenant joined it (R487). -/
structure SetKey where
  setid : W64
  sk : BitVec 256
  part : Option Nat
  deriving DecidableEq, Repr

/-! ## Gauntlet and management (chapters 15 to 18) -/

/-- The ownership record (R463). -/
structure Owner where
  caE : BitVec 384
  caQ : BitVec 384
  mac : BitVec 384
  deriving DecidableEq, Repr

/-- The settings of a trained item, in tap steps, with the junction temperature or the serial number that their use rests on
(R549). (DESIGN CHOICE, log entry 72.) -/
structure SavedItem where
  item : TrainItem
  ref : Nat
  taps : List Nat
  deriving DecidableEq, Repr

/-- A saved-settings record: the serial, the stepping and the digest of the sequencer firmware that it names, the settings of
each item (R549), and when it was written (R550). (DESIGN CHOICE, log entry 72.) -/
structure SavedRec where
  serial : W64
  steppingC0 : Bool
  seq : BitVec 384
  savedAt : W64
  items : List SavedItem := []
  deriving DecidableEq, Repr

/-- The management record: whether it names a fabric manager (R568), the management port's static addresses, none for SLAAC
and DHCP (R561), the ports of the services of R562, the collector with its ports for records and telemetry, and TEL_PERIOD
in ms (R565). (DESIGN CHOICE, log entry 125.) -/
structure MgmtRec where
  mgr : Bool := false
  v6 : Option (BitVec 128) := none
  v4 : Option (BitVec 32) := none
  ports : List Nat := [40970, 40971, 40972, 40973]
  collector : Option (BitVec 128 × Nat × Nat) := none
  telPeriod : Nat := 1000
  deriving DecidableEq, Repr

/-- What Gauntlet holds of the module store's contents (R557): the firmware slots and the one that booted last, the self-test
image by its digest, the DevID certificates, the saved-settings record, the ownership record, the retirements and voltage rungs
by engine, the marked HBM rows and Clay pages, the rows repaired hard and softly, the management record, the last location code
and plan, and of the logs the thermal record, the error log, the losses of input power and the telemetry history. (DESIGN
CHOICE, log entry 7, DESIGN CHOICE, log entry 72.) -/
structure Store where
  slotA : Option FwImage := none
  slotB : Option FwImage := none
  lastB : Bool := false
  selfTest : BitVec 384 := 0
  ident : List Bytes := []
  saved : Option SavedRec := none
  owner : Option Owner := none
  health : Tab Nat := []
  marks : List HbmRow := []
  pages : List Nat := []
  repairs : List HbmRow := []
  soft : List HbmRow := []
  mrec : MgmtRec := {}
  loc : Option W32 := none
  plan : Option Plan := none
  trip : Option (Byte × W64) := none
  log : List Bytes := []
  losses : List W64 := []
  hist : List (W64 × W64 × W64) := []
  deriving DecidableEq, Repr

/-- What the retention bank keeps beside the ownership record and the device sets (R468): each partition's debug export key and
image key, the rotations, and the tags of the GCM slots. -/
structure Retention where
  parts : List (BitVec 256 × BitVec 384) := []
  rot : List (Nat × Rot) := []
  tags : Tab GcmTag := []
  deriving DecidableEq, Repr

/-- The logs of the module store as it holds them (R557): the error log, the losses of input power and the telemetry history. -/
structure Logs where
  log : List Bytes := []
  losses : List W64 := []
  hist : List (W64 × W64 × W64) := []
  deriving DecidableEq, Repr

/-- The areas of the module store that keep two copies of their record (R557). -/
inductive Area | fwA | fwB | selfTest | ident | sealed | saved | plan
  deriving DecidableEq, Repr

/-- The contents of an area's record (R557). -/
inductive AreaVal
  | image (f : Option FwImage)
  | selfTest (d : BitVec 384)
  | ident (certs : List Bytes)
  | sealed (owner : Option Owner) (sets : List SetKey) (lastB : Bool) (health : Tab Nat) (marks : List HbmRow)
      (pages : List Nat) (repairs soft : List HbmRow) (ret : Retention)
  | saved (r : Option SavedRec)
  | plan (r : MgmtRec) (loc : Option W32) (plan : Option Plan)
  deriving DecidableEq, Repr

/-- One copy of an area's record: its sequence number, its contents, its check value, and whether its last write was torn or
still runs, so that the check value does not agree (R558). (DESIGN CHOICE, log entry 72.) -/
structure Copy where
  seq : W64
  val : AreaVal
  tag : BitVec 384
  torn : Bool := false
  deriving DecidableEq, Repr

/-- A batch of writes to the store that runs: the copies that it writes, by area and number, with the contents that each is to
hold, the logs as it leaves them, and whether it writes the rest of them or a part (R559). (DESIGN CHOICE, log entry 72.) -/
structure Batch where
  size : Nat
  writes : List (Area × Bool × AreaVal)
  logs : Logs
  whole : Bool
  deriving DecidableEq, Repr

/-- What a start keeps beside BOOT_STAT (R539 to R548): whether power-good has come, recovery mode, whether an item was trained
in full and whether a lane has moved by more than one tap step since the saved settings were written, the settings of the items
(R549, R550), the soft repairs in effect (R551), whether the CXL ports' PERST# outputs are low (R583), whether the host link is
down and whether PERST# is asserted, the location code of this start, the address straps of J4 with a strap left open reading 1
(R584), the I3C dynamic address, THERMTRIP#, the regulators that have shut down, the running firmware, the reference clocks lost
and slewing back (R581), and the decoded capacity of the device on each CXL port in units of 4 GiB (R304, R307). (DESIGN CHOICE,
log entry 8.) -/
structure Boot where
  powered : Bool := false
  recovery : Bool := false
  full : Bool := false
  moved : Bool := false
  items : List SavedItem := []
  soft : List HbmRow := []
  cxlPerst : Bool := true
  hostDown : Bool := true
  perst : Bool := false
  loc : Option W32 := none
  straps : BitVec 3 := 7
  dyn : Option (BitVec 7) := none
  thermtrip : Bool := false
  railsOff : List Rail := []
  running : Option FwImage := none
  lostRefs : List RefClk := []
  slewing : List RefClk := []
  cxlCap : Nat × Nat := (0, 0)
  deriving DecidableEq, Repr

/-- The samples of one 100 ms window of device time (R492): its number, their count, the sum of PIN, the highest junction
temperature and the limits of LOCKED_CLK. -/
structure TelWin where
  idx : Nat := 0
  n : Nat := 0
  pin : Nat := 0
  tmax : Nat := 0
  lim : Nat := 0
  deriving DecidableEq, Repr

/-- Bonnet (R26, R41, R576, R586): the steps that the power cap and the thermal limit ask for, whether the last sample
passed the fused cap, since when every sensor has stood 3 °C below its setpoint, the last 100 values of PIN, the time of
the last sample, and the present and the last whole window. (DESIGN CHOICE, log entry 71.) -/
structure Bonnet where
  cap : Nat := 0
  therm : Nat := 0
  overCap : Bool := false
  cool : Option W64 := none
  pins : List Nat := []
  lastAt : W64 := 0
  win : TelWin := {}
  last : Option TelWin := none
  deriving DecidableEq, Repr

/-- The management services (R533, R559, R569, R570, R494): the next record number and the records not acknowledged, the
members that have joined, whether this module's own JOIN is acknowledged and the acting leader that it joins, whether the group is
registered, the fabric manager's GO, the modules that a HOLD named, the store batch in progress, OFF_REQUEST, the last accepted
debug sequence number, and the time of the last telemetry datagram. -/
structure Mgmt where
  seq : W64 := 0
  unacked : List (W64 × Bytes) := []
  joined : List Nat := []
  registered : Bool := false
  acked : Bool := false
  boss : Option Nat := none
  go : Option GoOrder := none
  held : Option (List (BitVec 17)) := none
  batch : Option Batch := none
  off : Bool := false
  dbgSeq : Option W64 := none
  lastTel : Option W64 := none
  deriving DecidableEq, Repr

/-- An SPDM session (R460 to R463): its transport, whether its version is 1.3, whether FINISH has completed it, whether
PQ_BIND has, whether its requester proved to be the operator; its master secret, the secrets of its request and response
directions with the sequence numbers of their records, and its transcript (DSP0277). (PRESUMED, log entry 80.) -/
structure Session where
  tr : Transport
  v13 : Bool := false
  up : Bool := false
  pq : Bool := false
  auth : Bool := false
  secret : Bytes := []
  req : Bytes := []
  rsp : Bytes := []
  reqSeq : Nat := 0
  rspSeq : Nat := 0
  th : Bytes := []
  deriving DecidableEq, Repr

/-- The negotiation of a transport: the step that it has reached, whether version 1.3 was chosen, and its transcript. -/
structure Conn where
  step : Nat := 0
  v13 : Bool := false
  th : Bytes := []
  deriving DecidableEq, Repr

/-- One copy of Gauntlet's RV32IMC processor with Zicsr (R453): its registers, its pc and its CSRs. -/
structure RvCore where
  x : Tab W32 := []
  pc : W32 := 0
  csr : Tab W32 := []
  deriving DecidableEq, Repr

/-- Gauntlet: its two copies and its SRAM (R453), what the boot ROM has derived from UDS, and whether the UDS read path is
open (R456); the setup policy (R21), the pieces of an image, the staged image (R467) and one
that a planned start activates from Loam (R571), a restart under way with whether it
brings the staged image and whether the copies had disagreed (R468, R538), the mailbox buffers (R470), the negotiation of
each transport, the sessions, the transcript hash of the last signed response of each source (R461), and what the Gauntlet
domain's registers read while a restart runs (R594). (DESIGN CHOICE, log entry 126.) -/
structure Gaunt where
  core : RvCore := {}
  twin : RvCore := {}
  sram : Mem := []
  udsOpen : Bool := true
  prk : Bytes := []
  sek : Bytes := []
  policy : Policy := ⟨[], 0⟩
  pieces : Mem := []
  staged : Option FwImage := none
  loam : Option FwImage := none
  restarting : Bool := false
  newImage : Bool := false
  lockFail : Bool := false
  mbxReq : Mem := []
  mbxRsp : Bytes := []
  conns : List (Transport × Conn) := []
  sess : Tab Session := []
  signed : List (SpdmSrc × BitVec 384) := []
  frozen : Tab W64 := []
  deriving DecidableEq, Repr

/-- The bytes of a firmware image's description, of an ownership record and of a row. -/
def FwImage.bytes (f : FwImage) : Bytes :=
  [f.digest, f.seq, f.lib, f.keyE, f.keyQ].flatMap digestBytes ++ leBytes 8 f.svn ++
  [f.tlibMajor, f.tlibMinor] ++ [f.sigE, f.sigQ, f.raiseSvn].map (fun b => BitVec.ofNat 8 b.toNat)
def Owner.bytes (o : Owner) : Bytes := [o.caE, o.caQ, o.mac].flatMap digestBytes
def Retention.bytes (r : Retention) : Bytes :=
  r.parts.flatMap (fun k => leBytes 32 k.1.toNat ++ digestBytes k.2) ++
  r.rot.flatMap (fun e => [e.1, e.2.i, e.2.chunks, e.2.cxl, e.2.ptr].flatMap (leBytes 8)) ++
  r.tags.flatMap (fun e => leBytes 1 e.1 ++ leBytes 8 e.2.bundle.toNat ++ leBytes 8 e.2.epoch.toNat ++ leBytes 1 e.2.part)
def TrainItem.bytes : TrainItem → Bytes
  | .hbm i => [0, BitVec.ofNat 8 i.val]
  | .lp i => [1, BitVec.ofNat 8 i.val]
  | .lane i => [2, BitVec.ofNat 8 i.val]
  | .cxl i => [3, BitVec.ofNat 8 i.val]
  | .pcie => [4, 0]
def SavedItem.bytes (x : SavedItem) : Bytes := TrainItem.bytes x.item ++ leBytes 8 x.ref ++ x.taps.flatMap (leBytes 2)
def HbmRow.bytes (r : HbmRow) : Bytes := [r.stack, r.pc, r.bg, r.bank, r.row].flatMap (leBytes 8)

/-- The bytes of a record, in a layout that is not laid down. (DESIGN CHOICE, log entry 72.) -/
def AreaVal.bytes : AreaVal → Bytes
  | .image f => Config.layout 50 ((f.map FwImage.bytes).getD [])
  | .selfTest d => Config.layout 51 (digestBytes d)
  | .ident cs => Config.layout 52 cs.flatten
  | .sealed o sets lastB health marks pages repairs soft ret => Config.layout 53 (
      (o.map Owner.bytes).getD [] ++
      sets.flatMap (fun k => leBytes 8 k.setid.toNat ++ leBytes 32 k.sk.toNat ++ leBytes 1 (k.part.getD 255)) ++
      leBytes 1 lastB.toNat ++ health.flatMap (fun e => leBytes 1 e.1 ++ leBytes 1 e.2) ++
      marks.flatMap HbmRow.bytes ++ pages.flatMap (leBytes 8) ++ repairs.flatMap HbmRow.bytes ++ soft.flatMap HbmRow.bytes ++ ret.bytes)
  | .saved r => Config.layout 54 (match r with
      | some r => leBytes 8 r.serial.toNat ++ leBytes 1 r.steppingC0.toNat ++ digestBytes r.seq ++ leBytes 8 r.savedAt.toNat ++
        r.items.flatMap SavedItem.bytes
      | none => [])
  | .plan r loc p => Config.layout 55 (
      leBytes 1 r.mgr.toNat ++ leBytes 16 ((r.v6.map BitVec.toNat).getD 0) ++ leBytes 4 ((r.v4.map BitVec.toNat).getD 0) ++
      r.ports.flatMap (leBytes 2) ++
      (match r.collector with | some (a, e, t) => leBytes 16 a.toNat ++ leBytes 2 e ++ leBytes 2 t | none => []) ++
      leBytes 8 r.telPeriod ++ leBytes 4 ((loc.map BitVec.toNat).getD 0) ++ (match p with | some p => digestBytes p.digest | none => []))

/-- The check value of a record with its sequence number: an HMAC-SHA-384 under SEK of the sealed records, a SHA-384 of the
others (R558). -/
def areaTag (sek : Bytes) (a : Area) (seq : W64) (v : AreaVal) : BitVec 384 :=
  let body := leBytes 8 seq.toNat ++ v.bytes
  if a = .sealed then BitVec.ofNat 384 (leNat (hmac384 sek body)) else Config.sha384 body

/-- The machine. -/
structure State where
  pending : List Instr := []
  fuse : Fuses
  regs : Tab W64 := []
  eng : Tab Engine := []
  loam : Mem := []
  loamEra : Tab Nat := []
  clay : Mem := []
  clayGen : Mem := []
  cxl0 : Mem := []
  cxl1 : Mem := []
  recBuf : Tab (List ErrRec) := []
  recLost : Tab W64 := []
  out : List Msg := []
  fresh : Nat := 0
  time : W64 := 0
  ev : Tab EvRing := []
  lib : Lib := {}
  rings : Tab Ring := []
  slots : Tab (List W32) := []
  parts : Tab PartX := []
  rot : Tab Rot := []
  gcmTag : Tab GcmTag := []
  libStaged : Option Lib := none
  setKeys : List SetKey := []
  ideOn : List Nat := []
  msixTab : Tab W32 := []
  msixPend : List (Nat × Nat) := []
  eps : Tab Epoch := []
  reqs : Tab (List Req) := []
  send : Tab SendHalf := []
  recv : Tab RecvHalf := []
  tilthIn : Tab (List RxPkt) := []
  ackIn : List RxPkt := []
  egq : Tab (List Bytes) := []
  starts : Tab (List (Nat × Bool)) := []
  ptp : Tab PtpPort := []
  swtab : Tab Bytes := []
  exch : Tab Exch := []
  folds : Tab Fold := []
  relay : Tab (List RelayRec) := []
  keys : Tab (List (BitVec 256)) := []
  hvpRx : List RxBuf := []
  hvpTx : Tab (List (Option (Nat × Nat))) := []
  audit : Option AuditRun := none
  crungBy : List Nat := []
  auditBad : List Nat := []
  repair : List HbmRow := []
  clayMarks : List Nat := []
  sched : Sched := {}
  latch : Tab W32 := []
  npstAbort : Bool := false
  npstEng : BitVec 52 := 0
  npstLib : Option Lib := none
  swAt : Nat := 0
  engParts : List Nat := []
  engSet : BitVec 52 := 0
  svn : Nat := 0
  store : Store := {}
  emmc : List (Area × Bool × Copy) := []
  logs : Logs := {}
  boot : Boot := {}
  bonnet : Bonnet := {}
  mgmt : Mgmt := {}
  gaunt : Gaunt := {}
  deriving DecidableEq, Repr

/-- The fuses of the modelled part: bin -H, stepping C0, all 52 engines good, the -H power cap. (DESIGN CHOICE, log entry
6.) -/
def Fuses.modelled : Fuses :=
  { vendor := 0, binS := false, steppingC0 := true, good := BitVec.allOnes 52, serial := 0, pcap := 2600, uds := 0, rootE := 0, rootQ := 0 }

/-- The firmware image that the modelled part carries in slot A. (DESIGN CHOICE, log entry 7.) -/
def FwImage.shipped : FwImage :=
  { digest := 0, seq := 0, lib := 0, sigE := true, sigQ := true, keyE := 0, keyQ := 0, svn := 0, raiseSvn := false, tlibMajor := 1, tlibMinor := 0 }

/-- The module right after a module reset, before power-good: all module state is clear, every register holds its reset
value (none is listed in `regs`), every memory reads 0 and no command waits (R539, R540). (DEDUCED, log entry 3, DESIGN
CHOICE, log entry 5, DESIGN CHOICE, log entry 6, DESIGN CHOICE, log entry 7, DESIGN CHOICE, log entry 8, DEDUCED, log
entry 97.) -/
def State.reset : State :=
  { fuse := Fuses.modelled
    store := { slotA := some FwImage.shipped }
    emmc := [(.fwA, false, { seq := 1, val := .image (some FwImage.shipped), tag := areaTag [] .fwA 1 (.image (some FwImage.shipped)) })] }

end Sys2Proof.Machine
end

