-- ==== Sys2Proof/Machine/Operands.lean ====
section
/-!
DEFINITION. The operand forms of chapter 06: the engine instruction word (R177), the listed opcodes of each class, the
bits that must be 0 (R178), the group rule (R179), the fields of the V, Q, D, M and C layouts, and the fields of the
load, pass and transfer descriptors.
-/

namespace Sys2Proof.Machine

/-- The engine instructions that chapter 06 lists. -/
inductive EngOp
  | mLoadw | mPass | mPasst | mFold | mOut | mSetib
  | vAdd | vSub | vMul | vFma | vCmp | vSel | vMin | vMax | vAnd | vOr | vXor | vAndn | vShl | vShr | vSra
  | vCvt | vPerm | vLd | vSt | vCompress | vExpand | vSetib | vPtr | vSumq | vLi | vSetrk | vPst | vPlog
  | qSum | qSumsq | qMax | qMin | qArgmax | qArgmin | qNfc | qSetib
  | dGet | dPut | dSend | dGather | dIload
  | cNop | cLoop | cWait | cArm | cSetlc | cSelect | cJump | cCommit | cSwapbank | cStep | cEnd
  deriving DecidableEq, Repr

/-- Bits [hi:lo] of an instruction word. -/
def wbits (w : W64) (hi lo : Nat) : Nat := bits w.toNat hi lo

/-- CLASS (R177). -/
def wClass (w : W64) : Nat := wbits w 63 61
/-- G: the last instruction of its group. -/
def wG (w : W64) : Bool := w.getLsbD 60
/-- The wait slot that TW names, when W = 1. -/
def wTw (w : W64) : Option Nat := if w.getLsbD 53 then some (wbits w 52 48) else none

/-- The opcode of a class and an OP; none for a reserved one (R178). -/
def EngOp.ofCode : Nat → Nat → Option EngOp
  | 0, 0x01 => some .mLoadw | 0, 0x02 => some .mPass | 0, 0x03 => some .mPasst | 0, 0x04 => some .mFold
  | 0, 0x05 => some .mOut | 0, 0x06 => some .mSetib
  | 1, 0x00 => some .vAdd | 1, 0x01 => some .vSub | 1, 0x02 => some .vMul | 1, 0x03 => some .vFma
  | 1, 0x04 => some .vCmp | 1, 0x05 => some .vSel | 1, 0x06 => some .vMin | 1, 0x07 => some .vMax
  | 1, 0x08 => some .vAnd | 1, 0x09 => some .vOr | 1, 0x0A => some .vXor | 1, 0x0B => some .vAndn
  | 1, 0x0C => some .vShl | 1, 0x0D => some .vShr | 1, 0x0E => some .vSra | 1, 0x0F => some .vCvt
  | 1, 0x10 => some .vPerm | 1, 0x11 => some .vLd | 1, 0x12 => some .vSt | 1, 0x13 => some .vCompress
  | 1, 0x14 => some .vExpand | 1, 0x15 => some .vSetib | 1, 0x16 => some .vPtr | 1, 0x17 => some .vSumq
  | 1, 0x18 => some .vLi | 1, 0x19 => some .vSetrk | 1, 0x1A => some .vPst | 1, 0x1B => some .vPlog
  | 2, 0x00 => some .qSum | 2, 0x01 => some .qSumsq | 2, 0x02 => some .qMax | 2, 0x03 => some .qMin
  | 2, 0x04 => some .qArgmax | 2, 0x05 => some .qArgmin | 2, 0x06 => some .qNfc | 2, 0x07 => some .qSetib
  | 3, 0x00 => some .dGet | 3, 0x01 => some .dPut | 3, 0x02 => some .dSend | 3, 0x03 => some .dGather
  | 3, 0x04 => some .dIload
  | 4, 0x00 => some .cNop | 4, 0x01 => some .cLoop | 4, 0x02 => some .cWait | 4, 0x03 => some .cArm
  | 4, 0x04 => some .cSetlc | 4, 0x05 => some .cSelect | 4, 0x06 => some .cJump | 4, 0x07 => some .cCommit
  | 4, 0x08 => some .cSwapbank | 4, 0x09 => some .cStep | 4, 0x0A => some .cEnd
  | _, _ => none

/-- The instruction a word holds, by its CLASS and OP. -/
def EngOp.ofWord (w : W64) : Option EngOp := EngOp.ofCode (wClass w) (wbits w 59 54)

/-- The operand fields [hi:lo] of an instruction; every other operand bit is 0 (R178, the tables of chapter 06). In
the V layout T, VD, VA, VB, VC and VP are fields of every opcode that keeps that layout (R207). -/
def EngOp.fields (o : EngOp) (w : W64) : List (Nat × Nat) :=
  match o with
  | .mLoadw => [(47, 30)]
  | .mPass | .mPasst => [(47, 7)]
  | .mFold => [(47, 2)]
  | .mOut => [(47, 14)]
  | .mSetib => [(45, 40)]
  | .vCmp => [(47, 46), (39, 12)]
  | .vSel => [(47, 19), (15, 13)]
  | .vCvt => [(45, 2)]
  | .vLd | .vSt | .vPst => [(47, 0)]
  | .vCompress => [(47, 11)]
  | .vExpand => [(47, 18)]
  | .vPtr => [(45, 43), (39, 16)]
  | .vSumq => [(45, 43), (39, 2)]
  | .vLi => [(47, 40), (31, 0)]
  | .vSetrk => [(47, 17)]
  | .vPlog => [(47, 7)]
  | .qSetib => [(43, 38)]
  | .qNfc => [(47, 44), (34, 29), (28, if wbits w 30 29 = 2 then 13 else 14)]
  | .qSum | .qSumsq | .qMax | .qMin | .qArgmax | .qArgmin => [(47, 29), (28, if wbits w 30 29 = 2 then 13 else 14)]
  | .dGet | .dPut | .dSend | .dGather | .dIload => [(47, 8)]
  | .cNop => [(15, 0)]
  | .cLoop => [(47, 32)]
  | .cWait => [(47, 12)]
  | .cArm => [(47, 27)]
  | .cSetlc => [(47, 45), (31, 0)]
  | .cSelect => []
  | .cJump | .cSwapbank => [(12, 0)]
  | .cCommit => [(47, 30)]
  | .cStep => if w.getLsbD 47 then [(47, 47), (45, 40)] else [(47, 47)]
  | .cEnd => [(31, 0)]
  | _ => [(47, 19)]

/-- Every operand bit outside the instruction's fields is 0 (R178). -/
def zerosOk (o : EngOp) (w : W64) : Bool :=
  (List.range 48).all (fun i => !w.getLsbD i || (o.fields w).any (fun (hi, lo) => lo ≤ i && i ≤ hi))

/-- A word by itself is well formed: a listed opcode, its zero bits, and no slot number without W (R178). (DEDUCED, log
entry 14.) -/
def wordOk (w : W64) : Bool :=
  match EngOp.ofWord w with
  | none => false
  | some o => zerosOk o w && (w.getLsbD 53 || wbits w 52 48 == 0)

/-- The words of the group that starts a list: up to and with the first G, at most five (R179). -/
def groupWords : Nat → List W64 → Option (List W64)
  | 0, _ => none
  | _, [] => none
  | n + 1, w :: ws => if wG w then some [w] else (groupWords n ws).map (w :: ·)

/-- Classes strictly ascend (R179). -/
def ascending : List W64 → Bool
  | a :: b :: t => decide (wClass a < wClass b) && ascending (b :: t)
  | _ => true

/-- A well-formed group at the start of the region's remaining words (R179). -/
def groupAt (ws : List W64) : Option (List W64) :=
  match groupWords 5 ws with
  | some g => if ascending g then some g else none
  | none => none

/-! ## Tokens (R182, R183) -/

/-- Class of a token. -/
def tokClass (t : Tok) : Nat := t.toNat / 4096
/-- Identifier of a token. -/
def tokId (t : Tok) : Nat := t.toNat % 4096
/-- A token from its class and identifier. -/
def mkTok (cls id : Nat) : Tok := BitVec.ofNat 16 (cls * 4096 + id % 4096)
/-- A TOK field that allows the classes of a list; 0x0000 is no token. -/
def tokOk (allowed : List Nat) (t : Tok) : Bool := t == 0 || allowed.contains (tokClass t)
/-- The classes whose waits are declared wait points (R36, R183, R218): NET, HOST, SHALE, CONFIRM. -/
def freeClass (c : Nat) : Bool := c == 3 || c == 4 || c == 5 || c == 6

/-- TOK of an M instruction, at bits [29:14] of a pass or M.OUT and [17:2] of M.FOLD. -/
def mTok (o : EngOp) (w : W64) : Tok :=
  BitVec.ofNat 16 (if o = .mFold then wbits w 17 2 else if o = .mLoadw then 0 else wbits w 29 14)

/-! ## The static checks of single instructions -/

/-- The lanes that a finish writes from L, and the bound of R165 to R168 on L. -/
def finishSpan (op : QOp) (dst : Nat) (seg : Bool) : Nat :=
  match op, dst, seg with
  | .nfc, 0, false => 2 | .nfc, 0, true => 4
  | .nfc, _, false => 3 | .nfc, _, true => 6
  | op, _, true => if dst = 1 || op.isArg then 6 else 2
  | op, _, false => if dst = 1 || op.isArg then 3 else 1

/-- The Q operation of an opcode. -/
def EngOp.q : EngOp → QOp
  | .qSum => .sum | .qSumsq => .sumsq | .qMax => .max | .qMin => .min | .qArgmax => .argmax | .qArgmin => .argmin
  | _ => .nfc

/-- What a Q instruction's fields must hold whatever the state (R165 to R169, R210). R166 speaks of a finish; DST = 1 on
Q.MAX, Q.MIN, Q.ARGMAX or Q.ARGMIN is refused without one too. (DESIGN CHOICE, log entry 109.) -/
def qStatic (o : EngOp) (w : W64) : Bool :=
  let start := w.getLsbD 34
  let finish := w.getLsbD 33
  let seg := w.getLsbD 31
  let dst := wbits w 30 29
  let l := wbits w 22 14
  wbits w 47 46 < 2 && dst < 3 && (!seg || wbits w 45 44 % 2 == 0) &&
  (if o = .qNfc then finish && !start && wbits w 43 35 == 0 else true) &&
  !(o.q.isBest && dst == 1) &&
  (!finish || dst == 2 || l + finishSpan o.q dst seg ≤ 512)

/-- What a V instruction's fields must hold whatever the state (R146, R153, R157, R160, R207). -/
def vStatic (o : EngOp) (w : W64) : Bool :=
  let t := wbits w 47 46
  match o with
  | .vAnd | .vOr | .vXor | .vAndn | .vShl | .vShr | .vSra => t == 2
  | .vFma => t < 2
  | .vCmp => t < 3 && wbits w 18 16 < 7 && wbits w 15 13 != 0
  | .vCvt =>
    match Fmt.ofCode (wbits w 18 15), Fmt.ofCode (wbits w 14 11) with
    | some s, some d => cvtPair s d && wbits w 4 2 < cvtParts s d && !(d.isMx && wbits w 21 19 != 0)
    | _, _ => false
  | .vCompress => t < 3 && (w.getLsbD 15 || !(w.getLsbD 14 || w.getLsbD 11))
  | .vPtr => wbits w 45 43 < 6
  | .vSumq => wbits w 17 14 < 5
  | .vPlog => t < 3 && wbits w 18 16 < 5 && wbits w 15 13 != 0
  | _ => t < 3

/-- The token classes each D instruction allows in TOK (R212). -/
def dTokClasses : EngOp → List Nat
  | .dGet | .dGather => [0, 5]
  | .dPut => [0, 1, 5]
  | .dSend => [3]
  | _ => [0]

/-- The checks of one instruction that need no state (R178 and the rules that name a malformed instruction). (DEDUCED, log
entry 14.) -/
def static (o : EngOp) (w : W64) : Bool :=
  match o with
  | .mPass | .mPasst | .mFold | .mOut => tokOk [0] (mTok o w)
  | .mLoadw | .mSetib => true
  | .qSetib => true
  | .qSum | .qSumsq | .qMax | .qMin | .qArgmax | .qArgmin | .qNfc => qStatic o w
  | .dGet | .dPut | .dSend | .dGather | .dIload =>
    tokOk (dTokClasses o) (BitVec.ofNat 16 (wbits w 29 14)) && (!w.getLsbD 13 || o == .dSend)
  | .cWait => wbits w 31 28 == 15 && wbits w 47 44 < 7
  | .cArm => tokOk [0, 1, 2] (BitVec.ofNat 16 (wbits w 42 27))
  | .cNop | .cLoop | .cSetlc | .cSelect | .cJump | .cCommit | .cSwapbank | .cStep | .cEnd => true
  | o => vStatic o w

/-- The registers vi that an instruction names (R143): the fields of its layout, read or not, but for VC of a conversion
that R153 exempts. VD of a Q instruction without FINISH is not taken for a named register. (DESIGN CHOICE, log entry
108.) -/
def EngOp.vregs (o : EngOp) (w : W64) : List Nat :=
  let vd := wbits w 45 40
  let va := wbits w 39 34
  let vb := wbits w 33 28
  let vc := wbits w 27 22
  match o with
  | .vAdd | .vSub | .vMul | .vSel | .vMin | .vMax | .vAnd | .vOr | .vXor | .vAndn | .vShl | .vShr | .vSra
  | .vPerm => [vd, va, vb]
  | .vFma => [vd, va, vb, vc]
  | .vCmp => [va, vb]
  | .vCvt =>
    match Fmt.ofCode (wbits w 18 15), Fmt.ofCode (wbits w 14 11) with
    | some s, some d => if s.isNarrow || d.isNarrow then [vd, va, vc] else [vd, va]
    | _, _ => []
  | .vLd | .vExpand | .vLi => [vd]
  | .vSt | .vSetib | .vSetrk | .vCompress | .vSumq => [va]
  | .mSetib => [wbits w 45 40]
  | .qSum | .qSumsq | .qMax | .qMin | .qArgmax | .qArgmin =>
    wbits w 43 38 :: (if w.getLsbD 33 && wbits w 30 29 < 2 then [wbits w 28 23] else [])
  | .qNfc => if wbits w 30 29 < 2 then [wbits w 28 23] else []
  | .qSetib => [wbits w 43 38]
  | .cStep => if w.getLsbD 47 then [wbits w 45 40] else []
  | _ => []

/-! ## Descriptors -/

/-- A field of a descriptor, little-endian. -/
def dfld (d : Bytes) (o n : Nat) : Nat := d.num o n

/-- The load descriptor's own checks (R77, R109, R204): its zero bytes, its counts and its pair. -/
def loadDescOk (d : Bytes) : Bool :=
  match Fmt.ofCode (dfld d 12 1 % 16), Fmt.ofCode (dfld d 13 1 % 16) with
  | some fw, some fa =>
    dfld d 3 1 == 0 && dfld d 12 1 < 16 && dfld d 13 1 < 16 && dfld d 14 2 == 0 && dfld d 20 44 == 0 &&
    1 ≤ dfld d 8 2 && dfld d 8 2 ≤ 256 && 1 ≤ dfld d 10 2 && dfld d 10 2 ≤ 256 &&
    pairOk fw fa &&
    (if fw.isMx then dfld d 8 2 % 32 == 0 && dfld d 10 2 % 32 == 0 else dfld d 16 4 == 0)
  | _, _ => false

/-- Output formats of the array converter (R133). -/
def outFmtOk (f : Fmt) : Bool := f == .fp32 || f == .bf16 || f.isNarrow || f.isMx

/-- The pass descriptor's own checks (R71, R75, R117, R133, R206): `converts` for a pass with LAST = 1 or an M.OUT. The
scales of MX operands and of outputs that are not narrow are 1 (R133) and their fields are not read. A pass that converts
nothing has its output format checked only for a reserved code, and OADDR of R206 not at all. (DESIGN CHOICE, log entry
113.) -/
def passDescOk (d : Bytes) (converts : Bool) : Bool :=
  match Fmt.ofCode (dfld d 20 1 % 16) with
  | some fa =>
    dfld d 20 1 < 16 && dfld d 23 1 == 0 && dfld d 21 1 < 128 && dfld d 22 1 < 2 && dfld d 18 2 < 4096 &&
    (fa.isMx || (scaleOk (dfld d 24 4) && scaleOk (dfld d 28 4))) && (Fmt.ofCode (dfld d 21 1 % 16)).isSome &&
    (!converts ||
      match Fmt.ofCode (dfld d 21 1 % 16) with
      | some f =>
        outFmtOk f && (!f.isNarrow || scaleOk (dfld d 32 4)) &&
        (dfld d 22 1 == 0 || ((f == .fp32 || f == .bf16) && dfld d 36 4 < 64))
      | none => false)
  | none => false

/-- The transfer descriptor's own checks (R71, R211 to R213). LIST is read by D.GATHER alone, and R211 does not mark it 0 for
the others. -/
def xferDescOk (o : EngOp) (d : Bytes) : Bool :=
  let rb := dfld d 28 4
  dfld d 27 1 < 2 && 1 ≤ rb && rb ≤ 16777216 && dfld d 42 1 < 16 && dfld d 43 1 < 2 &&
  (dfld d 43 1 == 0 || o == .dGet) && dfld d 56 8 == 0 &&
  (o != .dIload || dfld d 44 4 == 0) &&
  (if o == .dSend || dfld d 43 1 == 1 then dfld d 48 4 < 2 ^ 20
   else if o == .dPut then (if bits (dfld d 0 8) 46 44 < 2 then dfld d 48 4 < 256 else dfld d 48 4 == 0)
   else dfld d 48 4 == 0) &&
  (match Fmt.ofCode (dfld d 42 1 % 16) with
    | some f => dfld d 44 4 == 0 || (if f.elem.width == 6 then rb % 3 == 0 else rb * 8 % f.elem.width == 0)
    | none => false)

end Sys2Proof.Machine
end

