-- ==== Sys2Proof/Machine/Registers.lean ====
section
/-!
DEFINITION. The setup register map (chapter 19 and the register tables of the chapters it names): for each register its
BAR0 offset, its width, and its fields with their access codes and reset values. An index p is a physical engine, c a
context place, q a partition, and so on as chapter 19 writes them.
-/

namespace Sys2Proof.Machine

/-- The access codes of R16. -/
inductive Access | rw | ro | wo | w1c | w1s | rsat
  deriving DecidableEq, Repr

/-- A field: its name, its bits [hi:lo], its access code and its reset value. -/
structure Field where
  name : String
  hi : Nat
  lo : Nat
  acc : Access
  reset : Nat
  deriving DecidableEq, Repr

/-- A row of the map: n1 × n2 registers at base + s1 × i + s2 × j, 64 or 32 bits wide. -/
structure RegRow where
  name : String
  base : Nat
  n1 : Nat
  s1 : Nat
  n2 : Nat
  s2 : Nat
  wide : Bool
  fields : List Field
  deriving DecidableEq, Repr

/-! ## Offsets -/

namespace Reg
/-- MOD_IDENT (19 setup register map R596). -/
def modIdent : Nat := 0x0
/-- MOD_SERIAL (19 setup register map R596). -/
def modSerial : Nat := 0x8
/-- DET_CTL (02 reproducibility contract R48). -/
def detCtl : Nat := 0x80
/-- NUMPROF (02 reproducibility contract R45). -/
def numprof : Nat := 0x100
/-- NPST_CTL (03 number formats R101). -/
def npstCtl : Nat := 0x180
/-- NPST_STAT (03 number formats R101). -/
def npstStat : Nat := 0x188
/-- NPST_FAIL (03 number formats R103). -/
def npstFail : Nat := 0x190
/-- NPST_FIRST (03 number formats R104). -/
def npstFirst : Nat := 0x198
/-- BOOT_STAT (17 bringup and management R548). -/
def bootStat : Nat := 0x200
/-- LE_MAP_n (01 planes dies and clocks R32). -/
def leMap (n : Nat) : Nat := 0x400 + 0x4 * n
/-- SPARE_SET (01 planes dies and clocks R32). -/
def spareSet : Nat := 0x500
/-- ENGSET_RST (17 bringup and management R539). -/
def engsetRst : Nat := 0x600
/-- RING_SEL (14 host rings R452). -/
def ringSel : Nat := 0x10000
/-- RING_SQB (14 host rings R431). -/
def ringSqb : Nat := 0x10008
/-- RING_CQB (14 host rings R431). -/
def ringCqb : Nat := 0x10010
/-- RING_CFG (14 host rings R431). -/
def ringCfg : Nat := 0x10018
/-- RING_STAT (14 host rings R435). -/
def ringStat : Nat := 0x10020
/-- EVR_BASE_e (14 host rings R452). -/
def evrBase (e : Nat) : Nat := 0x10100 + 0x20 * e
/-- EVR_CFG_e (14 host rings R452). -/
def evrCfg (e : Nat) : Nat := 0x10108 + 0x20 * e
/-- EVR_STAT_e (14 host rings R449). -/
def evrStat (e : Nat) : Nat := 0x10110 + 0x20 * e
/-- EVR_LOST_e (14 host rings R450). -/
def evrLost (e : Nat) : Nat := 0x10118 + 0x20 * e
/-- HDMA_BASE_w (14 host rings R429). -/
def hdmaBase (w : Nat) : Nat := 0x18000 + 0x10 * w
/-- HDMA_LIM_w (14 host rings R429). -/
def hdmaLim (w : Nat) : Nat := 0x18008 + 0x10 * w
/-- PART_CTL_q (13 partitions and time slices R406). -/
def partCtl (q : Nat) : Nat := 0x20000 + 0x100 * q
/-- PART_ENG_q (13 partitions and time slices R406). -/
def partEng (q : Nat) : Nat := 0x20008 + 0x100 * q
/-- PART_MEM_q (13 partitions and time slices R406). -/
def partMem (q : Nat) : Nat := 0x20010 + 0x100 * q
/-- PART_TILTH_q (13 partitions and time slices R406). -/
def partTilth (q : Nat) : Nat := 0x20018 + 0x100 * q
/-- PART_RING_q (13 partitions and time slices R406). -/
def partRing (q : Nat) : Nat := 0x20020 + 0x100 * q
/-- SLICE_CFG (13 partitions and time slices R409). -/
def sliceCfg : Nat := 0x20800
/-- SLICE_BASE (13 partitions and time slices R420). -/
def sliceBase : Nat := 0x20808
/-- SLICE_STAT (13 partitions and time slices R421). -/
def sliceStat : Nat := 0x20810
/-- SLICE_LATE (13 partitions and time slices R420). -/
def sliceLate : Nat := 0x20818
/-- ROLL_SEQT_q (11 rollouts and weight epochs R335). -/
def rollSeqt (q : Nat) : Nat := 0x24000 + 0x40 * q
/-- ROLL_ADM_q (11 rollouts and weight epochs R340). -/
def rollAdm (q : Nat) : Nat := 0x24008 + 0x40 * q
/-- ROLL_REQ_q (11 rollouts and weight epochs R340). -/
def rollReq (q : Nat) : Nat := 0x24010 + 0x40 * q
/-- ROLL_KV_q (11 rollouts and weight epochs R345). -/
def rollKv (q : Nat) : Nat := 0x24018 + 0x40 * q
/-- ROLL_KVN_q (11 rollouts and weight epochs R345). -/
def rollKvn (q : Nat) : Nat := 0x24020 + 0x40 * q
/-- ROLL_HEAD_q (11 rollouts and weight epochs R339). -/
def rollHead (q : Nat) : Nat := 0x24028 + 0x40 * q
/-- ROLL_OPERR_q (11 rollouts and weight epochs R338). -/
def rollOperr (q : Nat) : Nat := 0x24038 + 0x40 * q
/-- EPS_STAT_n (11 rollouts and weight epochs R361). -/
def epsStat (n : Nat) : Nat := 0x26000 + 0x20 * n
/-- EPS_ID_n (11 rollouts and weight epochs R361). -/
def epsId (n : Nat) : Nat := 0x26008 + 0x20 * n
/-- EPS_PROG_n (11 rollouts and weight epochs R365). -/
def epsProg (n : Nat) : Nat := 0x26010 + 0x20 * n
/-- RELAY_A_k (11 rollouts and weight epochs R365). -/
def relayA (k : Nat) : Nat := 0x26100 + 0x10 * k
/-- RELAY_B_k (11 rollouts and weight epochs R365). -/
def relayB (k : Nat) : Nat := 0x26108 + 0x10 * k
/-- LOAM_ROWMODE (09 memory tiers R285). -/
def loamRowmode : Nat := 0x40000
/-- SLOT_CTL (09 memory tiers R297). -/
def slotCtl : Nat := 0x40010
/-- PART_WIN_q (09 memory tiers R298). -/
def partWin (q : Nat) : Nat := 0x40100 + 0x8 * q
/-- LOAM_COR (09 memory tiers R308). -/
def loamCor : Nat := 0x40200
/-- LOAM_UNC (09 memory tiers R308). -/
def loamUnc : Nat := 0x40208
/-- CLAY_COR (09 memory tiers R308). -/
def clayCor : Nat := 0x40210
/-- CLAY_UNC (09 memory tiers R308). -/
def clayUnc : Nat := 0x40218
/-- SHALE_POISON (09 memory tiers R308). -/
def shalePoison : Nat := 0x40220
/-- SHALE_MAP_g (09 memory tiers R306). -/
def shaleMap (g : Nat) : Nat := 0x60000 + 0x8 * g
/-- PORT_CFG_n (12 network and tilth R366). -/
def portCfg (n : Nat) : Nat := 0x80000 + 0x40 * n
/-- LINK_STAT_n (12 network and tilth R369). -/
def linkStat (n : Nat) : Nat := 0x80008 + 0x40 * n
/-- PORT_NHMAC_n_s (12 network and tilth R369). -/
def portNhmac (n s : Nat) : Nat := 0x80010 + 0x40 * n + 8 * s
/-- RX_DROP_n (12 network and tilth R366). -/
def rxDrop (n : Nat) : Nat := 0x80020 + 0x40 * n
/-- SW_DROP_n (12 network and tilth R366). -/
def swDrop (n : Nat) : Nat := 0x80028 + 0x40 * n
/-- ECN_MARK_n (12 network and tilth R366). -/
def ecnMark (n : Nat) : Nat := 0x80030 + 0x40 * n
/-- FEC_UNC_n (12 network and tilth R366). -/
def fecUnc (n : Nat) : Nat := 0x80038 + 0x40 * n
/-- MODULE_ID (12 network and tilth R371). -/
def moduleId : Nat := 0x81000
/-- TILTH_CFG (12 network and tilth R370). -/
def tilthCfg : Nat := 0x81008
/-- TILTH_PREFIX (12 network and tilth R370). -/
def tilthPrefix : Nat := 0x81010
/-- SW_CTL (12 network and tilth R379). -/
def swCtl : Nat := 0x81020
/-- ECN_CFG (12 network and tilth R378). -/
def ecnCfg : Nat := 0x81028
/-- TILTH_RETX (12 network and tilth R366). -/
def tilthRetx : Nat := 0x81100
/-- TILTH_FAILOVER (12 network and tilth R366). -/
def tilthFailover : Nat := 0x81108
/-- TILTH_LOST (12 network and tilth R366). -/
def tilthLost : Nat := 0x81110
/-- TILTH_DUP (12 network and tilth R366). -/
def tilthDup : Nat := 0x81118
/-- TILTH_BADHDR (12 network and tilth R366). -/
def tilthBadhdr : Nat := 0x81120
/-- PTP_TIME (12 network and tilth R404). -/
def ptpTime : Nat := 0x81300
/-- HVP_CFG (12 network and tilth R373). -/
def hvpCfg : Nat := 0x81400
/-- HVP_RXDROP (19 setup register map R449). -/
def hvpRxdrop : Nat := 0x81408
/-- NBR_n (17 bringup and management R551). -/
def nbr (n : Nat) : Nat := 0x82000 + 0x8 * n
/-- CUFF_RXFAIL_u (07 control core and cuff units R255). -/
def cuffRxfail (u : Nat) : Nat := 0xbf000 + 0x8 * u
/-- MBX_CTL (15 trust and confidentiality R470). -/
def mbxCtl : Nat := 0xc0000
/-- MBX_STAT (15 trust and confidentiality R470). -/
def mbxStat : Nat := 0xc0008
/-- KEYSLOT_STAT (15 trust and confidentiality R458). -/
def keyslotStat : Nat := 0xc0040
/-- KEYSLOT_USE (15 trust and confidentiality R458). -/
def keyslotUse : Nat := 0xc0048
/-- SEAL_STAT_q (15 trust and confidentiality R486). -/
def sealStat (q : Nat) : Nat := 0xc0100 + 0x10 * q
/-- ROT_STAT_q (15 trust and confidentiality R478). -/
def rotStat (q : Nat) : Nat := 0xc0200 + 0x10 * q
/-- RPL_POLICY (16 faults and replay R522). -/
def rplPolicy : Nat := 0xd0000
/-- AUDIT_CTL (16 faults and replay R526). -/
def auditCtl : Nat := 0xd0008
/-- AUDIT_STAT (16 faults and replay R528). -/
def auditStat : Nat := 0xd0010
/-- ERR_CFG (16 faults and replay R534). -/
def errCfg : Nat := 0xd0018
/-- RPL_RUNS (16 faults and replay R522, R529). -/
def rplRuns : Nat := 0xd0040
/-- RPL_TRANSIENT (16 faults and replay R522, R529). -/
def rplTransient : Nat := 0xd0048
/-- RPL_SUSPECT (16 faults and replay R522, R529). -/
def rplSuspect : Nat := 0xd0050
/-- RPL_RETIRED (16 faults and replay R522, R529). -/
def rplRetired : Nat := 0xd0058
/-- RPL_UNRECOV (16 faults and replay R522, R529). -/
def rplUnrecov : Nat := 0xd0060
/-- AUDIT_RUNS (16 faults and replay R522, R529). -/
def auditRuns : Nat := 0xd0068
/-- AUDIT_MISMATCH (16 faults and replay R522, R529). -/
def auditMismatch : Nat := 0xd0070
/-- ERR_LOST (16 faults and replay R522, R529). -/
def errLost : Nat := 0xd0078
/-- ENG_HEALTH_p (16 faults and replay R537). -/
def engHealth (p : Nat) : Nat := 0xd0100 + 0x8 * p
/-- DGL_BASE_q (02 reproducibility contract R63). -/
def dglBase (q : Nat) : Nat := 0xd0800 + 0x40 * q
/-- DGL_SIZE_q (02 reproducibility contract R66). -/
def dglSize (q : Nat) : Nat := 0xd0808 + 0x40 * q
/-- DGL_HEAD_q (02 reproducibility contract R63). -/
def dglHead (q : Nat) : Nat := 0xd080c + 0x40 * q
/-- DGL_TAIL_q (02 reproducibility contract R65). -/
def dglTail (q : Nat) : Nat := 0xd0810 + 0x40 * q
/-- DGL_CTL_q (02 reproducibility contract R66). -/
def dglCtl (q : Nat) : Nat := 0xd0814 + 0x40 * q
/-- DGL_LOST_q (02 reproducibility contract R64). -/
def dglLost (q : Nat) : Nat := 0xd0818 + 0x40 * q
/-- TEL_PWR (17 bringup and management R563). -/
def telPwr : Nat := 0xe0000
/-- TEL_TEMP (17 bringup and management R563). -/
def telTemp : Nat := 0xe0008
/-- LOCKED_CLK (01 planes dies and clocks R42). -/
def lockedClk : Nat := 0xe0040
/-- HOLDUP_STAT (17 bringup and management R559). -/
def holdupStat : Nat := 0xe0048
/-- REFCLK_STAT (18 module electrical and mechanical R581). -/
def refclkStat : Nat := 0xe0050
/-- ARR_TSTAT_c (04 matrix arrays R128). -/
def arrTstat (p c : Nat) : Nat := 0x100400 + 0x10000 * p + 8 * c
/-- ARR_CHKFAIL (04 matrix arrays R138). -/
def arrChkfail (p : Nat) : Nat := 0x100440 + 0x10000 * p
/-- ARR_LOADFAIL (04 matrix arrays R139). -/
def arrLoadfail (p : Nat) : Nat := 0x100448 + 0x10000 * p
/-- ARR_INJ (04 matrix arrays R140). -/
def arrInj (p : Nat) : Nat := 0x100460 + 0x10000 * p
/-- VREG_SHARE_c (05 vector and reduction R143). -/
def vregShare (p c : Nat) : Nat := 0x100500 + 0x10000 * p + 8 * c
/-- VEC_FLAGS_c (05 vector and reduction R153). -/
def vecFlags (p c : Nat) : Nat := 0x100520 + 0x10000 * p + 8 * c
/-- VEC_RESFAIL (05 vector and reduction R175). -/
def vecResfail (p : Nat) : Nat := 0x100540 + 0x10000 * p
/-- VEC_PARFAIL (05 vector and reduction R175). -/
def vecParfail (p : Nat) : Nat := 0x100548 + 0x10000 * p
/-- RED_DUPFAIL (05 vector and reduction R175). -/
def redDupfail (p : Nat) : Nat := 0x100550 + 0x10000 * p
/-- RED_NFCNT_c (05 vector and reduction R167). -/
def redNfcnt (p c : Nat) : Nat := 0x100560 + 0x10000 * p + 8 * c
/-- SUMQ_STAT_c (05 vector and reduction R175). -/
def sumqStat (p c : Nat) : Nat := 0x100580 + 0x10000 * p + 8 * c
/-- VEC_INJ (05 vector and reduction R175). -/
def vecInj (p : Nat) : Nat := 0x1005a0 + 0x10000 * p
/-- IMEM_SHARE_c (06 engine instructions R190). -/
def imemShare (p c : Nat) : Nat := 0x100600 + 0x10000 * p + 8 * c
/-- CU_STAT_c (06 engine instructions R202). -/
def cuStat (p c : Nat) : Nat := 0x100620 + 0x10000 * p + 8 * c
/-- TOKQ_STAT_c (06 engine instructions R189). -/
def tokqStat (p c : Nat) : Nat := 0x100640 + 0x10000 * p + 8 * c
/-- TOKWD_c (06 engine instructions R188). -/
def tokwd (p c : Nat) : Nat := 0x100660 + 0x10000 * p + 8 * c
/-- CC_SHARE_c (07 control core and cuff units R228). -/
def ccShare (p c : Nat) : Nat := 0x100700 + 0x10000 * p + 8 * c
/-- CC_STAT_c (07 control core and cuff units R236). -/
def ccStat (p c : Nat) : Nat := 0x100720 + 0x10000 * p + 8 * c
/-- CC_LOCKFAIL (07 control core and cuff units R234). -/
def ccLockfail (p : Nat) : Nat := 0x100740 + 0x10000 * p
/-- CC_ECCCOR (07 control core and cuff units R234). -/
def ccEcccor (p : Nat) : Nat := 0x100748 + 0x10000 * p
/-- CUFF_ILFAIL (07 control core and cuff units R256). -/
def cuffIlfail (p : Nat) : Nat := 0x100750 + 0x10000 * p
/-- SAND_SHARE_c (09 memory tiers R281). -/
def sandShare (p c : Nat) : Nat := 0x100800 + 0x10000 * p + 8 * c
/-- SILT_SHARE_c (09 memory tiers R281). -/
def siltShare (p c : Nat) : Nat := 0x100820 + 0x10000 * p + 8 * c
/-- SRAM_ECCCOR (09 memory tiers R283). -/
def sramEcccor (p : Nat) : Nat := 0x100840 + 0x10000 * p
/-- SRAM_ECCUNC (09 memory tiers R283). -/
def sramEccunc (p : Nat) : Nat := 0x100848 + 0x10000 * p
/-- CTX_STAT_c (13 partitions and time slices R408). -/
def ctxStat (p c : Nat) : Nat := 0x100900 + 0x10000 * p + 8 * c
/-- SLICE_ENT_k (13 partitions and time slices R412). -/
def sliceEnt (p k : Nat) : Nat := 0x100940 + 0x10000 * p + 8 * k
end Reg

/-! ## Rows -/

/-- Rows of the map, part 1. -/
def regRows0 : List RegRow := [
  ⟨"MOD_IDENT", 0x0, 1, 0x0, 1, 0, true,
    [⟨"VENDOR", 15, 0, .ro, 0⟩, ⟨"PART", 31, 16, .ro, 0xA048⟩, ⟨"BIN", 33, 32, .ro, 0⟩, ⟨"STEPPING", 37, 34,
     .ro, 0⟩, ⟨"ENGINES", 43, 38, .ro, 0⟩, ⟨"SPARES", 46, 44, .ro, 0⟩, ⟨"LT2", 47, 47, .ro, 0⟩, ⟨"AEI", 55,
     48, .ro, 0x01⟩]⟩,
  ⟨"MOD_SERIAL", 0x8, 1, 0x0, 1, 0, true,
    [⟨"SERIAL", 63, 0, .ro, 0⟩]⟩,
  ⟨"DET_CTL", 0x80, 1, 0x0, 1, 0, false,
    [⟨"STRICT", 0, 0, .rw, 1⟩, ⟨"LOCK", 1, 1, .w1s, 0⟩]⟩,
  ⟨"NUMPROF", 0x100, 1, 0x0, 1, 0, true,
    [⟨"PROFILE", 7, 0, .ro, 0x01⟩, ⟨"RND", 11, 8, .ro, 0x1⟩, ⟨"GEN", 15, 12, .ro, 0x1⟩, ⟨"TLIB_MINOR", 23, 16,
     .ro, 0⟩, ⟨"TLIB_MAJOR", 31, 24, .ro, 0⟩, ⟨"SUBNORM", 33, 32, .ro, 0⟩, ⟨"STRICT", 34, 34, .ro, 1⟩]⟩,
  ⟨"NPST_CTL", 0x180, 1, 0x0, 1, 0, false,
    [⟨"START", 0, 0, .wo, 0⟩, ⟨"SPARES", 1, 1, .rw, 0⟩, ⟨"ABORT", 2, 2, .wo, 0⟩]⟩,
  ⟨"NPST_STAT", 0x188, 1, 0x0, 1, 0, false,
    [⟨"BUSY", 0, 0, .ro, 0⟩, ⟨"DONE", 1, 1, .w1c, 0⟩, ⟨"FAIL", 2, 2, .ro, 0⟩, ⟨"ABORTED", 3, 3, .ro, 0⟩,
     ⟨"TLIB_MINOR", 23, 16, .ro, 0⟩, ⟨"TLIB_MAJOR", 31, 24, .ro, 0⟩]⟩,
  ⟨"NPST_FAIL", 0x190, 1, 0x0, 1, 0, true,
    [⟨"ENGINE", 51, 0, .ro, 0⟩]⟩,
  ⟨"NPST_FIRST", 0x198, 1, 0x0, 1, 0, true,
    [⟨"RECORD", 20, 0, .ro, 0⟩, ⟨"PHYS", 29, 24, .ro, 0⟩, ⟨"OP", 47, 32, .ro, 0⟩]⟩,
  ⟨"BOOT_STAT", 0x200, 1, 0x0, 1, 0, true,
    [⟨"STAGE", 3, 0, .ro, 0⟩, ⟨"KIND", 5, 4, .ro, 0⟩, ⟨"FWCOPY", 6, 6, .ro, 0⟩, ⟨"UNPLACED", 7, 7, .ro, 0⟩,
     ⟨"CAUSE", 15, 8, .ro, 0⟩, ⟨"TRIP", 16, 16, .w1c, 0⟩, ⟨"PORTS_PENDING", 17, 17, .ro, 0⟩, ⟨"MS", 63, 32,
     .ro, 0⟩]⟩,
  ⟨"LE_MAP_n", 0x400, 48, 0x4, 1, 0, false,
    [⟨"PHYS", 5, 0, .ro, 0⟩, ⟨"DIE", 8, 8, .ro, 0⟩, ⟨"REMAPPED", 9, 9, .ro, 0⟩]⟩,
  ⟨"SPARE_SET", 0x500, 1, 0x0, 1, 0, true,
    [⟨"SPARE", 51, 0, .ro, 0⟩]⟩,
  ⟨"ENGSET_RST", 0x600, 1, 0x0, 1, 0, true,
    [⟨"MASK", 51, 0, .rw, 0⟩, ⟨"GO", 52, 52, .wo, 0⟩, ⟨"BUSY", 53, 53, .ro, 0⟩, ⟨"FAILED", 54, 54, .ro, 0⟩]⟩,
  ⟨"RING_SEL", 0x10000, 1, 0x0, 1, 0, false,
    [⟨"RING", 11, 0, .rw, 0⟩]⟩,
  ⟨"RING_SQB", 0x10008, 1, 0x0, 1, 0, true,
    [⟨"BASE", 63, 12, .rw, 0⟩]⟩,
  ⟨"RING_CQB", 0x10010, 1, 0x0, 1, 0, true,
    [⟨"BASE", 63, 12, .rw, 0⟩]⟩,
  ⟨"RING_CFG", 0x10018, 1, 0x0, 1, 0, true,
    [⟨"EN", 0, 0, .rw, 0⟩, ⟨"ADMIN", 1, 1, .rw, 0⟩, ⟨"HVP", 2, 2, .rw, 0⟩, ⟨"LOG2N", 7, 3, .rw, 0⟩, ⟨"IVEC",
     16, 8, .rw, 0⟩, ⟨"ICNT", 24, 17, .rw, 0⟩, ⟨"ITIME", 32, 25, .rw, 0⟩, ⟨"PART", 35, 33, .ro, 0⟩]⟩,
  ⟨"RING_STAT", 0x10020, 1, 0x0, 1, 0, true,
    [⟨"HEAD", 15, 0, .ro, 0⟩, ⟨"TAIL", 31, 16, .ro, 0⟩, ⟨"CQTAIL", 47, 32, .ro, 0⟩, ⟨"ERR", 48, 48, .w1c, 0⟩,
     ⟨"PHASE", 49, 49, .ro, 0⟩]⟩,
  ⟨"EVR_BASE_e", 0x10100, 9, 0x20, 1, 0, true,
    [⟨"BASE", 63, 12, .rw, 0⟩]⟩]

/-- Rows of the map, part 2. -/
def regRows1 : List RegRow := [
  ⟨"EVR_CFG_e", 0x10108, 9, 0x20, 1, 0, false,
    [⟨"EN", 0, 0, .rw, 0⟩, ⟨"LOG2N", 5, 1, .rw, 0⟩, ⟨"IVEC", 14, 6, .rw, 0⟩]⟩,
  ⟨"EVR_STAT_e", 0x10110, 9, 0x20, 1, 0, false,
    [⟨"NEXT", 15, 0, .ro, 0⟩, ⟨"PHASE", 16, 16, .ro, 0⟩]⟩,
  ⟨"EVR_LOST_e", 0x10118, 9, 0x20, 1, 0, true,
    [⟨"COUNT", 63, 0, .rsat, 0⟩]⟩,
  ⟨"HDMA_BASE_w", 0x18000, 256, 0x10, 1, 0, true,
    [⟨"BASE", 63, 12, .ro, 0⟩]⟩,
  ⟨"HDMA_LIM_w", 0x18008, 256, 0x10, 1, 0, true,
    [⟨"EN", 0, 0, .ro, 0⟩, ⟨"RD", 1, 1, .ro, 0⟩, ⟨"WR", 2, 2, .ro, 0⟩, ⟨"PART", 5, 3, .ro, 0⟩, ⟨"MOD", 6, 6,
     .ro, 0⟩, ⟨"LIMIT", 63, 12, .ro, 0⟩]⟩,
  ⟨"PART_CTL_q", 0x20000, 8, 0x100, 1, 0, false,
    [⟨"EN", 0, 0, .rw, 0⟩, ⟨"RESET", 1, 1, .wo, 0⟩, ⟨"RESETTING", 2, 2, .ro, 0⟩, ⟨"SEALED", 3, 3, .ro, 0⟩,
     ⟨"RESIDENT", 11, 4, .ro, 0⟩]⟩,
  ⟨"PART_ENG_q", 0x20008, 8, 0x100, 1, 0, true,
    [⟨"LE", 47, 0, .rw, 0⟩]⟩,
  ⟨"PART_MEM_q", 0x20010, 8, 0x100, 1, 0, true,
    [⟨"LBASE", 9, 0, .rw, 0⟩, ⟨"LCOUNT", 19, 10, .rw, 0⟩, ⟨"CBASE", 27, 20, .rw, 0⟩, ⟨"CCOUNT", 36, 28, .rw,
     0⟩]⟩,
  ⟨"PART_TILTH_q", 0x20018, 8, 0x100, 1, 0, true,
    [⟨"TBASE", 19, 0, .rw, 0⟩, ⟨"TCOUNT", 40, 20, .rw, 0⟩]⟩,
  ⟨"PART_RING_q", 0x20020, 8, 0x100, 1, 0, false,
    [⟨"RBASE", 11, 0, .rw, 0⟩, ⟨"RCOUNT", 24, 12, .rw, 0⟩]⟩,
  ⟨"SLICE_CFG", 0x20800, 1, 0x0, 1, 0, true,
    [⟨"EN", 0, 0, .rw, 0⟩, ⟨"PERIOD", 17, 1, .rw, 0⟩, ⟨"RUNMAX", 35, 18, .rw, 0⟩]⟩,
  ⟨"SLICE_BASE", 0x20808, 1, 0x0, 1, 0, true,
    [⟨"BASE", 63, 0, .rw, 0⟩]⟩,
  ⟨"SLICE_STAT", 0x20810, 1, 0x0, 1, 0, true,
    [⟨"LAG", 39, 0, .ro, 0⟩, ⟨"OVERRUN", 40, 40, .w1c, 0⟩]⟩,
  ⟨"SLICE_LATE", 0x20818, 1, 0x0, 1, 0, true,
    [⟨"COUNT", 63, 0, .rsat, 0⟩]⟩,
  ⟨"ROLL_SEQT_q", 0x24000, 8, 0x40, 1, 0, true,
    [⟨"BASE", 39, 16, .rw, 0⟩, ⟨"ENTRIES", 56, 40, .rw, 0⟩, ⟨"EN", 57, 57, .rw, 0⟩]⟩,
  ⟨"ROLL_ADM_q", 0x24008, 8, 0x40, 1, 0, true,
    [⟨"LE", 5, 0, .rw, 0⟩, ⟨"CTX", 7, 6, .rw, 0⟩, ⟨"INTERVAL", 31, 16, .rw, 1⟩]⟩,
  ⟨"ROLL_REQ_q", 0x24010, 8, 0x40, 1, 0, true,
    [⟨"BASE", 39, 12, .rw, 0⟩, ⟨"LOG2N", 44, 40, .rw, 0⟩]⟩,
  ⟨"ROLL_KV_q", 0x24018, 8, 0x40, 1, 0, true,
    [⟨"LBASE", 23, 0, .rw, 0⟩, ⟨"CBASE", 47, 24, .rw, 0⟩]⟩]

/-- Rows of the map, part 3. -/
def regRows2 : List RegRow := [
  ⟨"ROLL_KVN_q", 0x24020, 8, 0x40, 1, 0, false,
    [⟨"PPE", 11, 0, .rw, 0⟩, ⟨"LPE", 23, 12, .rw, 0⟩]⟩,
  ⟨"ROLL_HEAD_q", 0x24028, 8, 0x40, 1, 0, true,
    [⟨"HEAD", 63, 0, .ro, 0⟩]⟩,
  ⟨"ROLL_OPERR_q", 0x24038, 8, 0x40, 1, 0, true,
    [⟨"COUNT", 63, 0, .rsat, 0⟩]⟩,
  ⟨"EPS_STAT_n", 0x26000, 4, 0x20, 1, 0, true,
    [⟨"STATE", 2, 0, .ro, 0⟩, ⟨"OWNER", 5, 3, .ro, 0⟩, ⟨"REFCNT", 27, 8, .ro, 0⟩, ⟨"TAGFAIL", 28, 28, .w1c,
     0⟩]⟩,
  ⟨"EPS_ID_n", 0x26008, 4, 0x20, 1, 0, true,
    [⟨"EPOCH_ID", 63, 0, .ro, 0⟩]⟩,
  ⟨"EPS_PROG_n", 0x26010, 4, 0x20, 1, 0, true,
    [⟨"VERIFIED", 31, 0, .ro, 0⟩, ⟨"EXPECTED", 63, 32, .ro, 0⟩]⟩,
  ⟨"RELAY_A_k", 0x26100, 8, 0x10, 1, 0, true,
    [⟨"VALID", 0, 0, .rw, 0⟩, ⟨"LAST", 1, 1, .rw, 0⟩, ⟨"SLOT", 3, 2, .rw, 0⟩, ⟨"IN", 27, 8, .rw, 0⟩, ⟨"OUT",
     47, 28, .rw, 0⟩]⟩,
  ⟨"RELAY_B_k", 0x26108, 8, 0x10, 1, 0, true,
    [⟨"KEEP_LO", 31, 0, .rw, 0⟩, ⟨"KEEP_HI", 63, 32, .rw, 0⟩]⟩,
  ⟨"LOAM_ROWMODE", 0x40000, 1, 0x0, 1, 0, true,
    [⟨"LOCAL", 47, 0, .rw, 0⟩]⟩,
  ⟨"SLOT_CTL", 0x40010, 1, 0x0, 1, 0, false,
    [⟨"SWITCH", 0, 0, .wo, 0⟩, ⟨"PENDING", 1, 1, .ro, 0⟩, ⟨"ACTIVE", 2, 2, .ro, 0⟩]⟩,
  ⟨"PART_WIN_q", 0x40100, 8, 0x8, 1, 0, false,
    [⟨"START", 12, 0, .rw, 0⟩, ⟨"END", 28, 16, .rw, 0⟩]⟩,
  ⟨"LOAM_COR", 0x40200, 1, 0x0, 1, 0, true,
    [⟨"COUNT", 63, 0, .rsat, 0⟩]⟩,
  ⟨"LOAM_UNC", 0x40208, 1, 0x0, 1, 0, true,
    [⟨"COUNT", 63, 0, .rsat, 0⟩]⟩,
  ⟨"CLAY_COR", 0x40210, 1, 0x0, 1, 0, true,
    [⟨"COUNT", 63, 0, .rsat, 0⟩]⟩,
  ⟨"CLAY_UNC", 0x40218, 1, 0x0, 1, 0, true,
    [⟨"COUNT", 63, 0, .rsat, 0⟩]⟩,
  ⟨"SHALE_POISON", 0x40220, 1, 0x0, 1, 0, true,
    [⟨"COUNT", 63, 0, .rsat, 0⟩]⟩,
  ⟨"SHALE_MAP_g", 0x60000, 2048, 0x8, 1, 0, true,
    [⟨"VALID", 0, 0, .rw, 0⟩, ⟨"BACK", 1, 1, .rw, 0⟩, ⟨"PORT", 2, 2, .rw, 0⟩, ⟨"GRAN", 12, 3, .rw, 0⟩,
     ⟨"PART", 15, 13, .rw, 0⟩]⟩,
  ⟨"PORT_CFG_n", 0x80000, 16, 0x40, 1, 0, false,
    [⟨"MODE", 1, 0, .rw, 0⟩, ⟨"DEGRADE", 2, 2, .rw, 1⟩, ⟨"MEDIA", 4, 3, .rw, 0⟩, ⟨"TXCAP", 13, 8, .rw, 63⟩]⟩]

/-- Rows of the map, part 4. -/
def regRows3 : List RegRow := [
  ⟨"LINK_STAT_n", 0x80008, 16, 0x40, 1, 0, false,
    [⟨"UP", 0, 0, .ro, 0⟩, ⟨"WIDTH0", 2, 1, .ro, 0⟩, ⟨"WIDTH1", 4, 3, .ro, 0⟩, ⟨"GOOD", 8, 5, .ro, 0⟩,
     ⟨"DEGRADED", 9, 9, .ro, 0⟩, ⟨"CHANGED", 10, 10, .w1c, 0⟩]⟩,
  ⟨"PORT_NHMAC_n_s", 0x80010, 16, 0x40, 2, 8, true,
    [⟨"NHMAC", 47, 0, .rw, 0⟩]⟩,
  ⟨"RX_DROP_n", 0x80020, 16, 0x40, 1, 0, true,
    [⟨"COUNT", 63, 0, .rsat, 0⟩]⟩,
  ⟨"SW_DROP_n", 0x80028, 16, 0x40, 1, 0, true,
    [⟨"COUNT", 63, 0, .rsat, 0⟩]⟩,
  ⟨"ECN_MARK_n", 0x80030, 16, 0x40, 1, 0, true,
    [⟨"COUNT", 63, 0, .rsat, 0⟩]⟩,
  ⟨"FEC_UNC_n", 0x80038, 16, 0x40, 1, 0, true,
    [⟨"COUNT", 63, 0, .rsat, 0⟩]⟩,
  ⟨"MODULE_ID", 0x81000, 1, 0x0, 1, 0, false,
    [⟨"ID", 16, 0, .ro, 0⟩, ⟨"VALID", 17, 17, .ro, 0⟩]⟩,
  ⟨"TILTH_CFG", 0x81008, 1, 0x0, 1, 0, true,
    [⟨"UDP", 15, 0, .rw, 0xA000⟩, ⟨"DSCP", 21, 16, .rw, 0⟩, ⟨"VLAN_EN", 22, 22, .rw, 0⟩, ⟨"VID", 34, 23, .rw,
     0⟩, ⟨"PCP", 37, 35, .rw, 0⟩]⟩,
  ⟨"TILTH_PREFIX", 0x81010, 1, 0x0, 1, 0, true,
    [⟨"PREFIX", 63, 0, .rw, 0⟩]⟩,
  ⟨"SW_CTL", 0x81020, 1, 0x0, 1, 0, false,
    [⟨"SWITCH", 0, 0, .wo, 0⟩, ⟨"PENDING", 1, 1, .ro, 0⟩, ⟨"ACTIVE", 2, 2, .ro, 0⟩, ⟨"GSHIFT", 5, 3, .rw, 3⟩]⟩,
  ⟨"ECN_CFG", 0x81028, 1, 0x0, 1, 0, false,
    [⟨"K", 15, 0, .rw, 64⟩, ⟨"EN", 16, 16, .rw, 1⟩]⟩,
  ⟨"TILTH_RETX", 0x81100, 1, 0x0, 1, 0, true,
    [⟨"COUNT", 63, 0, .rsat, 0⟩]⟩,
  ⟨"TILTH_FAILOVER", 0x81108, 1, 0x0, 1, 0, true,
    [⟨"COUNT", 63, 0, .rsat, 0⟩]⟩,
  ⟨"TILTH_LOST", 0x81110, 1, 0x0, 1, 0, true,
    [⟨"COUNT", 63, 0, .rsat, 0⟩]⟩,
  ⟨"TILTH_DUP", 0x81118, 1, 0x0, 1, 0, true,
    [⟨"COUNT", 63, 0, .rsat, 0⟩]⟩,
  ⟨"TILTH_BADHDR", 0x81120, 1, 0x0, 1, 0, true,
    [⟨"COUNT", 63, 0, .rsat, 0⟩]⟩,
  ⟨"PTP_TIME", 0x81300, 1, 0x0, 1, 0, true,
    [⟨"TIME", 63, 0, .ro, 0⟩]⟩,
  ⟨"HVP_CFG", 0x81400, 1, 0x0, 1, 0, false,
    [⟨"EN", 0, 0, .rw, 0⟩, ⟨"BCAST", 1, 1, .rw, 0⟩]⟩]

/-- Rows of the map, part 5. -/
def regRows4 : List RegRow := [
  ⟨"HVP_RXDROP", 0x81408, 1, 0x0, 1, 0, true,
    [⟨"COUNT", 63, 0, .rsat, 0⟩]⟩,
  ⟨"NBR_n", 0x82000, 16, 0x8, 1, 0, true,
    [⟨"NMOD", 16, 0, .ro, 0⟩, ⟨"NVALID", 17, 17, .ro, 0⟩, ⟨"NPORT", 21, 18, .ro, 0⟩, ⟨"NSUB", 22, 22, .ro, 0⟩,
     ⟨"HEARD", 23, 23, .ro, 0⟩, ⟨"MATCH", 25, 24, .ro, 0⟩, ⟨"NSER", 63, 32, .ro, 0⟩]⟩,
  ⟨"CUFF_RXFAIL_u", 0xbf000, 4, 0x8, 1, 0, true,
    [⟨"COUNT", 63, 0, .rsat, 0⟩]⟩,
  ⟨"MBX_CTL", 0xc0000, 1, 0x0, 1, 0, false,
    [⟨"GO", 0, 0, .wo, 0⟩]⟩,
  ⟨"MBX_STAT", 0xc0008, 1, 0x0, 1, 0, false,
    [⟨"BUSY", 0, 0, .ro, 0⟩, ⟨"DONE", 1, 1, .w1c, 0⟩, ⟨"RESULT", 15, 8, .ro, 0⟩]⟩,
  ⟨"KEYSLOT_STAT", 0xc0040, 1, 0x0, 1, 0, true,
    [⟨"LOADED", 63, 0, .ro, 0⟩]⟩,
  ⟨"KEYSLOT_USE", 0xc0048, 1, 0x0, 1, 0, true,
    [⟨"INUSE", 63, 0, .ro, 0⟩]⟩,
  ⟨"SEAL_STAT_q", 0xc0100, 8, 0x10, 1, 0, false,
    [⟨"SEALED", 0, 0, .ro, 0⟩, ⟨"CLEARING", 1, 1, .ro, 0⟩, ⟨"IMGALG", 2, 2, .ro, 0⟩]⟩,
  ⟨"ROT_STAT_q", 0xc0200, 8, 0x10, 1, 0, true,
    [⟨"ACTIVE", 0, 0, .ro, 0⟩, ⟨"GEN", 1, 1, .ro, 0⟩, ⟨"CLAY_DONE", 2, 2, .ro, 0⟩, ⟨"CXL_DONE", 3, 3, .ro, 0⟩,
     ⟨"PAGES_LEFT", 36, 4, .ro, 0⟩]⟩,
  ⟨"RPL_POLICY", 0xd0000, 1, 0x0, 1, 0, false,
    [⟨"NOCLK", 0, 0, .ro, 0⟩, ⟨"CRUNG", 3, 1, .ro, 0⟩]⟩,
  ⟨"AUDIT_CTL", 0xd0008, 1, 0x0, 1, 0, true,
    [⟨"EN", 0, 0, .rw, 0⟩, ⟨"PARTS", 8, 1, .rw, 0⟩, ⟨"INTERVAL", 41, 10, .rw, 0⟩]⟩,
  ⟨"AUDIT_STAT", 0xd0010, 1, 0x0, 1, 0, false,
    [⟨"NOSPARE", 0, 0, .ro, 0⟩, ⟨"BEHIND", 1, 1, .w1c, 0⟩, ⟨"NEXTLE", 7, 2, .ro, 0⟩, ⟨"NEXTCTX", 9, 8, .ro,
     0⟩, ⟨"RECHECK", 10, 10, .ro, 0⟩]⟩,
  ⟨"ERR_CFG", 0xd0018, 1, 0x0, 1, 0, false,
    [⟨"HOSTCOPY", 7, 0, .rw, 0⟩]⟩,
  ⟨"RPL_RUNS", 0xd0040, 1, 0x0, 1, 0, true,
    [⟨"COUNT", 63, 0, .rsat, 0⟩]⟩,
  ⟨"RPL_TRANSIENT", 0xd0048, 1, 0x0, 1, 0, true,
    [⟨"COUNT", 63, 0, .rsat, 0⟩]⟩,
  ⟨"RPL_SUSPECT", 0xd0050, 1, 0x0, 1, 0, true,
    [⟨"COUNT", 63, 0, .rsat, 0⟩]⟩,
  ⟨"RPL_RETIRED", 0xd0058, 1, 0x0, 1, 0, true,
    [⟨"COUNT", 63, 0, .rsat, 0⟩]⟩,
  ⟨"RPL_UNRECOV", 0xd0060, 1, 0x0, 1, 0, true,
    [⟨"COUNT", 63, 0, .rsat, 0⟩]⟩]

/-- Rows of the map, part 6. -/
def regRows5 : List RegRow := [
  ⟨"AUDIT_RUNS", 0xd0068, 1, 0x0, 1, 0, true,
    [⟨"COUNT", 63, 0, .rsat, 0⟩]⟩,
  ⟨"AUDIT_MISMATCH", 0xd0070, 1, 0x0, 1, 0, true,
    [⟨"COUNT", 63, 0, .rsat, 0⟩]⟩,
  ⟨"ERR_LOST", 0xd0078, 1, 0x0, 1, 0, true,
    [⟨"COUNT", 63, 0, .rsat, 0⟩]⟩,
  ⟨"ENG_HEALTH_p", 0xd0100, 52, 0x8, 1, 0, false,
    [⟨"STATE", 2, 0, .ro, 0⟩, ⟨"VRUNG", 5, 3, .ro, 0⟩, ⟨"LASTCLASS", 15, 8, .ro, 0⟩]⟩,
  ⟨"DGL_BASE_q", 0xd0800, 8, 0x40, 1, 0, true,
    [⟨"BASE", 43, 12, .rw, 0⟩]⟩,
  ⟨"DGL_SIZE_q", 0xd0808, 8, 0x40, 1, 0, false,
    [⟨"LOG2N", 4, 0, .rw, 0⟩]⟩,
  ⟨"DGL_HEAD_q", 0xd080c, 8, 0x40, 1, 0, false,
    [⟨"HEAD", 31, 0, .ro, 0⟩]⟩,
  ⟨"DGL_TAIL_q", 0xd0810, 8, 0x40, 1, 0, false,
    [⟨"TAIL", 31, 0, .rw, 0⟩]⟩,
  ⟨"DGL_CTL_q", 0xd0814, 8, 0x40, 1, 0, false,
    [⟨"EN", 0, 0, .rw, 0⟩, ⟨"BUCKET_EN", 1, 1, .rw, 0⟩, ⟨"BUCKET_SHIFT", 13, 8, .rw, 0⟩]⟩,
  ⟨"DGL_LOST_q", 0xd0818, 8, 0x40, 1, 0, true,
    [⟨"LOST", 63, 0, .rsat, 0⟩]⟩,
  ⟨"TEL_PWR", 0xe0000, 1, 0x0, 1, 0, true,
    [⟨"PIN", 15, 0, .ro, 0⟩, ⟨"VIN", 31, 16, .ro, 0⟩, ⟨"PAVG", 47, 32, .ro, 0⟩]⟩,
  ⟨"TEL_TEMP", 0xe0008, 1, 0x0, 1, 0, true,
    [⟨"TJ_C0", 7, 0, .ro, 0⟩, ⟨"TJ_C1", 15, 8, .ro, 0⟩, ⟨"TJ_P", 23, 16, .ro, 0⟩, ⟨"T_HBM", 31, 24, .ro, 0⟩,
     ⟨"T_LP", 39, 32, .ro, 0⟩, ⟨"T_IN", 51, 40, .ro, 0⟩, ⟨"T_OUT", 63, 52, .ro, 0⟩]⟩,
  ⟨"LOCKED_CLK", 0xe0040, 1, 0x0, 1, 0, false,
    [⟨"CORE_MHZ", 11, 0, .ro, 0⟩, ⟨"FLOOR_MHZ", 27, 16, .ro, 750⟩, ⟨"CAP_LIMIT", 28, 28, .ro, 0⟩,
     ⟨"THERM_LIMIT", 29, 29, .ro, 0⟩, ⟨"FAULT_LIMIT", 30, 30, .ro, 0⟩, ⟨"STEPPING", 31, 31, .ro, 0⟩]⟩,
  ⟨"HOLDUP_STAT", 0xe0048, 1, 0x0, 1, 0, false,
    [⟨"EAVAIL", 15, 0, .ro, 0⟩, ⟨"DEFER", 16, 16, .ro, 0⟩, ⟨"LOW", 17, 17, .ro, 0⟩]⟩,
  ⟨"REFCLK_STAT", 0xe0050, 1, 0x0, 1, 0, false,
    [⟨"CORE_LOST", 0, 0, .w1c, 0⟩, ⟨"ETH_LOST", 1, 1, .w1c, 0⟩, ⟨"PCIE_LOST", 2, 2, .w1c, 0⟩, ⟨"CXL0_LOST", 3,
     3, .w1c, 0⟩, ⟨"CXL1_LOST", 4, 4, .w1c, 0⟩, ⟨"HOLDOVER", 5, 5, .ro, 0⟩]⟩,
  ⟨"ARR_TSTAT_c", 0x100400, 52, 0x10000, 4, 8, false,
    [⟨"INV", 0, 0, .w1c, 0⟩, ⟨"OVF", 1, 1, .w1c, 0⟩, ⟨"UNF", 2, 2, .w1c, 0⟩, ⟨"INX", 3, 3, .w1c, 0⟩,
     ⟨"NONFIN", 4, 4, .w1c, 0⟩, ⟨"MXWIN", 5, 5, .w1c, 0⟩, ⟨"MXSINGLE", 6, 6, .w1c, 0⟩]⟩,
  ⟨"ARR_CHKFAIL", 0x100440, 52, 0x10000, 1, 0, true,
    [⟨"COUNT", 63, 0, .rsat, 0⟩]⟩,
  ⟨"ARR_LOADFAIL", 0x100448, 52, 0x10000, 1, 0, true,
    [⟨"COUNT", 63, 0, .rsat, 0⟩]⟩]

/-- Rows of the map, part 7. -/
def regRows6 : List RegRow := [
  ⟨"ARR_INJ", 0x100460, 52, 0x10000, 1, 0, true,
    [⟨"ARM", 0, 0, .rw, 0⟩, ⟨"ARRAY", 2, 1, .rw, 0⟩, ⟨"ROW", 11, 3, .rw, 0⟩, ⟨"COL", 20, 12, .rw, 0⟩, ⟨"BIT",
     26, 21, .rw, 0⟩, ⟨"FIRED", 27, 27, .w1c, 0⟩]⟩,
  ⟨"VREG_SHARE_c", 0x100500, 52, 0x10000, 4, 8, false,
    [⟨"BASE", 5, 0, .rw, 0⟩, ⟨"COUNT", 14, 8, .rw, 0⟩]⟩,
  ⟨"VEC_FLAGS_c", 0x100520, 52, 0x10000, 4, 8, false,
    [⟨"INV", 0, 0, .w1c, 0⟩, ⟨"OVF", 1, 1, .w1c, 0⟩, ⟨"UNF", 2, 2, .w1c, 0⟩, ⟨"INX", 3, 3, .w1c, 0⟩]⟩,
  ⟨"VEC_RESFAIL", 0x100540, 52, 0x10000, 1, 0, true,
    [⟨"COUNT", 63, 0, .rsat, 0⟩]⟩,
  ⟨"VEC_PARFAIL", 0x100548, 52, 0x10000, 1, 0, true,
    [⟨"COUNT", 63, 0, .rsat, 0⟩]⟩,
  ⟨"RED_DUPFAIL", 0x100550, 52, 0x10000, 1, 0, true,
    [⟨"COUNT", 63, 0, .rsat, 0⟩]⟩,
  ⟨"RED_NFCNT_c", 0x100560, 52, 0x10000, 4, 8, true,
    [⟨"COUNT", 63, 0, .rsat, 0⟩]⟩,
  ⟨"SUMQ_STAT_c", 0x100580, 52, 0x10000, 4, 8, false,
    [⟨"DEPTH", 5, 0, .ro, 0⟩, ⟨"HELD", 6, 6, .w1c, 0⟩]⟩,
  ⟨"VEC_INJ", 0x1005a0, 52, 0x10000, 1, 0, true,
    [⟨"ARM", 0, 0, .rw, 0⟩, ⟨"TARGET", 2, 1, .rw, 0⟩, ⟨"LANE", 11, 3, .rw, 0⟩, ⟨"BIT", 16, 12, .rw, 0⟩,
     ⟨"FIRED", 17, 17, .w1c, 0⟩]⟩,
  ⟨"IMEM_SHARE_c", 0x100600, 52, 0x10000, 4, 8, false,
    [⟨"BASE", 3, 0, .rw, 0⟩, ⟨"SIZE", 8, 4, .rw, 0⟩, ⟨"SRC", 9, 9, .rw, 0⟩, ⟨"LT2", 10, 10, .rw, 0⟩]⟩,
  ⟨"CU_STAT_c", 0x100620, 52, 0x10000, 4, 8, true,
    [⟨"PC", 12, 0, .ro, 0⟩, ⟨"BANK", 13, 13, .ro, 0⟩, ⟨"STATE_A", 15, 14, .ro, 0⟩, ⟨"STATE_B", 17, 16, .ro,
     0⟩, ⟨"DEPTH", 20, 18, .ro, 0⟩, ⟨"HELD", 21, 21, .ro, 0⟩, ⟨"FAULT", 28, 24, .ro, 0⟩, ⟨"FPC", 44, 32, .ro,
     0⟩, ⟨"FBANK", 45, 45, .ro, 0⟩, ⟨"FCLASS", 48, 46, .ro, 0⟩]⟩,
  ⟨"TOKQ_STAT_c", 0x100640, 52, 0x10000, 4, 8, true,
    [⟨"DEPTHn", 41, 0, .ro, 0⟩]⟩,
  ⟨"TOKWD_c", 0x100660, 52, 0x10000, 4, 8, false,
    [⟨"LOCAL_LIM", 15, 0, .rw, 0x0400⟩, ⟨"FREE_LIM", 31, 16, .rw, 0x0800⟩]⟩,
  ⟨"CC_SHARE_c", 0x100700, 52, 0x10000, 4, 8, false,
    [⟨"DBASE", 3, 0, .rw, 0⟩, ⟨"DSIZE", 8, 4, .rw, 0⟩, ⟨"IBASE", 12, 9, .rw, 0⟩, ⟨"ISIZE", 17, 13, .rw, 0⟩]⟩,
  ⟨"CC_STAT_c", 0x100720, 52, 0x10000, 4, 8, true,
    [⟨"PC", 14, 0, .ro, 0⟩, ⟨"WAIT", 18, 16, .ro, 0⟩, ⟨"JOURNAL", 30, 20, .ro, 0⟩, ⟨"FPC", 46, 32, .ro, 0⟩]⟩,
  ⟨"CC_LOCKFAIL", 0x100740, 52, 0x10000, 1, 0, true,
    [⟨"COUNT", 63, 0, .rsat, 0⟩]⟩,
  ⟨"CC_ECCCOR", 0x100748, 52, 0x10000, 1, 0, true,
    [⟨"COUNT", 63, 0, .rsat, 0⟩]⟩,
  ⟨"CUFF_ILFAIL", 0x100750, 52, 0x10000, 1, 0, true,
    [⟨"COUNT", 63, 0, .rsat, 0⟩]⟩]

/-- Rows of the map, part 8. -/
def regRows7 : List RegRow := [
  ⟨"SAND_SHARE_c", 0x100800, 52, 0x10000, 4, 8, false,
    [⟨"BASE", 11, 0, .rw, 0⟩, ⟨"SIZE", 23, 12, .rw, 0⟩]⟩,
  ⟨"SILT_SHARE_c", 0x100820, 52, 0x10000, 4, 8, false,
    [⟨"BASE", 12, 0, .rw, 0⟩, ⟨"ROWS", 25, 13, .rw, 0⟩]⟩,
  ⟨"SRAM_ECCCOR", 0x100840, 52, 0x10000, 1, 0, true,
    [⟨"COUNT", 63, 0, .rsat, 0⟩]⟩,
  ⟨"SRAM_ECCUNC", 0x100848, 52, 0x10000, 1, 0, true,
    [⟨"COUNT", 63, 0, .rsat, 0⟩]⟩,
  ⟨"CTX_STAT_c", 0x100900, 52, 0x10000, 4, 8, false,
    [⟨"STATE", 2, 0, .ro, 0⟩, ⟨"PART", 5, 3, .ro, 0⟩, ⟨"BLOCK", 6, 6, .ro, 0⟩]⟩,
  ⟨"SLICE_ENT_k", 0x100940, 52, 0x10000, 8, 8, false,
    [⟨"VALID", 0, 0, .rw, 0⟩, ⟨"CTX", 2, 1, .rw, 0⟩, ⟨"RUNOUT", 3, 3, .rw, 0⟩, ⟨"IDLE", 4, 4, .rw, 0⟩,
     ⟨"START", 21, 5, .rw, 0⟩]⟩]

/-- The whole map. -/
def regRows : List RegRow := regRows0 ++ regRows1 ++ regRows2 ++ regRows3 ++ regRows4 ++ regRows5 ++ regRows6 ++ regRows7

/-- A register an offset falls in: its row, its indices, its own offset, and the byte within it. -/
structure RegAt where
  row : RegRow
  i : Nat
  j : Nat
  off : Nat
  byte : Nat
  deriving DecidableEq, Repr

/-- Bytes of a register. -/
def RegRow.size (r : RegRow) : Nat := if r.wide then 8 else 4

/-- The register of a row that holds an offset. -/
def RegRow.at? (r : RegRow) (off : Nat) : Option RegAt :=
  if off < r.base then none
  else
    let d := off - r.base
    let i := if r.n1 ≤ 1 then 0 else d / r.s1
    let d := d - r.s1 * i
    let j := if r.n2 ≤ 1 then 0 else d / r.s2
    let b := d - r.s2 * j
    if i < r.n1 && j < r.n2 && b < r.size then some ⟨r, i, j, off - b, b⟩ else none

/-- The first row that answers. -/
def findReg : List RegRow → Nat → Option RegAt
  | [], _ => none
  | r :: rs, off => match r.at? off with
    | some x => some x
    | none => findReg rs off

/-- The register at a BAR0 offset, if chapter 19 lists one there (R590). (DEDUCED, log entry 39.) -/
def regAt (off : Nat) : Option RegAt := findReg regRows off

/-- The field's bits of a value, in place. -/
def Field.mask (f : Field) : Nat := (2 ^ (f.hi + 1 - f.lo) - 1) * 2 ^ f.lo

/-- The reset value that the field table of a row gives. -/
def RegRow.resetWord (r : RegRow) : Nat := r.fields.foldl (fun a f => a + f.reset * 2 ^ f.lo) 0

/-- What a write of v does to the stored value x under the access codes of R16 to R18: RW and W1S and W1C fields change,
every other bit keeps its value. -/
def writeFields (fs : List Field) (x v : Nat) : Nat :=
  fs.foldl (fun a f =>
    let old := bits x f.hi f.lo
    let new := bits v f.hi f.lo
    let val := match f.acc with
      | .rw => new
      | .w1c => old - (old &&& new)
      | .w1s => old ||| new
      | _ => old
    a + val * 2 ^ f.lo) 0

end Sys2Proof.Machine
end

