-- ==== Sys2Proof/Machine/Ops.lean ====
section
/-!
DEFINITION. The named operations over the state: registers and counters (R16 to R19), error records (R24, R532), events
(R450), the engines, contexts and their shares (R143, R190, R229, R281), memory accesses, token queues (R184), the held
ranges (R273), and the program fault (R224).
-/

namespace Sys2Proof.Machine

/-- The answer of a command. -/
abbrev Out := Host.Outcome State Fault Refusal

/-! ## Fused values and registers -/

/-- The spares that the fuses choose: at each step the highest good engine of the die with more good engines left, die 1
on a tie, until 48 remain (R31). -/
def spareMask : Nat → BitVec 52 → BitVec 52
  | 0, _ => 0
  | n + 1, good =>
    let d0 := (List.range 26).filter (fun i => good.getLsbD i)
    let d1 := ((List.range 26).map (· + 26)).filter (fun i => good.getLsbD i)
    if d0.length + d1.length ≤ 48 then 0
    else
      let p := if d1.length < d0.length then d0.getLastD 0 else d1.getLastD 0
      let bitp : BitVec 52 := BitVec.ofNat 52 (2 ^ p)
      bitp ||| spareMask n (good &&& ~~~ bitp)

/-- The spares of a part. (DESIGN CHOICE, log entry 6.) -/
def Fuses.spares (f : Fuses) : BitVec 52 := spareMask 4 f.good

/-- The engines that logical numbers 0 to 47 go to, in ascending physical index (R31). -/
def Fuses.enabled (f : Fuses) : List Nat :=
  (List.range 52).filter (fun i => f.good.getLsbD i && !f.spares.getLsbD i)

/-- The bin's maximum core clock in MHz (R1). -/
def Fuses.maxMhz (f : Fuses) : Nat := if f.binS then 1300 else 1500

/-- The reset value of the register at a BAR0 offset: the value of its field table, the fused values and the values
that depend on the context place. (DESIGN CHOICE, log entry 6.) -/
def resetReg (f : Fuses) (off : Nat) : W64 :=
  match regAt off with
  | none => 0
  | some r =>
    BitVec.ofNat 64 (
      if off = Reg.modIdent then
        f.vendor % 2 ^ 16 + 0xA048 * 2 ^ 16 + f.binS.toNat * 2 ^ 32 + (if f.steppingC0 then 2 else 1) * 2 ^ 34 +
        f.enabled.length * 2 ^ 38 + ((List.range 52).filter (fun i => f.spares.getLsbD i)).length * 2 ^ 44 +
        f.steppingC0.toNat * 2 ^ 47 + 2 ^ 48
      else if off = Reg.modSerial then f.serial.toNat
      else if off = Reg.spareSet then f.spares.toNat
      else if off = Reg.lockedClk then f.maxMhz + 750 * 2 ^ 16
      else if r.row.base = Reg.leMap 0 then
        match f.enabled[r.i]? with
        | some p => p + (if 26 ≤ p then 2 ^ 8 else 0)
        | none => 63
      else if r.row.base = Reg.engHealth 0 then
        (if !f.good.getLsbD r.i then 5 else if f.spares.getLsbD r.i then 1 else 0)
      else if r.row.base = Reg.vregShare 0 0 then (if r.j = 0 then 64 * 2 ^ 8 else 0)
      else if r.row.base = Reg.imemShare 0 0 then (if r.j = 0 then 16 * 2 ^ 4 else 0)
      else if r.row.base = Reg.ccShare 0 0 then (if r.j = 0 then 16 * 2 ^ 4 + 16 * 2 ^ 13 else 0)
      else if r.row.base = Reg.sandShare 0 0 then (if r.j = 0 then 3072 * 2 ^ 12 else 0)
      else if r.row.base = Reg.siltShare 0 0 then (if r.j = 0 then 4096 * 2 ^ 13 else 0)
      else r.row.resetWord)

/-- The stored value of a register. -/
def State.reg (s : State) (off : Nat) : W64 := Tab.get (resetReg s.fuse off) s.regs off

/-- The register set to a value. -/
def State.setReg (s : State) (off : Nat) (v : W64) : State := { s with regs := s.regs.set off v }

/-- Bits [hi:lo] of a register. -/
def State.fld (s : State) (off hi lo : Nat) : Nat := bits (s.reg off).toNat hi lo

/-- One bit of a register. -/
def State.flag (s : State) (off i : Nat) : Bool := (s.reg off).getLsbD i

/-- A register with bits [hi:lo] set to v. -/
def State.setFld (s : State) (off hi lo v : Nat) : State :=
  let old := s.reg off
  let m : W64 := BitVec.ofNat 64 ((2 ^ (hi + 1 - lo) - 1) * 2 ^ lo)
  s.setReg off ((old &&& ~~~ m) ||| (BitVec.ofNat 64 (v % 2 ^ (hi + 1 - lo) * 2 ^ lo)))

/-- A register with the bits of a mask set. -/
def State.orReg (s : State) (off : Nat) (m : Nat) : State := s.setReg off (s.reg off ||| BitVec.ofNat 64 m)

/-! ## Messages, records and events -/

/-- A message to the outside. (DESIGN CHOICE, log entry 100.) -/
def State.emit (s : State) (m : Msg) : State := { s with out := s.out ++ [m] }

/-- The record buffers of R24: each engine is a block, and the other blocks are numbered after them: the setup registers,
the network, the memory tiers, the replay controller, the management side. R24 does not list the blocks. (DESIGN CHOICE,
log entry 103.) -/
def blkSetup : Nat := 52
def blkNet : Nat := 53
def blkMem : Nat := 54
def blkReplay : Nat := 55
def blkMgmt : Nat := 56

/-- A record goes to its block's buffer, or is discarded and counted when the buffer holds 8 (R24). -/
def State.sendRec (s : State) (blk : Nat) (r : ErrRec) : State :=
  let b := Tab.get [] s.recBuf blk
  if b.length < 8 then { s with recBuf := s.recBuf.set blk (b ++ [r]) }
  else
    let n : W64 := Tab.get 0 s.recLost blk
    { s with recLost := s.recLost.set blk (if n = BitVec.allOnes 64 then n else n + 1) }

/-- The engine whose window an offset lies in. -/
def windowOf (off : Nat) : Option Nat := if 0x100000 ≤ off ∧ off < 0x440000 then some ((off - 0x100000) / 0x10000) else none

/-- An RSAT counter raised by n: it stays at all ones, and reaching it sends a record of class 0x18 (R17, R535). -/
def State.bump (s : State) (off n : Nat) : State :=
  let v := (s.reg off).toNat
  if v = 2 ^ 64 - 1 ∨ n = 0 then s
  else if v + n < 2 ^ 64 - 1 then s.setReg off (BitVec.ofNat 64 (v + n))
  else
    let s := s.setReg off (BitVec.allOnes 64)
    s.sendRec (match windowOf off with | some p => p | none => blkMem)
      { cls := 0x18, phys := windowOf off,
        detail := leBytes 4 off ++ (match windowOf off with | some p => leBytes 4 p | none => []) }

/-- A host page range lies in one enabled window that grants the direction to partition q, or to event ring 8 when
there is no partition (R430). -/
def State.inWindow (s : State) (q : Option Nat) (write : Bool) (addr len : Nat) : Bool :=
  (List.range 256).any (fun w =>
    let base := (s.reg (Reg.hdmaBase w)).toNat / 4096
    let lim := (s.reg (Reg.hdmaLim w)).toNat
    bit lim 0 && bit lim (if write then 2 else 1) &&
    (match q with | some q => !bit lim 6 && bits lim 5 3 == q | none => bit lim 6) &&
    decide (base ≤ addr / 4096) && decide ((addr + len - 1) / 4096 ≤ lim / 4096))

/-- The function that carries partition q: its VF when that is enabled, and PF0 otherwise (R428). -/
def State.funcOf (s : State) (q : Nat) : Nat := if (Tab.get {} s.parts q).vf then q + 1 else 0

/-- The mask bit of an MSI-X vector; a vector is masked until software unmasks it. (PRESUMED, log entry 10.) -/
def State.msixMasked (s : State) (f vec : Nat) : Bool := (Tab.get 1 s.msixTab (2 ^ 16 * f + 4 * vec + 3)).getLsbD 0

/-- An MSI-X interrupt of a function: none for a vector above its table, the pending bit for a masked one (R426, R428,
R448). (PRESUMED, log entry 10.) -/
def State.interrupt (s : State) (f vec : Nat) : State :=
  if (if f = 0 then 512 else 64) ≤ vec then s
  else if s.msixMasked f vec then (if s.msixPend.contains (f, vec) then s else { s with msixPend := s.msixPend ++ [(f, vec)] })
  else s.emit (.msix f vec)

/-- The function on whose IDE stream the host traffic of partition q travels: that of a sealed partition (R482). -/
def State.ideOf (s : State) (q : Nat) : Option Nat := if s.flag (Reg.partCtl q) 3 then some (q + 1) else none

/-- Device time as an entry for partition q's event ring carries it (R492). -/
def State.eventTime (s : State) (e : Nat) : Nat :=
  if e < 8 ∧ (Tab.get {} s.parts e).vf = true then s.time.toNat / 4096 * 4096 else s.time.toNat

/-- An event for event ring e: a 32-byte entry written to the host with its interrupt, or discarded and counted when the
ring is disabled or full (R450). (DEDUCED, log entry 63.) -/
def State.event (s : State) (e kind : Nat) (detail : Bytes) : State :=
  let cfg := (s.reg (Reg.evrCfg e)).toNat
  let n := 2 ^ bits cfg 5 1
  let r := Tab.get {} s.ev e
  let next := s.fld (Reg.evrStat e) 15 0
  let phase := s.fld (Reg.evrStat e) 16 16
  let addr := (s.reg (Reg.evrBase e)).toNat + 32 * next
  let s1 := { s with ev := s.ev.set e { r with count := r.count + 1 } }
  if bit cfg 0 && decide (r.used < n) && s.inWindow (if e = 8 then none else some e) true addr 32 then
    let data := leBytes 2 kind ++ leBytes 1 (if e = 8 then 0 else e) ++ leBytes 1 phase ++ leBytes 4 r.count.toNat ++
      leBytes 8 (s.eventTime e) ++ (detail ++ List.replicate 16 0).take 16
    let s1 := { s1 with ev := s1.ev.set e { used := r.used + 1, count := r.count + 1 } }
    let s1 := s1.setReg (Reg.evrStat e)
      (BitVec.ofNat 64 (if next + 1 = n then 2 ^ 16 * (1 - phase) else next + 1 + 2 ^ 16 * phase))
    (s1.emit (.hostWrite (BitVec.ofNat 64 addr) data (if e < 8 then s.ideOf e else none))).interrupt (if e = 8 then 0 else s.funcOf e) (bits cfg 14 6)
  else s1.bump (Reg.evrLost e) 1

/-! ## Engines and contexts -/

/-- Physical engine p. -/
def State.engine (s : State) (p : Nat) : Engine := Tab.get {} s.eng p
/-- Physical engine p replaced. -/
def State.setEngine (s : State) (p : Nat) (e : Engine) : State := { s with eng := s.eng.set p e }
/-- Physical engine p changed. -/
def State.modEngine (s : State) (p : Nat) (f : Engine → Engine) : State := s.setEngine p (f (s.engine p))
/-- Context place c of an engine. -/
def Engine.at (e : Engine) (c : Nat) : Ctx := Tab.get {} e.ctx c
/-- Context place c of an engine replaced. -/
def Engine.setCtx (e : Engine) (c : Nat) (x : Ctx) : Engine := { e with ctx := e.ctx.set c x }
/-- Context place c of engine p. -/
def State.ctx (s : State) (p c : Nat) : Ctx := (s.engine p).at c
/-- Context place c of engine p replaced. -/
def State.setCtx (s : State) (p c : Nat) (x : Ctx) : State := s.modEngine p (·.setCtx c x)
/-- Context place c of engine p changed. -/
def State.modCtx (s : State) (p c : Nat) (f : Ctx → Ctx) : State := s.setCtx p c (f (s.ctx p c))
/-- The recorded part of a context changed. -/
def State.modCur (s : State) (p c : Nat) (f : Rec → Rec) : State := s.modCtx p c (fun x => { x with cur := f x.cur })

/-- A place that holds a context (R408); the shadow of an audit is none of a partition's contexts (R526). -/
def Ctx.resident (x : Ctx) : Bool := x.st != .free && !x.shadow

/-- The logical number a physical engine holds (R32). -/
def State.leOf (s : State) (p : Nat) : Option Nat :=
  (List.range 48).find? (fun n => s.fld (Reg.leMap n) 5 0 == p)

/-- The physical engine that holds a logical number. PHYS of a number that no engine holds is 63. (DESIGN CHOICE, log entry
128.) -/
def State.physOf (s : State) (n : Nat) : Option Nat :=
  if n < 48 ∧ s.fld (Reg.leMap n) 5 0 < 52 then some (s.fld (Reg.leMap n) 5 0) else none

/-- No engine holds logical number n any more: LE_MAP_n names none (R32, R597). (DESIGN CHOICE, log entry 128.) -/
def State.freeLe (s : State) (n : Nat) : State := (s.setFld (Reg.leMap n) 5 0 63).setFld (Reg.leMap n) 8 8 0

/-- C-die of a physical engine (R31). -/
def dieOf (p : Nat) : Nat := p / 26

/-- The resident contexts of a partition, as (engine, place) (R406). -/
def State.residents (s : State) (q : Nat) : List (Nat × Nat) :=
  (List.range 52).flatMap (fun p => (List.range 4).filterMap (fun c =>
    if (s.ctx p c).resident && (s.ctx p c).part == q then some (p, c) else none))

/-- A context of any partition is resident (R48, R102). -/
def State.anyResident (s : State) : Bool :=
  (List.range 52).any (fun p => (List.range 4).any (fun c => (s.ctx p c).resident))

/-- Partition q is enabled (R407). -/
def State.partOn (s : State) (q : Nat) : Bool := s.flag (Reg.partCtl q) 0

/-! ## Shares -/

/-- A context's Sand share in bytes: base and size (R281). -/
def State.sandShare (s : State) (p c : Nat) : Nat × Nat :=
  (4096 * s.fld (Reg.sandShare p c) 11 0, 4096 * s.fld (Reg.sandShare p c) 23 12)
/-- A context's Silt share in rows (R281). -/
def State.siltShare (s : State) (p c : Nat) : Nat × Nat :=
  (s.fld (Reg.siltShare p c) 12 0, s.fld (Reg.siltShare p c) 25 13)
/-- A context's instruction region in words (R190). -/
def State.imemShare (s : State) (p c : Nat) : Nat × Nat :=
  (512 * s.fld (Reg.imemShare p c) 3 0, 512 * s.fld (Reg.imemShare p c) 8 4)
/-- A context's vector registers (R143). -/
def State.vregShare (s : State) (p c : Nat) : Nat × Nat :=
  (s.fld (Reg.vregShare p c) 5 0, s.fld (Reg.vregShare p c) 14 8)
/-- A context's control-core data share in bytes (R228). -/
def State.ccDShare (s : State) (p c : Nat) : Nat × Nat :=
  (4096 * s.fld (Reg.ccShare p c) 3 0, 4096 * s.fld (Reg.ccShare p c) 8 4)
/-- A context's control-core instruction share in bytes (R228). -/
def State.ccIShare (s : State) (p c : Nat) : Nat × Nat :=
  (2048 * s.fld (Reg.ccShare p c) 12 9, 2048 * s.fld (Reg.ccShare p c) 17 13)

/-- A Sand range inside the context's share. -/
def State.sandOk (s : State) (p c off n : Nat) : Bool := decide (off + n ≤ (s.sandShare p c).2)
/-- A range of Silt bytes inside the context's share. -/
def State.siltOk (s : State) (p c off n : Nat) : Bool := decide (off + n ≤ 3072 * (s.siltShare p c).2)

/-- n bytes of a context's Sand share. -/
def State.sandBytes (s : State) (p c off n : Nat) : Bytes :=
  Mem.bytes (s.engine p).sand ((s.sandShare p c).1 + off) n
/-- The spare whose shadow takes what lands in the context's shares from elsewhere: while the audited segment runs (R527). -/
def State.mirror (s : State) (p c : Nat) : Option Nat :=
  match s.audit with
  | some a => if a.begun && a.p == p && a.c == c && a.orig.isNone then some a.spare else none
  | none => none

/-- n bytes of a context's Silt share. -/
def State.siltBytes (s : State) (p c off n : Nat) : Bytes :=
  Mem.bytes (s.engine p).silt (3072 * (s.siltShare p c).1 + off) n
/-- Bytes stored to a context's Sand share. -/
def State.sandStore (s : State) (p c off : Nat) (bs : Bytes) : State :=
  s.modEngine p (fun e => { e with sand := e.sand.store ((s.sandShare p c).1 + off) bs })
/-- Bytes stored to a context's Silt share. -/
def State.siltStore (s : State) (p c off : Nat) (bs : Bytes) : State :=
  s.modEngine p (fun e => { e with silt := e.silt.store (3072 * (s.siltShare p c).1 + off) bs })

/-- Bytes that land in a context's Sand share from elsewhere, and in that of its shadow (R527). -/
def State.sandLand (s : State) (p c off : Nat) (bs : Bytes) : State :=
  let t := s.sandStore p c off bs
  match s.mirror p c with | some q => t.sandStore q c off bs | none => t
/-- Bytes that land in a context's Silt share from elsewhere, and in that of its shadow (R527). -/
def State.siltLand (s : State) (p c off : Nat) (bs : Bytes) : State :=
  let t := s.siltStore p c off bs
  match s.mirror p c with | some q => t.siltStore q c off bs | none => t

/-- Vector register vi of a context (R143). -/
def State.vreg (s : State) (p c i : Nat) : VReg := Tab.get 0 (s.engine p).vreg ((s.vregShare p c).1 + i)
/-- Vector register vi of a context set. -/
def State.setVreg (s : State) (p c i : Nat) (v : VReg) : State :=
  s.modEngine p (fun e => { e with vreg := e.vreg.set ((s.vregShare p c).1 + i) v })

/-- Predicate register VPi; VP0 reads as all ones (R146). -/
def Rec.vpred (r : Rec) (i : Nat) : Pred := if i = 0 then BitVec.allOnes 512 else Tab.get 0 r.vp i

/-- Word w of the copy of the context's region that is active. -/
def State.imemWord (s : State) (p c w : Nat) : W64 :=
  let e := s.engine p
  Tab.get 0 (if (e.at c).cur.bankB then e.imemB else e.imemA) ((s.imemShare p c).1 + w)

/-! ## Held ranges (R271 to R273) -/

/-- Two byte ranges share a byte. -/
def overlaps (a n b m : Nat) : Bool := decide (a < b + m) && decide (b < a + n) && decide (0 < n) && decide (0 < m)

/-- A range of a tier touches a held range of the context: tiers 0 and 1 by the byte offset in its share, 2 to 4 by the
offset of the global address. -/
def Ctx.holds (x : Ctx) (tier base len : Nat) : Bool :=
  x.hranges.any (fun h => h.tier == tier && overlaps h.base h.len base len)

/-! ## Tokens (R182 to R184) -/

/-- The tokens of a class queue. -/
def Ctx.tokens (x : Ctx) (cls : Nat) : List Tok := Tab.get [] x.queue cls

/-- A token enters its class queue, or its producer holds it when the queue holds 32 or holds one already (R184). -/
def Ctx.deliver (x : Ctx) (pr : Producer) (t : Tok) : Ctx :=
  if t = 0 then x
  else
    let k := tokClass t
    let h := Tab.get [] x.heldTok k
    if (x.tokens k).length < 32 ∧ h = [] then { x with queue := x.queue.set k (x.tokens k ++ [t]) }
    else { x with heldTok := x.heldTok.set k (h ++ [(t, pr)]) }

/-- A token enters a context's queue. -/
def State.deliver (s : State) (p c : Nat) (pr : Producer) (t : Tok) : State := s.modCtx p c (·.deliver pr t)

/-- A producer's token waits in front of this context's queues. -/
def Ctx.keeps (x : Ctx) (pr : Producer) : Bool := x.heldTok.any (fun e => e.2.any (fun k => k.2 == pr))

/-- A producer holds a token that a full queue has not taken, and with it the data path behind the token (R184). (DESIGN
CHOICE, log entry 102.) -/
def State.stuck (s : State) (pr : Producer) : Bool := s.eng.any (fun e => e.2.ctx.any (fun k => k.2.keeps pr))

/-- The head of a class queue is popped; what was popped since the commit is kept for a replay (R505). A NET token of a
provisional transfer makes the context hold provisional input, and its CONFIRM, with identifier bit 11 clear, ends that
(R516). -/
def Ctx.pop (x : Ctx) (cls : Nat) : Ctx :=
  match x.tokens cls with
  | [] => x
  | t :: ts =>
    let x := { x with queue := x.queue.set cls ts, popped := x.popped.set cls (Tab.get [] x.popped cls ++ [t]) }
    let x := if cls = 4 then
        { x with hostTags := x.hostTags.drop 1, hostPopped := x.hostPopped ++ x.hostTags.take 1 } else x
    if cls = 3 then
      let g := x.netTags.headD {}
      { x with netTags := x.netTags.drop 1, netPopped := x.netPopped ++ [g]
               provHeld := if g.prov then x.provHeld ++ [(t, g)] else x.provHeld }
    else if cls = 6 ∧ tokId t < 2048 then { x with provHeld := x.provHeld.filter (fun u => tokId u.1 % 2048 != tokId t) }
    else x

/-! ## Faults -/

/-- An outbound transfer of the segment that has begun moving data: it is completed even when its segment is stopped for a
replay (R509). A provisional D.SEND is retracted in its place (R515). (DEDUCED, log entry 22.) -/
def Xfer.begun (t : Xfer) : Bool :=
  t.ordinal.isSome && !t.suppressed && !t.prov && (decide (0 < t.row) || decide (0 < t.off) || decide (0 < t.chunk))

/-- A transfer of an earlier segment whose ENGINE token is to come: its data have landed, and its segment has committed
(R219). -/
def Xfer.owed (t : Xfer) : Bool := t.kind == .put && t.ordinal.isNone && tokClass t.tok == 1

/-- What a fault discards of a context's segment: its accumulators of digests, its posted operations, its transfers
that have not completed, its pending counts, summaries, fills and feeds (R224, R506). A stream that a ring brings belongs to no
segment and goes on. A transfer that is completed all the
same adds nothing to the accumulators of the run that follows (R61). (DEDUCED, log entry 22.) -/
def Ctx.discard (x : Ctx) : Ctx :=
  { x with digs := [], seqOps := [], shaleOut := []
           xfers := (x.xfers.filter Xfer.begun).map (fun t => { t with dead := true }) ++ x.xfers.filter Xfer.owed
           mPend := none, cmpPend := [], sumHeld := [], commit := none, gi := 0, oldV := [], oldP := none, qa := [], qaDup := []
           nfc := 0, audit := 0, auditOrd := 0
           stream := x.ringStream.bind (fun _ => x.stream), iq := (x.ringStream.map (fun _ => x.iq)).getD []
           cur := { x.cur with feed := none, fill := none } }

/-- What a fault discards of the context's work in the engine's units: its rows in the arrays, its tokens to come and
its checks. A load that has begun runs to its end (R120). (DEDUCED, log entry 19.) -/
def Engine.discard (e : Engine) (c : Nat) : Engine :=
  { e with
    flights := e.flights.filter (fun f => f.op.ctx != c)
    mDone := e.mDone.filter (fun o => o.ctx != c)
    vchk := e.vchk.filter (fun k => k.ctx != c) }

/-- A completion of a ring's descriptor: its status and detail, written to the host by COMPLETION_WRITE (R445). -/
def State.complete (s : State) (r idx status : Nat) (detail : W64) : State :=
  let g := Tab.get {} s.rings r
  { s with rings := s.rings.set r { g with fetched := g.fetched.map (fun d =>
      if d.idx = idx ∧ d.status = none then { d with status := some (status, detail) } else d) } }

/-- The completion that a HOST token carries is written with DISCARDED (R447). -/
def State.discardTag (reason : Nat) (s : State) : HostTag → State
  | .ack r i => s.complete r i 0x0F (BitVec.ofNat 64 reason)
  | _ => s

/-- A HOST token without the completion it carried. -/
def HostTag.freed : HostTag → HostTag
  | .ack _ _ => .plain
  | t => t

/-- The completions that wait for a context's segment are written with DISCARDED: reason 1 a halt, 2 an unload, 3 a
partition reset (R447). -/
def State.discardHeld (s : State) (p c reason : Nat) : State :=
  let x := s.ctx p c
  ((x.hostPopped ++ x.hostTags).foldl (State.discardTag reason) s).modCtx p c (fun x => { x with
    hostTags := x.hostTags.map HostTag.freed, hostPopped := x.hostPopped.map HostTag.freed })

/-- The shadow of an audit leaves its spare. -/
def State.endShadow (s : State) (a : AuditRun) : State :=
  if (s.ctx a.spare a.c).shadow then s.modEngine a.spare (fun e => { e with ctx := e.ctx.del a.c, holder := none, active := none }) else s

/-- An audit of the context, or one whose shadow it is, is dropped, and its engine is audited next (R528). -/
def State.dropAudit (s : State) (p c : Nat) : State :=
  match s.audit with
  | some a => if (a.p = p ∨ a.spare = p) ∧ a.c = c then ({ s with audit := none }.endShadow a).setFld Reg.auditStat 7 2 a.le else s
  | none => s

/-- The control-core data memory with a context's journal written back to its share (R237). -/
def State.journalMem (s : State) (p c : Nat) : Mem :=
  (s.ctx p c).journal.foldl (fun m (w, v) => m.store ((s.ccDShare p c).1 + w) (leBytes 4 v.toNat)) (s.engine p).ccD

/-- The journal of a context written back to its data share (R237). -/
def State.journalBack (s : State) (p c : Nat) : State := s.modEngine p (fun e => { e with ccD := s.journalMem p c })

/-- A context stops for good: its segment's outputs are discarded and the journal is written back, as for a replay; it is HALTED,
and its held completions are written as DISCARDED; a transfer of the segment that has begun goes no further (R224, R276, R506,
R513). A shadow ends with its audit. (DEDUCED, log entry 116.) -/
def State.halt (s : State) (p c : Nat) : State :=
  if (s.ctx p c).shadow then s.dropAudit p c else
  let s := ((s.dropAudit p c).journalBack p c).modEngine p (·.discard c)
  (s.modCtx p c (fun x => { x.discard with
    xfers := x.xfers.filter Xfer.owed, journal := [], st := .halted, held := false, rep := .idle, stalls := false, stalled := false })).discardHeld p c 1

/-- The header fields of a record of context c on engine p (R532). (DESIGN CHOICE, log entry 64.) -/
def State.ctxRec (s : State) (p c cls : Nat) (detail : Bytes) : ErrRec :=
  { cls := cls, part := some (s.ctx p c).part, phys := some p, le := s.leOf p, ctx := some c, run := (s.ctx p c).run,
    flags := if (s.ctx p c).rep = .running then 2 else 0, step := (s.ctx p c).cur.stepNo, detail := detail }

/-- A program fault (R224): a shadow ends with its audit (log entry 37); otherwise the context halts, its segment's outputs are
discarded, CU_STAT records the code, the group address, the copy that held the instruction and the class, a record of class 0x10
and an event go out. `fpc` is 0 for a control-core fault. -/
def State.faultIn (s : State) (p c code cls : Nat) (fpc : Nat) (bankB : Bool) : State :=
  if (s.ctx p c).shadow then s.dropAudit p c else
  let s := s.sendRec p (s.ctxRec p c 0x10 (leBytes 4 code ++ leBytes 4 fpc))
  let s := s.event (s.ctx p c).part 0x0001
    (leBytes 4 ((s.leOf p).getD 0xFF) ++ leBytes 4 c ++ leBytes 4 code ++ leBytes 4 fpc)
  (s.halt p c).modCtx p c (fun x => { x with fault := code, fpc := fpc, fbankB := bankB, fclass := cls })

/-- A program fault of an instruction in the copy that is active (R224). -/
def State.fault (s : State) (p c code cls : Nat) (fpc : Nat) : State :=
  s.faultIn p c code cls fpc (s.ctx p c).cur.bankB

/-- The fault codes of R224. -/
def fMalformed : Nat := 0x01
def fVreg : Nat := 0x02
def fBound : Nat := 0x03
def fHeld : Nat := 0x04
def fActive : Nat := 0x05
def fExpired : Nat := 0x06
def fSlot : Nat := 0x07
def fOrder : Nat := 0x08
def fProv : Nat := 0x09

/-- A context stops for a replay of its segment (R506 to R508). One that is being unloaded or reset has stopped for good, and
nothing is run again for it. A shadow ends with its audit. -/
def State.stopForReplay (s : State) (p c : Nat) : State :=
  if (s.ctx p c).shadow then s.dropAudit p c else
  let s := (s.dropAudit p c).modEngine p (·.discard c)
  s.modCtx p c (fun x => if x.going then x.discard else
    { x.discard with rep := .restoring, held := false, stalls := true, stalled := false })

/-- The counter of a check's class (R139, R138, R175, R234, R283, R308). -/
def classCounter (p cls : Nat) : Option Nat :=
  match cls with
  | 0x02 => some (Reg.arrChkfail p)
  | 0x03 => some (Reg.arrLoadfail p)
  | 0x04 => some (Reg.vecResfail p)
  | 0x05 => some (Reg.vecParfail p)
  | 0x06 => some (Reg.redDupfail p)
  | 0x07 => some (Reg.ccLockfail p)
  | 0x08 => some (Reg.sramEccunc p)
  | 0x0A => some Reg.loamUnc
  | 0x0B => some Reg.clayUnc
  | 0x0C => some Reg.shalePoison
  | _ => none

/-- One record of two failures: the lower class with its fields, and the other class (R504). -/
def ErrRec.joined (r : ErrRec) (k : Second) : ErrRec :=
  if k.cls.toNat < r.cls then { r with cls := k.cls.toNat, detail := k.detail, second := r.cls }
  else if r.cls < k.cls.toNat then { r with second := k.cls.toNat } else r

/-- The second failure of a joint record is counted: that of another class than the first (R504). -/
def State.countSecond (s : State) (p cls : Nat) (also : Option Second) : State :=
  match also with
  | some k => (match classCounter p k.cls.toNat with | some o => if k.cls.toNat = cls then s else s.bump o 1 | none => s)
  | none => s

/-- The one record of a check failure of context c and of another one in the same cc (R504). -/
def State.failRec (s : State) (p c cls : Nat) (detail : Bytes) (also : Option Second) : ErrRec :=
  match also with | some k => (s.ctxRec p c cls detail).joined k | none => s.ctxRec p c cls detail

/-- A check failure that is replayed, with another one of the context in the same cc if there is one (R138, R175, R234,
R504): one record, the engine's last class, and the context stops for restoration. The caller counts the first failure,
and the second is counted here. A tier-class fault does not count toward the engine's health (R512). -/
def State.replayBoth (s : State) (p c cls : Nat) (detail : Bytes) (addr : Option Nat) (also : Option Second) : State :=
  let r := s.failRec p c cls detail also
  let s := s.countSecond p cls also
  let engineClass := decide (2 ≤ r.cls) && decide (r.cls ≤ 8)
  let s := s.sendRec p r
  let s := if engineClass then s.setFld (Reg.engHealth p) 15 8 r.cls else s
  if (s.ctx p c).shadow then s.stopForReplay p c else
  (s.stopForReplay p c).modCtx p c (fun x => { x with
    repFault := some ⟨r.cls, addr⟩
    sameAddr := if addr.isSome && (match x.repFault with | some f => f.addr == addr | none => false) then x.sameAddr + 1 else 1 })

/-- A check failure by itself. -/
def State.replayFault (s : State) (p c cls : Nat) (detail : Bytes) (addr : Option Nat) : State :=
  s.replayBoth p c cls detail addr none

/-- Bytes of a protected word: 64 bits of Sand, a 96-bit partial of Silt. -/
def sramWord (tier : Nat) : Nat := if tier = 1 then 12 else 8

/-- The k-th protected word of a range of a tier, going round after the last: its address. -/
def sramAt (tier a n k : Nat) : Nat :=
  let w := sramWord tier
  a / w * w + w * (k % max 1 (ceilDiv (a % w + n) w))

/-- A read of the context's Sand (tier 0) or Silt (tier 1) that meets an error (R283): a corrected one counts; an
uncorrectable one delivers nothing and stops the context, for a replay, or for good when the word is held. `at_` gives the
share-relative address of the word that failed. -/
def State.sramRead {α : Type} (s : State) (p c tier : Nat) (at_ : Nat → Nat) (err : ReadErr) (bad eff : State → α) : α :=
  match err with
  | .ok | .linkCrc _ => eff s
  | .corrected => eff (s.bump (Reg.sramEcccor p) 1)
  | .uncorrectable k also =>
    let s := s.bump (Reg.sramEccunc p) 1
    if (s.ctx p c).holds tier (at_ k) (sramWord tier) then
      let r := s.failRec p c 0x08 (leBytes 4 (at_ k)) also
      bad (((s.countSecond p 0x08 also).sendRec p { r with flags := r.flags + 1 }).halt p c)
    else bad (s.replayBoth p c 0x08 (leBytes 4 (at_ k)) none also)

end Sys2Proof.Machine
end

