-- ==== Sys2Proof/Machine/Issue.lean ====
section
/-!
DEFINITION. How a context's groups issue (R179 to R188): the fetch from the active copy, the checks of a group, its
holds and waits, the pop of its tokens, and the advance of the PC with the hardware loops (R197 to R199, R603). A row of
an engine instruction runs when it is the next instruction of its context's group; the first row of a group decides the
waits of the whole group (Machine/EngineRows.lean).
-/

namespace Sys2Proof.Machine

/-- The core rail of an engine's die is on (R578). (DESIGN CHOICE, log entry 139.) -/
def State.coreOn (s : State) (p : Nat) : Bool := !s.boot.railsOff.contains (if dieOf p = 0 then Rail.vcore0 else Rail.vcore1)

/-- The context can issue: its engine is supplied, it holds the engine, no commit, replay, stall or debug halt holds it, and its
recorded block is not being reloaded (R180, R219, R415, R507). -/
def State.canIssue (s : State) (p c : Nat) : Bool :=
  let x := s.ctx p c
  x.st == .running && (s.engine p).holder == some c && x.commit == none && (x.rep == .idle || x.rep == .running) &&
  !x.stalled && !x.dbgHalt && !(s.engine p).reloading && s.coreOn p

/-- The context holds the engine and its context time runs: it is not stopped by a stall of its partition, a debug halt or the
loss of its core rail (R414, R418, R496, R508, R578). -/
def State.holds? (s : State) (p c : Nat) : Bool :=
  let x := s.ctx p c
  (s.engine p).holder == some c && x.st == .running && !x.stalled && !x.dbgHalt && s.coreOn p

/-- The logical number of the engine that a context runs on; a shadow runs as its original does (R527). -/
def State.leFor (s : State) (p c : Nat) : Option Nat :=
  match s.audit with
  | some a => if (s.ctx p c).shadow then some a.le else s.leOf p
  | none => s.leOf p

/-- The group at the context's PC, when R179 holds for it. -/
def State.group (s : State) (p c : Nat) : Option (List W64) :=
  let pc := (s.ctx p c).cur.pc
  let size := (s.imemShare p c).2
  groupAt ((List.range 5).filterMap (fun i => if pc + i < size then some (s.imemWord p c (pc + i)) else none))

/-- A wait that a group names: the class queue, the test of its head, and the CLASS of the instruction that names it. -/
structure Wait where
  cls : Nat
  tok : Tok
  mask : Tok
  by_ : Nat
  deriving DecidableEq, Repr

/-- The waits of a group: its TW slots with the tokens they hold, and a C.WAIT (R185, R218). One whose TOK field is 0x0000 is a
wait on the LOCAL queue. (DESIGN CHOICE, log entry 129.) -/
def Ctx.waits (x : Ctx) (g : List W64) : List Wait :=
  g.flatMap (fun w =>
    (match wTw w with
      | some k =>
        let t : Tok := Tab.get 0 x.cur.ws k
        [⟨tokClass t, t, 0xFFFF, wClass w⟩]
      | none => []) ++
    (if EngOp.ofWord w = some .cWait then
      [⟨wbits w 47 44, BitVec.ofNat 16 (wbits w 47 32), BitVec.ofNat 16 (wbits w 31 16), 4⟩] else []))

/-- The head satisfies the wait (R185, R218). -/
def Wait.met (k : Wait) (t : Tok) : Bool := t &&& k.mask == k.tok &&& k.mask

/-- No two waits name one class queue (R187). -/
def distinctQueues : List Wait → Bool
  | [] => true
  | k :: ks => ks.all (fun j => j.cls != k.cls) && distinctQueues ks

/-- What a group meets when it would issue. -/
inductive Gate
  | fault (code cls : Nat)
  | hold (counted : Bool)
  | go
  deriving DecidableEq, Repr

/-- A transfer is of the free tier (R216). -/
def Xfer.free (t : Xfer) : Bool := t.kind == .send || t.rxq || t.shale

/-- The kind of transfer a D instruction would start: true for the free tier, read from its descriptor (R180, R216). -/
def State.dFree (s : State) (p c : Nat) (w : W64) : Bool :=
  let d := s.sandBytes p c (64 * wbits w 47 30) 64
  EngOp.ofWord w == some .dSend || dfld d 43 1 % 2 == 1 || bits (dfld d 0 8) 46 44 == 4

/-- The hold of one instruction by its unit or its own rule (R157, R161, R180, R220, R221), and whether R188 counts it. A
summary write that waits holds its own unit: V or Q (R161). -/
def State.unitHold (s : State) (p c : Nat) (w : W64) : Option Bool :=
  let x := s.ctx p c
  match EngOp.ofWord w with
  | some .mLoadw | some .mPass | some .mPasst | some .mFold | some .mOut => if x.mPend.isSome then some false else none
  | some .dGet | some .dPut | some .dSend | some .dGather | some .dIload =>
    let fr := s.dFree p c w
    if 8 ≤ (x.xfers.filter (fun t => t.free == fr && !t.dead)).length then some fr else none
  | some .cLoop => if x.cmpPend.any (fun k => k.n == wbits w 47 45) then some false else none
  | some .cSelect => if x.sel.isNone then some true else none
  | some .cSwapbank =>
    if x.cur.loops != [] then none
    else if (if x.cur.bankB then x.copyA else x.copyB) == .ready then none else some true
  | _ =>
    if (wClass w == 1 && x.sumHeld.any (fun e => !e.fromRed)) || (wClass w == 2 && x.sumHeld.any (fun e => e.fromRed)) then
      some true else none

/-- The head of a wait's queue holds another token than the one it expects (R186). -/
def Ctx.outOfOrder (x : Ctx) (k : Wait) : Bool := match x.tokens k.cls with | t :: _ => !k.met t | [] => false

/-- The word's TW names a slot that was never armed (R185). -/
def Ctx.unarmed (x : Ctx) (w : W64) : Bool := match wTw w with | some k => (Tab.get 0 x.cur.ws k : Tok) == 0 | none => false

/-- The instruction names a vector register outside the share (R143). -/
def State.vregOut (s : State) (p c : Nat) (o : EngOp) (w : W64) : Bool :=
  (o.vregs w).any (fun i => decide ((s.vregShare p c).2 ≤ i))

/-- The fault that one of a group's words shows before it issues: R178 and its own static rules, a register outside the
share (R143), a slot never armed (R185), a token out of order (R186). -/
def State.wordBad (s : State) (p c : Nat) (w : W64) : Option Nat :=
  let x := s.ctx p c
  match EngOp.ofWord w with
  | none => some fMalformed
  | some o =>
    if !(wordOk w && static o w) then some fMalformed
    else if x.unarmed w then some fMalformed
    else if s.vregOut p c o w then some fVreg
    else if (x.waits [w]).any x.outOfOrder then some fOrder
    else none

/-- The first of a group's words that shows such a fault, with its code: the one of the lowest CLASS, since classes ascend
(R179, R224). (DEDUCED, log entry 13.) -/
def State.firstBad (s : State) (p c : Nat) : List W64 → Option (W64 × Nat)
  | [] => none
  | w :: ws => match s.wordBad p c w with | some code => some (w, code) | none => s.firstBad p c ws

/-- The holds of a group's words: an empty queue that a wait names, or the unit of one of them. -/
def State.holds (s : State) (p c : Nat) (g : List W64) : List Bool :=
  let x := s.ctx p c
  (if (x.waits g).any (fun k => x.tokens k.cls == []) then [true] else []) ++ g.filterMap (s.unitHold p c)

/-- What the group at the PC meets (R178 to R188): a fault that one of its words shows, and then none of them issues
(R180); a hold; or nothing. (DESIGN CHOICE, log entry 11, DEDUCED, log entry 12, DEDUCED, log entry 13.) -/
def State.gate (s : State) (p c : Nat) : Gate :=
  let x := s.ctx p c
  match s.group p c with
  | none => .fault fMalformed (wClass (s.imemWord p c x.cur.pc))
  | some g =>
    if !distinctQueues (x.waits g) then .fault fMalformed (wClass (g.headD 0))
    else
      match s.firstBad p c g with
      | some (w, code) => .fault code (wClass w)
      | none =>
        let hs := s.holds p c g
        if hs == [] then .go else .hold (hs.contains true)

/-- A free-tier transfer of the context is outstanding, or the token of a D.PUT to Shale is to come (R216, R219). -/
def Ctx.freeOut (x : Ctx) : Bool := x.xfers.any Xfer.free || x.shaleOut != []

/-- A hold of the context's next group, or of its commit, stands at a declared wait point (R36): a wait for a class of the free
domain, a D instruction that 8 free-tier transfers hold, a C.SWAPBANK into a copy that a ring loads, a C.COMMIT that waits for
free-tier transfers. -/
def State.atWaitPoint (s : State) (p c : Nat) : Bool :=
  let x := s.ctx p c
  if x.commit.isSome then x.freeOut
  else
    let g := (s.group p c).getD []
    decide (x.gi = 0) && ((x.waits g).any (fun k => x.tokens k.cls == [] && freeClass k.cls) ||
      g.any (fun w => s.unitHold p c w == some true &&
        (wClass w == 3 || (EngOp.ofWord w == some .cSwapbank && !s.flag (Reg.imemShare p c) 9))))

/-- The instruction the context is at: word gi of its group. (DEDUCED, log entry 12.) -/
def State.instrAt (s : State) (p c : Nat) : W64 :=
  let x := s.ctx p c
  s.imemWord p c (x.cur.pc + x.gi)

/-- The tokens of a group's TW waits are popped in the cc it issues (R185). -/
def popTw (x : Ctx) (g : List W64) : Ctx :=
  g.foldl (fun x w => match wTw w with
    | some k => x.pop (tokClass (Tab.get 0 x.cur.ws k))
    | none => x) x

/-- The loops as the group that begins at `g0` ends: the innermost loop that ends there goes round again, or leaves its
end to the next one that shares it; the PC that follows (R197, R198). -/
def loopEnd (g0 next : Nat) : List Loop → List Loop × Nat
  | [] => ([], next)
  | l :: ls =>
    if l.stop = g0 then
      (if 1 < l.left then ({ l with left := l.left - 1 } :: ls, l.body) else loopEnd g0 next ls)
    else (l :: ls, next)

/-- After an instruction: the next one of its group, or the next group. (DEDUCED, log entry 12.) -/
def State.advance (s : State) (p c : Nat) (w : W64) : State :=
  s.modCtx p c (fun x =>
    if wG w then
      let (ls, pc) := loopEnd x.cur.pc (x.cur.pc + x.gi + 1) x.cur.loops
      { x with gi := 0, oldV := [], oldP := none, cur := { x.cur with loops := ls, pc := pc } }
    else { x with gi := x.gi + 1 })

/-- After a C.JUMP, C.SELECT or C.SWAPBANK: control goes to the target and no loop advances (R603). -/
def State.goto (s : State) (p c : Nat) (target : Nat) : State :=
  s.modCtx p c (fun x => { x with gi := 0, oldV := [], oldP := none, cur := { x.cur with pc := target } })

/-- What an instruction's run ends in: the state with its effect, the same with a target, a program fault, or a check
failure that stopped the context. -/
inductive Ran
  | seq (s : State)
  | jump (s : State) (target : Nat)
  | bad (s : State) (code : Nat)
  | stop (s : State)

/-- A fault of the instruction the context is at: its class and its group's address (R224). -/
def State.faultAt (s : State) (p c code : Nat) (w : W64) : State :=
  s.fault p c code (wClass w) (s.ctx p c).cur.pc

/-- The state in which the group's first instruction issues: the hold over, and the TW tokens of the group popped. -/
def State.opened (s : State) (p c : Nat) : State :=
  if (s.ctx p c).gi = 0 then s.modCtx p c (fun x => { popTw x ((s.group p c).getD []) with held := false }) else s

/-- The effect of an issuing instruction: its run, and the advance. -/
def State.execAt (s : State) (p c : Nat) (w : W64) (run : W64 → State → Ran) : State :=
  match run w s with
  | .seq t => t.advance p c w
  | .jump t pc => t.goto p c pc
  | .bad t code => t.faultAt p c code w
  | .stop t => t

end Sys2Proof.Machine
end

