-- ==== Sys2Proof/Machine/Vector.lean ====
section
/-!
DEFINITION. The vector instructions (chapter 05, R207 to R209) and the vector engine's own events: the residue check
(R171, R175) and the landing of a compress count (R157).
-/

namespace Sys2Proof.Machine

/-! ## Registers as a group sees them -/

/-- A vector register written by an instruction of a group: what it held before stays readable to the later
instructions of the group (R149). Commands of one cc come in the order in which the rules resolve their writes. (DESIGN
CHOICE, log entry 115.) -/
def State.vWrite (s : State) (p c i : Nat) (v : VReg) : State :=
  let old := s.vreg p c i
  let s := s.modCtx p c (fun x => { x with oldV := x.oldV.set i (Tab.get old x.oldV i) })
  s.setVreg p c i v

/-- A predicate register written by an instruction of a group. -/
def State.pWrite (s : State) (p c i : Nat) (v : Pred) : State :=
  s.modCtx p c (fun x => { x with
    oldP := some (x.oldP.getD x.cur.vp), cur := { x.cur with vp := x.cur.vp.set i v } })

/-- A vector register as it stood before the group. (DEDUCED, log entry 12.) -/
def State.vOld (s : State) (p c i : Nat) : VReg := Tab.get (s.vreg p c i) (s.ctx p c).oldV i

/-- A predicate register as it stood before the group. (DEDUCED, log entry 12.) -/
def State.pOld (s : State) (p c i : Nat) : Pred :=
  let x := s.ctx p c
  { x.cur with vp := x.oldP.getD x.cur.vp }.vpred i

/-- The execution predicate of a V instruction. -/
def State.vp (s : State) (p c : Nat) (w : W64) : Pred := (s.ctx p c).cur.vpred (wbits w 21 19)

/-- The element layout of T. -/
def vT (w : W64) : Fmt := (typeOf (wbits w 47 46)).getD .fp32

/-! ## Checks and injection (R171 to R176) -/

/-- The armed vector injection fires on an instruction of class `target` whose selected lane is active: its lane and
bit. `one` says that a lane result is one bit (R176). (DEDUCED, log entry 91.) -/
def State.injHit (s : State) (p target : Nat) (vp : Pred) (one : Bool) : Option (Nat × Nat) :=
  let v := (s.reg (Reg.vecInj p)).toNat
  if bit v 0 && bits v 2 1 == target && vp.getLsbD (bits v 11 3) && (!one || bits v 16 12 == 0) then
    some (bits v 11 3, bits v 16 12)
  else none

/-- ARM clears and FIRED sets. -/
def State.injFired (s : State) (p : Nat) : State :=
  (s.setFld (Reg.vecInj p) 0 0 0).setFld (Reg.vecInj p) 17 17 1

/-- A vector or reduction check fails (R175): its counter, and the record and stop of the replay, with another failure of
the same cc if there is one. -/
def State.vecFail (s : State) (p c cls counter lane pc : Nat) (also : Option Second) : State :=
  (s.bump counter 1).replayBoth p c cls (leBytes 4 lane ++ leBytes 4 pc) none also

/-- A result of a residue-checked operation: it is written, wrong in one bit when an injection fires, and its check is
due (R171). -/
def State.residueWrite (s : State) (p c vd : Nat) (vp : Pred) (r : VReg) : State :=
  let pc := (s.ctx p c).cur.pc
  match s.injHit p 0 vp false with
  | some (l, b) =>
    ((s.injFired p).vWrite p c vd (r ^^^ ((1 : VReg) <<< (32 * l + b)))).modEngine p
      (fun e => { e with vchk := e.vchk ++ [⟨c, l, pc, true⟩] })
  | none => (s.vWrite p c vd r).modEngine p (fun e => { e with vchk := e.vchk ++ [⟨c, 0, pc, false⟩] })

/-- An operation covered by parity: an upset of the data path, or an injection, fails it at the write, which does not land
(R172, R176). -/
def State.parity (s : State) (p c : Nat) (vp : Pred) (one : Bool) (upset : Option Upset) (eff : State → Ran) : Ran :=
  let also := upset.bind (·.also)
  match s.injHit p 1 vp one, upset with
  | some (l, _), _ => .stop ((s.injFired p).vecFail p c 0x05 (Reg.vecParfail p) l (s.ctx p c).cur.pc also)
  | none, some u => .stop (s.vecFail p c 0x05 (Reg.vecParfail p) u.lane.toNat (s.ctx p c).cur.pc also)
  | none, none => eff s

/-- RESIDUE_CHECK: the oldest result's check ends; it fails when the result is wrong in the injected lane, or in the lane
of an upset (R171, R175). -/
def execResidueCheck (p : PhysE) (upset : Option Upset) (s : State) : Out :=
  .next (match (s.engine p).vchk with
    | [] => s
    | k :: ks =>
      let s := s.modEngine p (fun e => { e with vchk := ks })
      let lane := if k.wrong then some k.lane else upset.map (fun u => u.lane.toNat)
      match lane with
      | some l => s.vecFail p k.ctx 0x04 (Reg.vecResfail p) l k.pc (upset.bind (·.also))
      | none => s)

/-! ## Arithmetic -/

/-- A residue-checked operation of two sources. -/
def runArith (p c : Nat) (op : Fmt → Nat → Nat → Nat) (w : W64) (s : State) : Ran :=
  let f := vT w
  let vp := s.vp p c w
  let r := map2 f vp (s.vreg p c (wbits w 45 40)) (s.vreg p c (wbits w 39 34)) (s.vreg p c (wbits w 33 28)) (op f)
  .seq (s.residueWrite p c (wbits w 45 40) vp r)

/-- V.FMA: VD ← VA × VB + VC (R80). -/
def runFma (p c : Nat) (w : W64) (s : State) : Ran :=
  let f := vT w
  let vp := s.vp p c w
  let r := map3 f vp (s.vreg p c (wbits w 45 40)) (s.vreg p c (wbits w 39 34)) (s.vreg p c (wbits w 33 28))
    (s.vreg p c (wbits w 27 22)) f.fma
  .seq (s.residueWrite p c (wbits w 45 40) vp r)

/-- A parity-checked operation of two sources under a layout. -/
def runMove (p c : Nat) (f : Fmt) (op : Nat → Nat → Nat) (upset : Option Upset) (w : W64) (s : State) : Ran :=
  let vp := s.vp p c w
  s.parity p c vp false upset (fun s =>
    .seq (s.vWrite p c (wbits w 45 40)
      (map2 f vp (s.vreg p c (wbits w 45 40)) (s.vreg p c (wbits w 39 34)) (s.vreg p c (wbits w 33 28)) op)))

/-- V.CMP (R151). -/
def runCmp (p c : Nat) (upset : Option Upset) (w : W64) (s : State) : Ran :=
  let vp := s.vp p c w
  s.parity p c vp true upset (fun s =>
    let old := (s.ctx p c).cur.vpred (wbits w 15 13)
    let r := cmpPred (vT w) (wbits w 18 16) vp old (s.vreg p c (wbits w 39 34)) (s.vreg p c (wbits w 33 28))
    .seq (s.pWrite p c (wbits w 15 13) (if w.getLsbD 12 then old ||| r else r)))

/-- V.SEL: VD ← VPS ? VA : VB (R207). -/
def runSel (p c : Nat) (upset : Option Upset) (w : W64) (s : State) : Ran :=
  let vp := s.vp p c w
  let sel := (s.ctx p c).cur.vpred (wbits w 15 13)
  s.parity p c vp false upset (fun s =>
    let a := s.vreg p c (wbits w 39 34)
    let b := s.vreg p c (wbits w 33 28)
    .seq (s.vWrite p c (wbits w 45 40) (mapElems .int32 vp (s.vreg p c (wbits w 45 40))
      (fun i => elem .int32 (if sel.getLsbD i then a else b) i))))

/-- V.PERM (R152). -/
def runPerm (p c : Nat) (upset : Option Upset) (w : W64) (s : State) : Ran :=
  let vp := s.vp p c w
  s.parity p c vp false upset (fun s =>
    .seq (s.vWrite p c (wbits w 45 40)
      (permute vp (s.vreg p c (wbits w 45 40)) (s.vreg p c (wbits w 39 34)) (s.vreg p c (wbits w 33 28)))))

/-- Flags of a conversion into the context's sticky word (R90, R153). -/
def State.vecFlags (s : State) (p c : Nat) (f : Flags) : State := s.orReg (Reg.vecFlags p c) f.word

/-- The random word of logical index i under key RKk and the context's step (R87, R209). -/
def Rec.roundWord (r : Rec) (k : RKey) (i : W64) : Nat := (philoxAt k.seed i k.rid (r.stepNo.setWidth 32)).toNat

/-- V.CVT (R153, R154, R209). -/
def runCvt (p c : Nat) (w : W64) (s : State) : Ran :=
  let x := s.ctx p c
  match Fmt.ofCode (wbits w 18 15), Fmt.ofCode (wbits w 14 11) with
  | some fs, some fd =>
    let sw := (lane (s.vreg p c (wbits w 27 22)) 0).toNat
    let scaled := fs.isNarrow || fd.isNarrow
    if scaled && !scaleOk sw then .bad s fMalformed
    else
      let vp := s.vp p c w
      let rm := Rm.ofCode (wbits w 10 9)
      let k := Tab.get {} x.cur.rk (wbits w 7 6)
      let rw := fun j => if rm = .sr then x.cur.roundWord k (x.cur.vib + BitVec.ofNat 64 j) else 0
      let (r, fl) := convert fs fd rm (w.getLsbD 8) (wbits w 4 2) vp
        (if scaled then some (Fmt.fp32.decode sw) else none) rw (s.vreg p c (wbits w 39 34)) (s.vreg p c (wbits w 45 40))
      let s := (s.residueWrite p c (wbits w 45 40) vp r).vecFlags p c fl
      .seq (if w.getLsbD 5 then s.modCur p c (fun x => { x with vib := x.vib + BitVec.ofNat 64 fs.count }) else s)
  | _, _ => .bad s fMalformed

/-! ## Sand and pointers -/

/-- LPn. -/
def Rec.ptr (r : Rec) (n : Nat) : Nat := Tab.get 0 r.lp n

/-- The Sand offset of V.LD, V.ST and V.PST: LPn + OFF × 64 (R207). -/
def State.vAddr (s : State) (p c : Nat) (w : W64) : Nat :=
  (s.ctx p c).cur.ptr (wbits w 18 17) + 64 * wbits w 15 0

/-- INC: LPn advances after the access. (DEDUCED, log entry 15.) -/
def State.vInc (s : State) (p c n : Nat) (w : W64) : State :=
  if w.getLsbD 16 then
    s.modCur p c (fun r => { r with lp := r.lp.set (wbits w 18 17) ((r.ptr (wbits w 18 17) + n) % 2 ^ 24) })
  else s

/-- What R208 asks of an address: 64-byte aligned, and inside the share; the fault code otherwise. An address that is
neither is recorded as malformed. (DESIGN CHOICE, log entry 110.) -/
def State.vAddrBad (s : State) (p c a n : Nat) : Option Nat :=
  if a % 64 ≠ 0 then some fMalformed else if !s.sandOk p c a n then some fBound else none

/-- V.LD: VD ← 2 KiB at LPn + OFF × 64. -/
def runLd (p c : Nat) (err : ReadErr) (upset : Option Upset) (w : W64) (s : State) : Ran :=
  let a := s.vAddr p c w
  match s.vAddrBad p c a 2048 with
  | some code => .bad s code
  | none =>
    let vp := s.vp p c w
    s.sramRead p c 0 (sramAt 0 a 2048) err .stop (fun s => s.parity p c vp false upset (fun s =>
      let r := BitVec.ofNat 16384 (leNat (s.sandBytes p c a 2048))
      .seq ((s.vWrite p c (wbits w 45 40)
        (mapElems .int32 vp (s.vreg p c (wbits w 45 40)) (fun i => elem .int32 r i))).vInc p c 2048 w)))

/-- The bytes of the active lanes of a store, as runs of one lane each. -/
def State.laneStore (s : State) (p c a : Nat) (vp : Pred) (v : VReg) : State :=
  (activeLanes vp).foldl (fun s i => s.sandStore p c (a + 4 * i) (leBytes 4 (elem .int32 v i))) s

/-- V.ST: 2 KiB at LPn + OFF × 64 ← VA; a held byte faults (R273). -/
def runSt (p c : Nat) (upset : Option Upset) (w : W64) (s : State) : Ran :=
  let a := s.vAddr p c w
  match s.vAddrBad p c a 2048 with
  | some code => .bad s code
  | none =>
    let vp := s.vp p c w
    if (activeLanes vp).any (fun i => (s.ctx p c).holds 0 (a + 4 * i) 4) then .bad s fHeld
    else s.parity p c vp false upset (fun s =>
      .seq ((s.laneStore p c a vp (s.vreg p c (wbits w 39 34))).vInc p c 2048 w))

/-- V.PST: 64 bytes ← predicate VP (R207). -/
def runPst (p c : Nat) (w : W64) (s : State) : Ran :=
  let a := s.vAddr p c w
  match s.vAddrBad p c a 64 with
  | some code => .bad s code
  | none =>
    if (s.ctx p c).holds 0 a 64 then .bad s fHeld
    else .seq ((s.sandStore p c a (leBytes 64 (s.vp p c w).toNat)).vInc p c 64 w)

/-- V.COMPRESS (R155, R157, R158). With no active lane a pointer beyond the share is still a partition-bound fault, here and
in V.EXPAND. (DEDUCED, log entry 15, DESIGN CHOICE, log entry 111.) -/
def runCompress (p c : Nat) (upset : Option Upset) (w : W64) (s : State) : Ran :=
  let x := s.ctx p c
  let vp := s.vp p c w
  let ls := activeLanes vp
  let n := ls.length
  let lc := wbits w 18 16
  let cnt := w.getLsbD 15
  let acc := w.getLsbD 14
  let co := w.getLsbD 11
  if !co && !s.sandOk p c x.cur.cptr (4 * n) then .bad s fBound
  else if !co && x.holds 0 x.cur.cptr (4 * n) then .bad s fHeld
  else s.parity p c vp false upset (fun s =>
    let v := s.vreg p c (wbits w 39 34)
    let words := ls.map (fun i => if w.getLsbD 13 then (x.cur.vib.toNat + i) % 2 ^ 32 else elem .int32 v i)
    let s := if co then s else
      (s.sandStore p c x.cur.cptr (words.flatMap (leBytes 4))).modCur p c (fun r => { r with cptr := (r.cptr + 4 * n) % 2 ^ 24 })
    let s := if w.getLsbD 12 then s.modCur p c (fun r => { r with vib := r.vib + 512 }) else s
    .seq (if cnt then s.modCtx p c (fun x => { x with cmpPend := x.cmpPend ++ [⟨lc, n, acc, x.cur.pc, x.cur.bankB⟩] }) else s))

/-- COMPRESS_COUNT_LANDS: the oldest pending count lands in its loop-count register (R157). A C instruction later in program
order that writes the register in the same cc keeps its value, and the count is not kept; an accumulating count that
exceeds 32 bits is a malformed-instruction fault of its V.COMPRESS. It lands while the context runs on its engine (R418). -/
def execCompressCountLands (p : PhysE) (c : Place) (kept : Bool) (s : State) : Out :=
  .next (match (s.ctx p c).cmpPend with
    | [] => s
    | k :: ks =>
      if s.holds? p c = true then
        let old : W32 := Tab.get 0 (s.ctx p c).cur.lc k.n
        let v := k.count + if k.acc then old.toNat else 0
        let s := s.modCtx p c (fun x => { x with cmpPend := ks })
        if !kept then s
        else if 2 ^ 32 ≤ v then s.faultIn p c fMalformed 1 k.pc k.bankB
        else s.modCur p c (fun r => { r with lc := r.lc.set k.n (BitVec.ofNat 32 v) })
      else s)

/-- V.EXPAND (R156, R158). (DEDUCED, log entry 15.) -/
def runExpand (p c : Nat) (err : ReadErr) (upset : Option Upset) (w : W64) (s : State) : Ran :=
  let x := s.ctx p c
  let vp := s.vp p c w
  let n := countBits vp
  if !s.sandOk p c x.cur.eptr (4 * n) then .bad s fBound
  else s.sramRead p c 0 (sramAt 0 x.cur.eptr (4 * n)) err .stop (fun s => s.parity p c vp false upset (fun s =>
    let src := s.sandBytes p c x.cur.eptr (4 * n)
    let dst := s.vreg p c (wbits w 45 40)
    let base := if w.getLsbD 18 then 0 else dst
    let r := (activeLanes vp).zipIdx.foldl (fun r (i, j) => setLane r i (BitVec.ofNat 32 (src.num (4 * j) 4))) base
    .seq ((s.vWrite p c (wbits w 45 40) r).modCur p c (fun r => { r with eptr := (r.eptr + 4 * n) % 2 ^ 24 }))))

/-- V.SETIB: VIB ← lanes 0 and 1 of VA, whatever VP. (DESIGN CHOICE, log entry 107.) -/
def runVSetib (p c : Nat) (w : W64) (s : State) : Ran :=
  let v := lanePair (s.vreg p c (wbits w 39 34))
  .seq (s.modCur p c (fun r => { r with vib := v }))

/-- V.PTR sets CPTR, EPTR or an LPn (R207). (DEDUCED, log entry 15.) -/
def runPtr (p c : Nat) (w : W64) (s : State) : Ran :=
  let a := wbits w 39 16
  .seq (s.modCur p c (fun r =>
    match wbits w 45 43 with
    | 0 => { r with cptr := a }
    | 1 => { r with eptr := a }
    | n => { r with lp := r.lp.set (n - 2) a }))

/-- Summary entries enter in the order of landing (R161): before the last `ahead` entries of reduction finishes that issued
earlier and land later. The queue keeps its 32 entries; what is beyond them is held, which sets SUMQ_STAT.HELD. -/
def State.pushAhead (s : State) (p c : Nat) (ahead : Nat) (es : List SumEntry) : State :=
  let x := s.ctx p c
  let all := x.cur.sumq ++ x.sumHeld
  let reds := (all.reverse.takeWhile (·.fromRed)).length
  let k := all.length - min ahead reds
  let next := all.take k ++ es ++ all.drop k
  let room := if x.sumHeld = [] then 32 else x.cur.sumq.length
  let s := s.modCtx p c (fun x => { x with cur := { x.cur with sumq := next.take room }, sumHeld := next.drop room })
  if next.length ≤ room then s else s.setFld (Reg.sumqStat p c) 6 6 1

/-- The value of a V.SUMQ (R160). -/
def sumValue (kind l wd : Nat) (v : VReg) (vp : Pred) : Nat :=
  match kind with
  | 0 => elem .int32 v l
  | 1 => countBits vp
  | 2 => (match activeLanes vp with | i :: _ => i | [] => 2 ^ 64 - 1)
  | 3 => vp.toNat / 2 ^ (64 * wd) % 2 ^ 64
  | _ => if vp = 0 then 0 else 1

/-- V.SUMQ (R159 to R161). -/
def runSumq (p c : Nat) (ahead : Nat) (w : W64) (s : State) : Ran :=
  let vp := (s.ctx p c).cur.vpred (wbits w 45 43)
  let kind := wbits w 17 14
  .seq (s.pushAhead p c ahead [{
    value := BitVec.ofNat 64 (sumValue kind (wbits w 13 5) (wbits w 4 2) (s.vreg p c (wbits w 39 34)) vp)
    tag := BitVec.ofNat 16 (wbits w 33 18)
    kind := BitVec.ofNat 4 kind
    fromRed := false }])

/-- V.LI: every lane of VD ← IMM. -/
def runLi (p c : Nat) (w : W64) (s : State) : Ran :=
  .seq (s.vWrite p c (wbits w 45 40) (ofElems 32 (List.replicate 512 (wbits w 31 0))))

/-- V.SETRK: RKk ← the seed of lanes 0 and 1 and the identifier of lane 2 of VA, whatever VP. (DESIGN CHOICE, log entry
107.) -/
def runSetrk (p c : Nat) (w : W64) (s : State) : Ran :=
  let v := s.vreg p c (wbits w 39 34)
  .seq (s.modCur p c (fun r => { r with rk := r.rk.set (wbits w 18 17) ⟨lanePair v, lane v 2⟩ }))

/-- V.PLOG: VPD ← VPA op VPB in the active lanes. -/
def runPlog (p c : Nat) (w : W64) (s : State) : Ran :=
  let r := (s.ctx p c).cur
  let a := r.vpred (wbits w 12 10)
  let b := r.vpred (wbits w 9 7)
  let v := match wbits w 18 16 with
    | 0 => a &&& b | 1 => a ||| b | 2 => a &&& ~~~ b | 3 => a ^^^ b | _ => ~~~ a
  let vp := s.vp p c w
  .seq (s.pWrite p c (wbits w 15 13) ((v &&& vp) ||| (r.vpred (wbits w 15 13) &&& ~~~ vp)))

end Sys2Proof.Machine
end

