-- ==== Sys2Proof/Machine/Reduction.lean ====
section
/-!
DEFINITION. The reduction instructions (R163 to R170, R210) and the entry of a held summary write (R161).
-/

namespace Sys2Proof.Machine

/-- Accumulator QAn. -/
def Ctx.acc (x : Ctx) (n : Nat) : Accum := Tab.get {} x.qa n

/-- The second copy of QAn (R173): the same accumulator unless an injection made the copies differ. -/
def Ctx.accDup (x : Ctx) (n : Nat) : Accum := Tab.get (x.acc n) x.qaDup n

/-- Both copies of an accumulator set; a copy that agrees is not kept. -/
def Ctx.setAcc (x : Ctx) (n : Nat) (a d : Accum) : Ctx :=
  { x with qa := x.qa.set n a, qaDup := if a = d then x.qaDup.del n else x.qaDup.set n d }

/-- The two words of a 64-bit number, low word first. -/
def words64 (v : W64) : List W32 := [v.setWidth 32, (v >>> 32).setWidth 32]

/-- The three words of a P96 encoding. -/
def words96 (v : Nat) : List W32 := [BitVec.ofNat 32 v, BitVec.ofNat 32 (v / 2 ^ 32), BitVec.ofNat 32 (v / 2 ^ 64)]

/-- A P96 integer (R167). -/
def p96Int (n : Nat) : Nat := if n = 0 then p96Zero else p96Encode (Num.ofInt n 0)

/-- What one accumulator's finish gives for a destination: its words for a register (DST 0 or 1) and its entries for
the summary queue as kind and value, with its flags (R165 to R167). -/
def Accum.result (op : QOp) (dst : Nat) (q : Accum) : List W32 × List (Nat × W64) × Flags :=
  match op with
  | .nfc => (if dst = 1 then words96 (p96Int q.count.toNat) else words64 q.count, [(0xA, q.count)], {})
  | _ =>
    if dst = 1 then ((words96 (q.p96).1), [], (q.p96).2)
    else
      let (v, fl) := q.fp32 op
      if op.isArg then (BitVec.ofNat 32 v :: words64 q.index, [(0x8, BitVec.ofNat 64 v), (0x9, q.index)], fl)
      else ([BitVec.ofNat 32 v], [(0x8, BitVec.ofNat 64 v)], fl)

/-- The summary entries of a finish, in order, of one tag, in the order of their landing: before the last `ahead` entries of
finishes that issued earlier and land later (R161). -/
def State.pushSums (s : State) (p c : Nat) (ahead tag : Nat) (es : List (Nat × W64)) : State :=
  s.pushAhead p c ahead (es.map (fun (k, v) => { value := v, tag := BitVec.ofNat 16 tag, kind := BitVec.ofNat 4 k, fromRed := true }))

/-- The accumulators a Q instruction names (R168). -/
def qAccs (w : W64) : List Nat := if w.getLsbD 31 then [wbits w 45 44, wbits w 45 44 + 1] else [wbits w 45 44]

/-- The finish of a Q instruction: the copies are compared and nothing is written when they differ, by an injection or an
upset (R173); otherwise the results go to their destination and the accumulators to idle (R165 to R169). The record names
the lane of VEC_INJ, or the upset's. (DESIGN CHOICE, log entry 135.) -/
def State.qFinish (s : State) (p c : Nat) (op : QOp) (ahead : Nat) (upset : Option Upset) (w : W64) : Ran :=
  let x := s.ctx p c
  let dst := wbits w 30 29
  let ns := qAccs w
  let rs := ns.map (fun n => (x.acc n).result op dst)
  let wrong := ns.any (fun n => (x.accDup n).result op dst != (x.acc n).result op dst)
  if wrong || upset.isSome then
    let lane := if wrong then s.fld (Reg.vecInj p) 11 3 else (upset.map (fun u => u.lane.toNat)).getD 0
    .stop (s.vecFail p c 0x06 (Reg.redDupfail p) lane x.cur.pc (upset.bind (·.also)))
  else
    let s := s.vecFlags p c (rs.foldl (fun f r => f.or r.2.2) {})
    let s :=
      if dst = 2 then s.pushSums p c ahead (wbits w 28 13) (rs.flatMap (·.2.1))
      else s.vWrite p c (wbits w 28 23) (setLanes (s.vreg p c (wbits w 28 23)) (wbits w 22 14) (rs.flatMap (·.1)))
    .seq (if op = .nfc then s else
      s.modCtx p c (fun x => ns.foldl (fun x n => x.setAcc n (x.acc n).finish (x.acc n).finish) x))

/-- A Q instruction with lane inputs (R164 to R168, R210). -/
def runQ (p c : Nat) (op : QOp) (ahead : Nat) (upset : Option Upset) (w : W64) (s : State) : Ran :=
  let x := s.ctx p c
  let f := vT w
  let start := w.getLsbD 34
  if !start && (qAccs w).any (fun n => !(x.acc n).open_) then .bad s fMalformed
  else
    let vp := s.pOld p c (wbits w 37 35)
    let r := s.vOld p c (wbits w 43 38)
    let hit := s.injHit p 2 vp false
    let r2 := match hit with
      | some (l, b) => r ^^^ ((1 : VReg) <<< (32 * l + b))
      | none => r
    let half := (qAccs w).length == 2
    let step := fun (x : Ctx) (i n : Nat) =>
      let lo := if half then 256 * i else 0
      let hi := if half then 256 * i + 256 else 512
      let a0 := if start then Accum.start else x.acc n
      let d0 := if start then Accum.start else x.accDup n
      let a := a0.lanes op f vp r x.cur.qib lo hi
      { x.setAcc n a (d0.lanes op f vp r2 x.cur.qib lo hi) with nfc := x.nfc + (a.count - a0.count) }
    let s := if hit.isSome then s.injFired p else s
    let s := s.modCtx p c (fun x => (qAccs w).zipIdx.foldl (fun x (n, i) => step x i n) x)
    let s := if w.getLsbD 32 then s.modCur p c (fun r => { r with qib := r.qib + BitVec.ofNat 64 f.count }) else s
    if w.getLsbD 33 then s.qFinish p c op ahead upset w else .seq s

/-- Q.NFC (R167, R169). -/
def runNfc (p c : Nat) (ahead : Nat) (upset : Option Upset) (w : W64) (s : State) : Ran :=
  if (qAccs w).any (fun n => !((s.ctx p c).acc n).used) then .bad s fMalformed else s.qFinish p c .nfc ahead upset w

/-- Q.SETIB: QIB ← lanes 0 and 1 of VA (R210). -/
def runQSetib (p c : Nat) (w : W64) (s : State) : Ran :=
  let v := lanePair (s.vOld p c (wbits w 43 38))
  .seq (s.modCur p c (fun r => { r with qib := v }))

/-- SUMQ_HELD_WRITE: the oldest held summary write enters when the queue has room, while its context runs on its
engine (R161, R418). -/
def execSumqHeldWrite (p : PhysE) (c : Place) (s : State) : Out :=
  .next (if s.holds? p c = false then s else s.modCtx p c (fun x =>
    match x.sumHeld with
    | e :: es =>
      if x.cur.sumq.length < 32 then { x with sumHeld := es, cur := { x.cur with sumq := x.cur.sumq ++ [e] } } else x
    | [] => x))

end Sys2Proof.Machine
end

