-- ==== Sys2Proof/Machine/Matrix.lean ====
section
/-!
DEFINITION. The matrix instructions (R110 to R137, R201 to R206) and the M unit's own events: the beginning of a pending
instruction (R201), the corner comparison of a load (R112, R139), the check and write of a row (R137, R138, R141), and
the entry of a token (R204).
-/

namespace Sys2Proof.Machine

/-! ## Descriptors in their places -/

/-- A Sand range of the context that an instruction writes: inside the share and in no held range (R273). -/
def State.sandWriteBad (s : State) (p c off n : Nat) : Option Nat :=
  if !s.sandOk p c off n then some fBound else if (s.ctx p c).holds 0 off n then some fHeld else none

/-- Rows of the context's Silt that an instruction writes. -/
def State.siltRowsBad (s : State) (p c row n : Nat) : Option Nat :=
  if !s.siltOk p c (3072 * row) (3072 * n) then some fBound
  else if (s.ctx p c).holds 1 (3072 * row) (3072 * n) then some fHeld else none

/-- The first code of a list of checks. -/
def firstCode : List (Option Nat) → Option Nat
  | [] => none
  | some k :: _ => some k
  | none :: t => firstCode t

/-- The format of an activation operand of a pass. -/
def passFmt (d : Bytes) : Fmt := (Fmt.ofCode (dfld d 20 1 % 16)).getD .fp32
/-- The output format of a conversion. -/
def outFmt (d : Bytes) : Fmt := (Fmt.ofCode (dfld d 21 1 % 16)).getD .fp32

/-- A row's destination of a conversion is outside its bound, or held (R202, R206). -/
def State.outRowBad (s : State) (p c : Nat) (d : Bytes) (r : Nat) : Option Nat :=
  if dfld d 22 1 = 1 then
    let reg := dfld d 36 4 + r / (if outFmt d = .bf16 then 4 else 2)
    if reg < (s.vregShare p c).2 then none else some fVreg
  else s.sandWriteBad p c (dfld d 36 4 + r * dfld d 40 4) (outRowBytes (outFmt d))

/-- The length of an activation row: the block's rows forward, its columns transposed. -/
def rowLen (b : WBlock) (trans : Bool) : Nat := if trans then b.ncols else b.krows

/-- The ranges of one row of a pass: its activation, its scale codes, its Silt row and, when it converts, its output
(R202). -/
def State.passRowBad (s : State) (p c : Nat) (b : WBlock) (trans last : Bool) (d : Bytes) (r : Nat) : Option Nat :=
  let k := rowLen b trans
  firstCode [
    if s.sandOk p c (dfld d 0 4 + r * dfld d 4 4) (packedBytes b.fmtA k) then none else some fBound,
    if !b.fmtA.isMx || s.sandOk p c (dfld d 12 4 + 8 * r) (ceilDiv k 32) then none else some fBound,
    s.siltRowsBad p c (dfld d 18 2 + r) 1,
    if last then s.outRowBad p c d r else none]

/-- The resident block: the last block loaded on the engine (R416). -/
def Engine.block (e : Engine) : Option Loaded :=
  match e.shadow with
  | some l => some l
  | none => e.active

/-- The block that a pass issued now will meet: one that is loading, or the resident one. -/
def Engine.nextBlock (e : Engine) : Option Loaded :=
  match e.mLoad with
  | some (_, l) => some l
  | none => e.block

/-! ## Issue -/

/-- An M instruction enters the pending slot (R201, R202). -/
def State.mIssue (s : State) (p c : Nat) (k : MKind) (w : W64) (d : Bytes) (rows : Nat) : State :=
  let x := s.ctx p c
  let o : MOp :=
    { kind := k, ctx := c, word := w, desc := d, rows := rows, pc := x.cur.pc, bankB := x.cur.bankB
      mib := x.cur.mib, step := x.cur.stepNo }
  s.modCtx p c (fun y => { y with mPend := some o })

/-- The 64 bytes of the descriptor that bits [47:30] name. -/
def State.mDesc (s : State) (p c : Nat) (w : W64) : Bytes := s.sandBytes p c (64 * wbits w 47 30) 64

/-- The ranges a load reads: its weight rows and, for MX, their scale codes (R110, R600). -/
def State.loadRangeBad (s : State) (p c : Nat) (d : Bytes) : Bool :=
  let f := (Fmt.ofCode (dfld d 12 1 % 16)).getD .fp32
  let n := dfld d 10 2
  (List.range (dfld d 8 2)).any (fun k =>
    !s.sandOk p c (dfld d 0 4 + k * dfld d 4 4) (packedBytes f n) ||
    (f.isMx && !s.sandOk p c (dfld d 16 4 + 8 * k) (n / 32)))

/-- An instruction reads its descriptor in Sand: inside the share, and without an uncorrectable error (R202, R276, R283). -/
def State.withDesc (s : State) (p c : Nat) (w : W64) (err : ReadErr) (eff : State → Ran) : Ran :=
  if !s.sandOk p c (64 * wbits w 47 30) 64 then .bad s fBound
  else s.sramRead p c 0 (sramAt 0 (64 * wbits w 47 30) 64) err .stop eff

/-- M.LOADW at issue. (DEDUCED, log entry 17.) -/
def runLoadw (p c : Nat) (err : ReadErr) (w : W64) (s : State) : Ran :=
  s.withDesc p c w err (fun s =>
    let d := s.mDesc p c w
    if !loadDescOk d then .bad s fMalformed
    else if s.loadRangeBad p c d then .bad s fBound
    else .seq (s.mIssue p c .loadw w d 0))

/-- LAST, MASK and RLC of a pass. -/
def passFirst (w : W64) : Bool := w.getLsbD 13
def passLast (w : W64) : Bool := w.getLsbD 12
def passMask (w : W64) : Bool := w.getLsbD 11
def passRlc (w : W64) : Bool := w.getLsbD 10

/-- M.PASS and M.PASST at issue (R117, R202, R203). (DEDUCED, log entry 17.) -/
def runPass (p c : Nat) (trans : Bool) (err : ReadErr) (w : W64) (s : State) : Ran :=
  s.withDesc p c w err (fun s =>
  let d := s.mDesc p c w
  let x := s.ctx p c
  if !passDescOk d (passLast w) then .bad s fMalformed
  else
    let rows := if passRlc w then (Tab.get 0 x.cur.lc (wbits w 9 7)).toNat else dfld d 16 2
    match (s.engine p).nextBlock with
    | none => .bad s fMalformed
    | some l =>
      if passFmt d ≠ l.blk.fmtA ∨ 4096 < rows ∨ (passFmt d = .bf16 ∧ 1024 < rows) then .bad s fMalformed
      else
        let bad := if passMask w then
            (if s.sandOk p c (dfld d 8 4) (ceilDiv rows 8) then none else some fBound)
          else firstCode ((List.range rows).map (s.passRowBad p c l.blk trans (passLast w) d))
        match bad with
        | some code => .bad s code
        | none => .seq (s.mIssue p c (if trans then .passt else .pass) w d rows))

/-- ROWS, SRC and DST of M.FOLD. -/
def foldRows (w : W64) : Nat := wbits w 29 18 + 1
def foldSrc (w : W64) : Nat := 8 * wbits w 38 30
def foldDst (w : W64) : Nat := 8 * wbits w 47 39

/-- M.FOLD at issue (R204). -/
def runFold (p c : Nat) (w : W64) (s : State) : Ran :=
  match firstCode [
      if s.siltOk p c (3072 * foldSrc w) (3072 * foldRows w) then none else some fBound,
      s.siltRowsBad p c (foldDst w) (foldRows w)] with
  | some code => .bad s code
  | none => .seq (s.mIssue p c .fold w [] (foldRows w))

/-- M.OUT at issue (R204). (DEDUCED, log entry 17.) -/
def runOut (p c : Nat) (err : ReadErr) (w : W64) (s : State) : Ran :=
  s.withDesc p c w err (fun s =>
  let d := s.mDesc p c w
  let rows := dfld d 16 2
  if !passDescOk d true || decide (4096 < rows) then .bad s fMalformed
  else
    match firstCode ((List.range rows).map (fun r => firstCode [
        if s.siltOk p c (3072 * (dfld d 18 2 + r)) 3072 then none else some fBound,
        s.outRowBad p c d r])) with
    | some code => .bad s code
    | none => .seq (s.mIssue p c .out w d rows))

/-- M.SETIB: MIB ← lanes 0 and 1 of VA (R204). -/
def runMSetib (p c : Nat) (w : W64) (s : State) : Ran :=
  let v := lanePair (s.vreg p c (wbits w 45 40))
  .seq (s.modCur p c (fun r => { r with mib := v }))

/-! ## Loads -/

/-- The block that a load descriptor names, as it stands in Sand (R110, R600). -/
def State.readBlock (s : State) (p c : Nat) (d : Bytes) : WBlock :=
  let f := (Fmt.ofCode (dfld d 12 1 % 16)).getD .fp32
  let a := (Fmt.ofCode (dfld d 13 1 % 16)).getD .fp32
  let n := dfld d 10 2
  let ks := List.range (dfld d 8 2)
  { fmtW := f, fmtA := a, krows := dfld d 8 2, ncols := n
    elems := ks.map (fun k => unpack f.elem n (leNat (s.sandBytes p c (dfld d 0 4 + k * dfld d 4 4) (packedBytes f n))))
    scales := if f.isMx then ks.map (fun k => (s.sandBytes p c (dfld d 16 4 + 8 * k) (n / 32)).map (·.toNat)) else [] }

/-- A load begins: it reads its block, and the context records it (R416). -/
def State.beginLoad (s : State) (p : Nat) (o : MOp) : State :=
  let e := s.engine p
  let ref : BlockRef := ⟨64 * wbits o.word 47 30, e.nextSerial⟩
  let l : Loaded := ⟨s.readBlock p o.ctx o.desc, o.ctx, ref⟩
  (s.modEngine p (fun e => { e with mLoad := some (o, l), nextSerial := e.nextSerial + 1 })).modCur p o.ctx
    (fun r => { r with block := some ref })

/-! ## Passes -/

/-- The rows of a pass that are fed: all of them, or those whose mask bit is 1 (R121). -/
def State.fedRows (s : State) (p : Nat) (o : MOp) : List Nat :=
  if passMask o.word then
    let m := leNat (s.sandBytes p o.ctx (dfld o.desc 8 4) (ceilDiv o.rows 8))
    (List.range o.rows).filter (fun r => bit m r)
  else List.range o.rows

/-- One activation row: its element codes and its scale codes (R600). -/
def State.readRow (s : State) (p : Nat) (b : WBlock) (trans : Bool) (o : MOp) (r : Nat) : List Nat × List Nat :=
  let k := rowLen b trans
  (unpack b.fmtA.elem k (leNat (s.sandBytes p o.ctx (dfld o.desc 0 4 + r * dfld o.desc 4 4) (packedBytes b.fmtA k))),
   if b.fmtA.isMx then (s.sandBytes p o.ctx (dfld o.desc 12 4 + 8 * r) (ceilDiv k 32)).map (·.toNat) else [])

/-- The array-slots of a pass in order: array slot i is slot i / 4 of array i mod 4, and takes one row, or two when both
qualify for its lanes (R107, R125). -/
def slotRows (b : WBlock) : Nat → List (Nat × List Nat × List Nat) → List FedRow
  | _, [] => []
  | i, [(r, x, sc)] => [⟨r, i % 4, i / 4, none, x, sc, none⟩]
  | i, (r, x, sc) :: (r', x', sc') :: t =>
    if rowLane b sc && rowLane b sc' then
      ⟨r, i % 4, i / 4, some false, x, sc, none⟩ :: ⟨r', i % 4, i / 4, some true, x', sc', none⟩ :: slotRows b (i + 1) t
    else ⟨r, i % 4, i / 4, none, x, sc, none⟩ :: slotRows b (i + 1) ((r', x', sc') :: t)

/-- How the armed injection meets one row of a pass (R141): the output or check partial it inverts, when, and the bit of
this row's own partial; none when the selected cell is not met by this row. (DEDUCED, log entry 91.) -/
def injectOf (v : Nat) (trans : Bool) (f : FedRow) : Option Inject :=
  let row := bits v 11 3
  let col := bits v 20 12
  let b := bits v 26 21
  if !bit v 0 || bits v 2 1 != f.array then none
  else
    let (out, after) :=
      if row = 256 ∧ col = 256 then (256, 256)
      else if trans then
        (if row = 256 then (256, col + 1) else if col = 256 then (row, 256) else (row, col + 1))
      else
        (if col = 256 then (256, row + 1) else if row = 256 then (col, 256) else (col, row + 1))
    let w := if out = 256 then 36 else 32
    match f.lane with
    | none => some ⟨out, after, b⟩
    | some second =>
      if second then (if w ≤ b then some ⟨out, after, b - w⟩ else none)
      else if b < w then some ⟨out, after, b⟩ else none

/-- The fed rows of a pass, with the armed injection at the first of them that reaches its cell (R141). (DEDUCED, log entry
91.) -/
def injectFirst (v : Nat) (trans : Bool) : List FedRow → List FedRow
  | [] => []
  | f :: t => match injectOf v trans f with
    | some j => { f with inj := some j } :: t
    | none => f :: injectFirst v trans t

/-- The injection has fired: ARM clears and FIRED sets (R141). -/
def State.arrFired (s : State) (p : Nat) : State := (s.setFld (Reg.arrInj p) 0 0 0).setFld (Reg.arrInj p) 27 27 1

/-- The instruction's token, and its kind's opcode. -/
def MOp.tok (o : MOp) : Tok :=
  mTok (match o.kind with | .loadw => .mLoadw | .pass => .mPass | .passt => .mPasst | .fold => .mFold | .out => .mOut) o.word

/-- A pass begins: the mask is read, a masked row's ranges are checked (every failure of them is partition bound), the
block swaps in with the first row, and the rows are fed, the first that reaches the cell of an armed injection with it; a
pass that feeds none ends at once (R106, R121, R141, R201 to R204). -/
def State.beginPass (s : State) (p : Nat) (o : MOp) : State :=
  let trans := o.kind == .passt
  match (s.engine p).block with
  | none => s.faultIn p o.ctx fMalformed 0 o.pc o.bankB
  | some l =>
    let rs := s.fedRows p o
    let bad := if passMask o.word then
        firstCode (rs.map (s.passRowBad p o.ctx l.blk trans (passLast o.word) o.desc)) else none
    match bad with
    | some code => s.faultIn p o.ctx (if code = fVreg then fBound else code) 0 o.pc o.bankB
    | none =>
      let fed := injectFirst (s.reg (Reg.arrInj p)).toNat trans
        (slotRows l.blk 0 (rs.map (fun r => (r, s.readRow p l.blk trans o r))))
      if fed = [] then s.deliver p o.ctx (.m p o.ctx) o.tok
      else (if fed.any (fun f => f.inj.isSome) then s.arrFired p else s).modEngine p (fun e => { e with
        active := some l, shadow := none, flights := e.flights ++ [⟨o, l.blk, fed⟩] })

/-- The 256 partials of a Silt row. -/
def State.partials (s : State) (p c row : Nat) : List Nat :=
  let x := leNat (s.siltBytes p c (3072 * row) 3072)
  (List.range 256).map (fun j => x / 2 ^ (96 * j) % 2 ^ 96)

/-- A Silt row written with 256 partials. -/
def State.setPartials (s : State) (p c row : Nat) (vs : List Nat) : State :=
  s.siltStore p c (3072 * row) (leBytes 3072 (packElems 96 vs))

/-- Flags into ARR_TSTAT_c (R134). -/
def State.arrFlags (s : State) (p c m : Nat) : State := s.orReg (Reg.arrTstat p c) m

/-- Row r of a conversion, from its partials: scaled, rounded and encoded (R133, R205). (DEDUCED, log entry 17.) -/
def MOp.converted (o : MOp) (r : Nat) (vs : List Nat) : Nat × Flags :=
  let d := o.desc
  let f := outFmt d
  let rm := Rm.ofCode (bits (dfld d 21 1) 5 4)
  let sc := fun (at_ : Nat) => Fmt.fp32.decode (dfld d at_ 4)
  let scales := (if (passFmt d).isMx then [] else [sc 24, sc 28]) ++ (if f.isNarrow then [sc 32] else [])
  let rs := if rm = .sr then (List.range 256).map (fun j =>
      (philoxAt (BitVec.ofNat 64 (dfld d 48 8))
        (o.mib + BitVec.ofNat 64 r * BitVec.ofNat 64 (dfld d 56 8) + BitVec.ofNat 64 j)
        (BitVec.ofNat 32 (dfld d 44 4)) (o.step.setWidth 32)).toNat) else []
  convertRow f rm (bit (dfld d 21 1) 6) scales rs vs

/-- The converted row r of a pass or M.OUT goes to Sand or to its vector register (R205, R206). -/
def State.convertOut (s : State) (p : Nat) (o : MOp) (r : Nat) (vs : List Nat) : State :=
  let c := o.ctx
  let d := o.desc
  let f := outFmt d
  let (x, fl) := o.converted r vs
  let s := s.arrFlags p c fl.word
  if dfld d 22 1 = 1 then
    let per := if f = .bf16 then 4 else 2
    let reg := dfld d 36 4 + r / per
    let n := 512 / per
    let words := (List.range n).map (fun i => BitVec.ofNat 32 (x / 2 ^ (32 * i)))
    s.setVreg p c reg (setLanes (s.vreg p c reg) (n * (r % per)) words)
  else s.sandStore p c (dfld d 36 4 + r * dfld d 40 4) (leBytes (outRowBytes f) x)

/-- The rest of a pass's rows; when none is left its token comes next. -/
def Engine.nextRow (e : Engine) (f : Flight) (rest : List FedRow) (others : List Flight) : Engine :=
  if rest = [] then { e with flights := others, mDone := e.mDone ++ [f.op] }
  else { e with flights := { f with rows := rest } :: others }

/-- A row whose check passes: its partials are written to Silt or added there, and converted with LAST (R129, R137). -/
def State.writeRow (s : State) (p : Nat) (o : MOp) (r : Nat) (outs : List Nat) : State :=
  let c := o.ctx
  let row := dfld o.desc 18 2 + r
  let vs := if passFirst o.word then outs
    else (outs.zip (s.partials p c row)).map (fun (y, old) => p96Add old y)
  let s := s.setPartials p c row vs
  if passLast o.word then s.convertOut p o r vs else s

/-- A row as it leaves the drain: its outputs and its check (R135, R136). -/
def Flight.judge (f : Flight) (fr : FedRow) : RowResult :=
  passRow f.blk (f.op.kind == .passt) fr.lane.isSome fr.codes fr.scales fr.inj

/-- The other rows of the same slot, which are checked in the same cc, parted into those that fail and those that pass
(R137, R138): bit i of `upset` is the upset of the i-th row after the first. -/
def Flight.beside (f : Flight) (fr : FedRow) (rest : List FedRow) (upset : Byte) : List FedRow × List FedRow :=
  let rs := (rest.takeWhile (fun g => g.slot == fr.slot)).zipIdx 1
  let fails := fun (k : FedRow × Nat) => upset.getLsbD k.2 || !(f.judge k.1).ok
  ((rs.filter fails).map (·.1), (rs.filter (fun k => !fails k)).map (·.1))

/-- The arrays that rows belong to, as a mask. -/
def arrayMask (rs : List FedRow) : Nat :=
  (((List.range 4).filter (fun a => rs.any (fun r => r.array == a))).map (2 ^ ·)).foldl (· + ·) 0

/-- A row that passed is written, with the status bits it sets (R129, R134, R137). -/
def State.rowPassed (s : State) (p : Nat) (f : Flight) (fr : FedRow) : State :=
  let r := f.judge fr
  let single := f.blk.fmtW.isMx && f.blk.fmtW.elem == .e2m1 && f.blk.fmtA.elem == .e2m1 && fr.lane.isNone
  (s.writeRow p f.op fr.row r.outs).arrFlags p f.op.ctx (16 * r.nonfin.toNat + 32 * r.mxwin.toNat + 64 * single.toNat)

/-- ARRAY_ROW_CHECK: the next row leaves the drain; its check passes and it is written, or it fails, is written nowhere,
and its context is replayed, with one record for all rows of the slot that fail with it; those of the slot that pass are
written (R135 to R138). A row that adds reads its Silt row (R283). While a full queue keeps an earlier token of the unit the
row stays (R184). The record gives the direction as 0 forward and 1 transposed. (DESIGN CHOICE, log entry 64.) -/
def execArrayRowCheck (p : PhysE) (err : ReadErr) (upset : Byte) (also : Option Second) (s : State) : Out :=
  .next (match (s.engine p).flights with
    | [] => s
    | f :: others =>
      match f.rows with
      | [] => s.modEngine p (fun e => e.nextRow f [] others)
      | fr :: rest =>
        let c := f.op.ctx
        if s.stuck (.m p c) then s
        else
          let trans := f.op.kind == .passt
          let t := s.modEngine p (fun e => e.nextRow f rest others)
          if (f.judge fr).ok && !upset.getLsbD 0 then
            let row := 3072 * (dfld f.op.desc 18 2 + fr.row)
            t.sramRead p c 1 (sramAt 1 row 3072) (if passFirst f.op.word then .ok else err) id (fun t => t.rowPassed p f fr)
          else
            let (more, good) := f.beside fr rest upset
            let t := good.foldl (fun t g => t.rowPassed p f g) t
            (t.bump (Reg.arrChkfail p) (1 + more.length)).replayBoth p c 0x02
              (leBytes 4 (arrayMask (fr :: more)) ++ leBytes 4 fr.slot ++ leBytes 4 trans.toNat ++
                leBytes 4 (1 + more.length)) none also)

/-! ## Folds, conversions and tokens -/

/-- M.FOLD's rows: each is replaced by itself plus its source row under P96 addition (R131, R204). (DEDUCED, log entry
18.) -/
def State.foldAll (s : State) (p : Nat) (o : MOp) : State :=
  (List.range o.rows).foldl (fun s i =>
    let vs := ((s.partials p o.ctx (foldDst o.word + i)).zip (s.partials p o.ctx (foldSrc o.word + i))).map
      (fun (a, b) => p96Add a b)
    s.setPartials p o.ctx (foldDst o.word + i) vs) s

/-- M.OUT's rows, each converted once (R133). -/
def State.outAll (s : State) (p : Nat) (o : MOp) : State :=
  (List.range o.rows).foldl (fun s r => s.convertOut p o r (s.partials p o.ctx (dfld o.desc 18 2 + r))) s

/-- What a pending M instruction waits for (R201): a load for no load and no fold of its context before it; a pass the
same; a fold or a conversion for every earlier token too. -/
def Engine.mCanBegin (e : Engine) (o : MOp) : Bool :=
  e.mLoad.isNone &&
  match o.kind with
  | .loadw | .pass | .passt => e.mDone.all (fun d => d.ctx != o.ctx || (d.kind != .fold && d.kind != .out))
  | .fold | .out => e.flights == [] && e.mDone.all (fun d => d.ctx != o.ctx)

/-- The k-th protected word of rows that lie `stride` bytes apart, each of `n` bytes, going round after the last. -/
def rowWord (tier base stride n rows k : Nat) : Nat :=
  let per := max 1 (ceilDiv n (sramWord tier))
  sramAt tier (base + k / per % max 1 rows * stride) n (k % per)

/-- The words that an M instruction reads as it begins, in order, by tier and address: a load its weight rows and then its
scale codes; a pass its mask, its activation rows and their scale codes; a fold its source rows and then its destination
rows; a conversion its Silt rows (R110, R202, R204). -/
def Engine.mReads (e : Engine) (o : MOp) (k : Nat) : Nat × Nat :=
  let d := o.desc
  match o.kind with
  | .loadw =>
    let f := (Fmt.ofCode (dfld d 12 1 % 16)).getD .fp32
    let n := packedBytes f (dfld d 10 2)
    let all := dfld d 8 2 * max 1 (ceilDiv n 8)
    (0, if k < all ∨ f.isMx = false then rowWord 0 (dfld d 0 4) (dfld d 4 4) n (dfld d 8 2) k
      else rowWord 0 (dfld d 16 4) 8 8 (dfld d 8 2) (k - all))
  | .pass | .passt =>
    match e.block with
    | none => (0, dfld d 0 4)
    | some l =>
      let len := rowLen l.blk (o.kind == .passt)
      let n := packedBytes l.blk.fmtA len
      let m := if passMask o.word then ceilDiv (ceilDiv o.rows 8) 8 else 0
      let all := o.rows * max 1 (ceilDiv n 8)
      (0, if k < m then sramAt 0 (dfld d 8 4) (ceilDiv o.rows 8) k
        else if k < m + all ∨ l.blk.fmtA.isMx = false then rowWord 0 (dfld d 0 4) (dfld d 4 4) n o.rows (k - m)
        else rowWord 0 (dfld d 12 4) 8 8 o.rows (k - m - all))
  | .fold =>
    (1, if k < 256 * o.rows then rowWord 1 (3072 * foldSrc o.word) 3072 3072 o.rows k
      else rowWord 1 (3072 * foldDst o.word) 3072 3072 o.rows (k - 256 * o.rows))
  | .out => (1, rowWord 1 (3072 * dfld d 18 2) 3072 3072 o.rows k)

/-- A pending M instruction begins. -/
def State.mBegin (s : State) (p : Nat) (o : MOp) : State :=
  match o.kind with
  | .loadw => s.beginLoad p o
  | .pass | .passt => s.beginPass p o
  | .fold => (s.foldAll p o).modEngine p (fun e => { e with mDone := e.mDone ++ [o] })
  | .out => (s.outAll p o).modEngine p (fun e => { e with mDone := e.mDone ++ [o] })

/-- LOAD_CORNER_COMPARE: Z_C against Z_R; a block that passes is in the shadow registers, one that fails is never swapped
in and its context is replayed (R112, R139). `err` is what the reads of a reloaded block have met (R283, R415, R507); those of
a load are met as it begins. (DEDUCED, log entry 19.) -/
def execLoadCornerCompare (p : PhysE) (err : ReadErr) (upset : Bool) (also : Option Second) (s : State) : Out :=
  .next (match (s.engine p).mLoad with
    | none => s
    | some (o, l) =>
      let reload := (s.engine p).reloading
      let reads := (s.engine p).mReads o
      let s := s.modEngine p (fun e => { e with mLoad := none, reloading := false })
      s.sramRead p o.ctx 0 (fun k => (reads k).2) (if reload then err else .ok) id (fun s =>
        if l.blk.cornerOk && !upset then s.modEngine p (fun e => { e with shadow := some l })
        else
          let s := s.bump (Reg.arrLoadfail p) 1
          if (s.ctx p o.ctx).resident || (s.ctx p o.ctx).shadow then s.replayBoth p o.ctx 0x03 [] none also
          else (s.countSecond p 0x03 also).sendRec p (s.failRec p o.ctx 0x03 [] also)))

/-- PENDING_M_BEGIN: the holder's pending M instruction begins, reading what it reads of Sand and Silt (R201, R283, R418).
While a full queue keeps an earlier token of the unit it does not begin (R184). (DEDUCED, log entry 18.) -/
def execPendingMBegin (p : PhysE) (err : ReadErr) (s : State) : Out :=
  .next (match (s.engine p).holder with
    | none => s
    | some c =>
      match (s.ctx p c).mPend with
      | none => s
      | some o =>
        if (s.engine p).mCanBegin o && s.holds? p c && !s.stuck (.m p c) then
          let t := s.modCtx p c (fun x => { x with mPend := none })
          let reads := (s.engine p).mReads o
          t.sramRead p c (reads 0).1 (fun k => (reads k).2) err id (fun t => t.mBegin p o)
        else s)

/-- The first finished instruction of a context and the others. -/
def takeDone (c : Nat) : List MOp → Option (MOp × List MOp)
  | [] => none
  | o :: t => if o.ctx = c then some (o, t) else (takeDone c t).map (fun (d, r) => (d, o :: r))

/-- PASS_TOKEN_ENTRY: the token of the holder's oldest finished pass, fold or conversion enters its LOCAL queue, after one
that a full queue keeps (R184, R204, R418). -/
def execPassTokenEntry (p : PhysE) (s : State) : Out :=
  .next (match (s.engine p).holder with
    | none => s
    | some c =>
      match (if s.stuck (.m p c) || !s.holds? p c then none else takeDone c (s.engine p).mDone) with
      | none => s
      | some (o, rest) => (s.modEngine p (fun e => { e with mDone := rest })).deliver p c (.m p c) o.tok)

end Sys2Proof.Machine
end

