-- ==== Sys2Proof/Machine/Control.lean ====
section
/-!
DEFINITION. The control instructions (R196 to R200, R218 to R222, R602, R603). What a commit does when it takes place is
SEGMENT_COMMIT, in Machine/Commit.lean.
-/

namespace Sys2Proof.Machine

/-- The group that follows the one at word a: the word after the first G from a on, or the region's size. -/
def State.afterGroup (s : State) (p c a : Nat) : Nat :=
  let size := (s.imemShare p c).2
  match (List.range 8192).find? (fun i => decide (a + i < size) && wG (s.imemWord p c (a + i))) with
  | some i => a + i + 1
  | none => size

/-- LCn set (R196). -/
def Rec.setLc (r : Rec) (n : Nat) (v : W32) : Rec := { r with lc := r.lc.set n v }

/-- C.NOP: only time passes. -/
def runNop (_ : W64) (s : State) : Ran := .seq s

/-- An END that R198 allows for a loop whose C.LOOP is the last word of the group that ends before `body`. -/
def State.loopEndOk (s : State) (p c body stop : Nat) : Bool :=
  decide (body ≤ stop) && decide (stop < (s.imemShare p c).2) && wG (s.imemWord p c (stop - 1)) &&
  (match (s.ctx p c).cur.loops with | [] => true | l :: _ => decide (stop ≤ l.stop))

/-- C.LOOP (R197, R198). -/
def runLoop (p c : Nat) (w : W64) (s : State) : Ran :=
  let x := s.ctx p c
  let n := (Tab.get 0 x.cur.lc (wbits w 47 45)).toNat
  let stop := wbits w 44 32
  let body := x.cur.pc + x.gi + 1
  if 4 ≤ x.cur.loops.length ∨ s.loopEndOk p c body stop = false then .bad s fMalformed
  else if n = 0 then
    let (ls, pc) := loopEnd stop (s.afterGroup p c stop) x.cur.loops
    .jump (s.modCur p c (fun r => { r with loops := ls })) pc
  else .seq (s.modCur p c (fun r => { r with loops := ⟨body, stop, n⟩ :: r.loops }))

/-- C.WAIT: the head it waited for is popped (R218). -/
def runWait (p c : Nat) (w : W64) (s : State) : Ran :=
  let cls := wbits w 47 44
  let t := ((s.ctx p c).tokens cls).headD 0
  let s := s.modCtx p c (·.pop cls)
  .seq (if w.getLsbD 15 then s.modCur p c (·.setLc (wbits w 14 12) (BitVec.ofNat 32 (tokId t))) else s)

/-- C.ARM (R185). -/
def runArm (p c : Nat) (w : W64) (s : State) : Ran :=
  .seq (s.modCur p c (fun r => { r with ws := r.ws.set (wbits w 47 43) (BitVec.ofNat 16 (wbits w 42 27)) }))

/-- C.SETLC (R196). -/
def runSetlc (p c : Nat) (w : W64) (s : State) : Ran :=
  .seq (s.modCur p c (·.setLc (wbits w 47 45) (BitVec.ofNat 32 (wbits w 31 0))))

/-- A target that a jump may take: inside the region after its block table, and inside the body of every open loop
(R192, R200, R602). -/
def State.targetOk (s : State) (p c t : Nat) : Bool :=
  decide (64 ≤ t) && decide (t < (s.imemShare p c).2) &&
  (s.ctx p c).cur.loops.all (fun l => decide (l.body ≤ t) && decide (t ≤ l.stop))

/-- C.SELECT: the posted selection is consumed and its block-table entry taken (R192, R220). -/
def runSelect (p c : Nat) (_ : W64) (s : State) : Ran :=
  match (s.ctx p c).sel with
  | none => .bad s fMalformed
  | some v =>
    let e := s.imemWord p c v.toNat
    if 64 ≤ v.toNat ∨ 2 ^ 13 ≤ e.toNat ∨ s.targetOk p c e.toNat = false then .bad s fMalformed
    else .jump (s.modCtx p c (fun x => { x with sel := none })) e.toNat

/-- C.JUMP (R200, R602). -/
def runJump (p c : Nat) (w : W64) (s : State) : Ran :=
  if s.targetOk p c (wbits w 12 0) then .jump s (wbits w 12 0) else .bad s fMalformed

/-- The context holds provisional input that no popped CONFIRM has covered (R214, R516). -/
def Ctx.provisional (x : Ctx) : Bool := x.provHeld != []

/-- C.COMMIT and C.END: issue stops until the segment commits (R219). -/
def runCommit (p c : Nat) (hdesc : Option Nat) (ends : Option W32) (s : State) : Ran :=
  if (s.ctx p c).provisional then .bad s fProv
  else .seq (s.modCtx p c (fun x => { x with commit := some ⟨hdesc, ends, x.cur.pc⟩ }))

/-- HDESC of a C.COMMIT: the Sand offset of the held-range list, or none. -/
def hdescOf (w : W64) : Option Nat := if wbits w 47 30 = 0x3FFFF then none else some (64 * wbits w 47 30)

/-- C.SWAPBANK: the copies exchange roles, and its target is judged once its hold for a READY copy has ended (R221, R602).
(DESIGN CHOICE, log entry 112.) -/
def runSwapbank (p c : Nat) (w : W64) (s : State) : Ran :=
  let t := wbits w 12 0
  if (s.ctx p c).cur.loops ≠ [] ∨ t < 64 ∨ (s.imemShare p c).2 ≤ t then .bad s fMalformed
  else .jump (s.modCtx p c (fun x =>
    let b := !x.cur.bankB
    { x with cur := { x.cur with bankB := b }, copyA := if b then .ready else .active, copyB := if b then .active else .ready })) t

/-- C.STEP (R222). -/
def runStep (p c : Nat) (w : W64) (s : State) : Ran :=
  let v := lanePair (s.vOld p c (wbits w 45 40))
  .seq (s.modCur p c (fun r => { r with stepNo := if w.getLsbD 47 then v else r.stepNo + 1 }))

end Sys2Proof.Machine
end

