-- ==== Sys2Proof/Machine/Memory.lean ====
section
/-!
DEFINITION. Global addresses and the tiers behind them: the fields of an address (R279), what a partition owns (R406,
R408), reads and writes of Loam, Clay and Shale (R286, R303, R306), the checks of R280, and the slot tables that a
transfer's pieces need (R290 to R296, R217).
-/

namespace Sys2Proof.Machine

/-! ## Addresses -/

/-- Module identifier, tier code and offset of a global address (R279). -/
def gaMod (ga : Nat) : Nat := bits ga 63 47
def gaTier (ga : Nat) : Nat := bits ga 46 44
def gaOff (ga : Nat) : Nat := bits ga 43 0
/-- Logical engine, context and byte offset of a Sand or Silt address. -/
def gaLe (ga : Nat) : Nat := bits ga 29 24
def gaCtx (ga : Nat) : Nat := bits ga 31 30
def gaLocal (ga : Nat) : Nat := bits ga 23 0

/-- The address has a tier that R279 gives, and 0 in the bits it marks 0 (R280, check 1); it marks none of tier 5. -/
def gaWellFormed (ga : Nat) : Bool :=
  match gaTier ga with
  | 0 | 1 => bits ga 43 32 == 0
  | 2 | 3 => bits ga 43 40 == 0
  | 4 => bits ga 43 43 == 0
  | 5 => true
  | _ => false

/-- The module's own identifier (R371). -/
def State.ownId (s : State) : Nat := s.fld Reg.moduleId 16 0

/-- The global address of a context's Sand share (R279). -/
def State.ctxAddr (s : State) (le c : Nat) : Nat := s.ownId * 2 ^ 47 + c * 2 ^ 30 + le * 2 ^ 24

/-! ## Ownership (R406 to R408) -/

/-- A byte range of Loam lies in the granules of partition q. -/
def State.ownsLoam (s : State) (q off n : Nat) : Bool :=
  let base := s.fld (Reg.partMem q) 9 0
  let count := s.fld (Reg.partMem q) 19 10
  s.partOn q && decide (base * 2 ^ 30 ≤ off) && decide (off + n ≤ (base + count) * 2 ^ 30) && decide (off + n ≤ 576 * 2 ^ 30)

/-- A byte range of Clay lies in the granules of partition q. -/
def State.ownsClay (s : State) (q off n : Nat) : Bool :=
  let base := s.fld (Reg.partMem q) 27 20
  let count := s.fld (Reg.partMem q) 36 28
  s.partOn q && decide (base * 2 ^ 32 ≤ off) && decide (off + n ≤ (base + count) * 2 ^ 32) && decide (off + n ≤ 256 * 2 ^ 32)

/-- SHALE_MAP_g. -/
def State.shaleMap (s : State) (g : Nat) : Nat := (s.reg (Reg.shaleMap g)).toNat

/-- A byte range of Shale lies in valid granules of partition q (R306). -/
def State.ownsShale (s : State) (q off n : Nat) : Bool :=
  s.partOn q && decide (off + n ≤ 2 ^ 43) &&
  (List.range ((off + (n - 1)) / 2 ^ 32 - off / 2 ^ 32 + 1)).all (fun i =>
    let m := s.shaleMap (off / 2 ^ 32 + i)
    bit m 0 && bits m 15 13 == q)

/-- A byte range of Loam, Clay or Shale lies in what the partition owns (R280, check 3). -/
def State.owns (s : State) (q tier off n : Nat) : Bool :=
  match tier with
  | 2 => s.ownsLoam q off n
  | 3 => s.ownsClay q off n
  | 4 => s.ownsShale q off n
  | _ => false

/-! ## Reads and writes -/

/-- The current key generation of a partition (R473). -/
def State.keyGen (s : State) (q : Nat) : Nat := s.fld (Reg.rotStat q) 1 1

/-- The keys of generation g of a partition: slot 2q + g (R457). -/
def State.xtsKeys (s : State) (q g : Nat) : List (BitVec 256) := Tab.get [] s.keys (2 * q + g)

/-- The bundle content key of a GCM slot (R457). -/
def State.gcmKey (s : State) (slot : Nat) : BitVec 256 := (Tab.get [] s.keys slot).headD 0

/-- k keys of 256 bits drawn from the n-th draw on (R453). -/
def drawKeys (n k : Nat) : List (BitVec 256) := (List.range k).map (fun i => (Config.random (n + i)).setWidth 256)

/-- Neither generation of the partition holds a key. -/
def State.keyless (s : State) (q : Nat) : Bool := s.xtsKeys q 0 == [] && s.xtsKeys q 1 == []

/-- The partition of a Clay byte: the enabled one whose range holds its granule, or the one whose Shale the granule backs
(R306, R472). -/
def State.clayOwner (s : State) (off : Nat) : Option Nat :=
  match (List.range 8).find? (fun q => s.ownsClay q off 1) with
  | some q => some q
  | none =>
    ((List.range 2048).find? (fun g =>
      let m := s.shaleMap g
      bit m 0 && bit m 1 && bits m 12 3 == off / 2 ^ 32)).map (fun g => bits (s.shaleMap g) 15 13)

/-- The tweak of a Clay byte's page: its number (R472). -/
def clayUnit (off : Nat) : BitVec 128 := BitVec.ofNat 128 (off / 4096)

/-- The generation that the check symbols of a Clay byte's sector record (R473). -/
def State.clayGenAt (s : State) (off : Nat) : Nat := (s.clayGen.read (off / 64)).toNat

/-- n bytes of partition q's Clay, each sector under the generation it records (R472, R473). (DESIGN CHOICE, log entry 4.) -/
def State.clayGet (s : State) (q off n : Nat) : Bytes :=
  if s.keyless q then s.clay.bytes off n
  else xtsRead s.clay (fun a => s.xtsKeys q (s.clayGenAt a)) clayUnit off n

/-- Bytes written to partition q's Clay: each sector they touch is encrypted under the current generation and records it
(R472, R473). (DESIGN CHOICE, log entry 4.) -/
def State.clayPut (s : State) (q off : Nat) (bs : Bytes) : State :=
  if s.keyless q = true ∨ bs = [] then { s with clay := s.clay.store off bs }
  else
    let g := s.keyGen q
    { s with
      clay := xtsStore s.clay (fun a => s.xtsKeys q (s.clayGenAt a)) (fun _ => s.xtsKeys q g) clayUnit 64 off bs
      clayGen := s.clayGen.store (off / 64)
        (List.replicate ((off + (bs.length - 1)) / 64 + 1 - off / 64) (BitVec.ofNat 8 g)) }

/-- n bytes of Clay; a granule that no partition owns reads as it is stored. (DESIGN CHOICE, log entry 4.) -/
def State.clayBytes (s : State) (off n : Nat) : Bytes :=
  match s.clayOwner off with
  | some q => s.clayGet q off n
  | none => s.clay.bytes off n

/-- Bytes written to Clay. -/
def State.clayStore (s : State) (off : Nat) (bs : Bytes) : State :=
  match s.clayOwner off with
  | some q => s.clayPut q off bs
  | none => { s with clay := s.clay.store off bs }

/-- Where a Shale byte lies: in Clay at an offset, or at an address of a CXL port's device (R306). -/
inductive ShaleAt
  | clay (off : Nat)
  | cxl (port : Bool) (addr : Nat)
  deriving DecidableEq, Repr

/-- The map of R306. -/
def State.shaleAt (s : State) (off : Nat) : ShaleAt :=
  let m := s.shaleMap (off / 2 ^ 32)
  let a := bits m 12 3 * 2 ^ 32 + off % 2 ^ 32
  if bit m 1 then .clay a else .cxl (bit m 2) a

/-- The partition that a Shale byte's map names. -/
def State.shalePart (s : State) (off : Nat) : Nat := bits (s.shaleMap (off / 2 ^ 32)) 15 13

/-- The Shale granules of a partition that a CXL device backs, in ascending order (R477). -/
def State.cxlGranules (s : State) (q : Nat) : List Nat :=
  (List.range 2048).filter (fun g => let m := s.shaleMap g; bit m 0 && !bit m 1 && bits m 15 13 == q)

/-- The tweak of a page of a CXL port's device (R472). -/
def cxlUnit (port : Bool) (a : Nat) : BitVec 128 := BitVec.ofNat 128 (a / 4096 % 2 ^ 30 + port.toNat * 2 ^ 30 + 2 ^ 127)

/-- The generation of a CXL page by its position: during a rotation the pages below the sweep pointer are of the new
generation and the others of the old one (R473). -/
def State.cxlGenAt (s : State) (q off : Nat) : Nat :=
  let g := s.keyGen q
  match s.rot.find? (fun (k, _) => k == q) with
  | none => g
  | some (_, r) =>
    let page := 2 ^ 20 * ((s.cxlGranules q).filter (fun k => decide (k < off / 2 ^ 32))).length + off % 2 ^ 32 / 4096
    if page < r.ptr then g else 1 - g

/-- The memory of a CXL port's device. -/
def State.cxlMem (s : State) (port : Bool) : Mem := if port then s.cxl1 else s.cxl0
/-- That memory replaced. -/
def State.setCxl (s : State) (port : Bool) (m : Mem) : State := if port then { s with cxl1 := m } else { s with cxl0 := m }

/-- The keys of the block at device address b that backs the granule of Shale offset `off`. -/
def State.cxlKeys (s : State) (off b : Nat) : List (BitVec 256) :=
  let q := s.shalePart off
  s.xtsKeys q (s.cxlGenAt q (off / 2 ^ 32 * 2 ^ 32 + b % 2 ^ 32))

/-- n bytes of Shale inside one granule. -/
def State.shaleBytes (s : State) (off n : Nat) : Bytes :=
  let q := s.shalePart off
  match s.shaleAt off with
  | .clay a => s.clayGet q a n
  | .cxl port a =>
    if s.keyless q then (s.cxlMem port).bytes a n else xtsRead (s.cxlMem port) (s.cxlKeys off) (cxlUnit port) a n

/-- Bytes written to Shale inside one granule (R472, R473). -/
def State.shaleStore (s : State) (off : Nat) (bs : Bytes) : State :=
  let q := s.shalePart off
  match s.shaleAt off with
  | .clay a => s.clayPut q a bs
  | .cxl port a =>
    if s.keyless q = true ∨ bs = [] then s.setCxl port ((s.cxlMem port).store a bs)
    else s.setCxl port (xtsStore (s.cxlMem port) (s.cxlKeys off) (s.cxlKeys off) (cxlUnit port) 16 a bs)

/-- The mask that a granule's era puts on a byte of Loam; era 0 puts none. An era begins when the granule's contents are
lost (R287). (DESIGN CHOICE, log entry 99.) -/
def freeMask (era a : Nat) : Byte := if era = 0 then 0 else Config.freeByte era a

/-- The era of a Loam byte's granule. -/
def State.loamEraAt (s : State) (a : Nat) : Nat := Tab.get 0 s.loamEra (a / 2 ^ 30)

/-- n bytes of Loam. -/
def State.loamBytes (s : State) (off n : Nat) : Bytes :=
  (List.range n).map (fun i => s.loam.read (off + i) ^^^ freeMask (s.loamEraAt (off + i)) (off + i))

/-- The Loam regions of the epoch slots that are READY, CURRENT or DRAINING: first byte and length (R361). -/
def State.epochRegions (s : State) : List (Nat × Nat) :=
  (List.range 4).filterMap (fun n =>
    let st := s.fld (Reg.epsStat n) 2 0
    if 2 ≤ st ∧ st ≤ 4 then some ((Tab.get {} s.eps n).dest, 65536 * s.fld (Reg.epsProg n) 63 32) else none)

/-- Bytes written to Loam. In the region of an epoch slot that is READY, CURRENT or DRAINING no unit writes, and the bytes
stay as they are (R361). (DEDUCED, log entry 122.) -/
def State.loamStore (s : State) (off : Nat) (bs : Bytes) : State :=
  let rs := s.epochRegions
  let kept := fun (a : Nat) => rs.any (fun r => decide (r.1 ≤ a) && decide (a < r.1 + r.2))
  { s with loam := s.loam.store off (bs.zipIdx.map (fun (b, i) =>
      if kept (off + i) then s.loam.read (off + i) else b ^^^ freeMask (s.loamEraAt (off + i)) (off + i))) }

/-- n granules of Loam from granule g read 0. -/
def State.loamZero (s : State) (g n : Nat) : State :=
  { s with loam := s.loam.clear (g * 2 ^ 30) (n * 2 ^ 30), loamEra := s.loamEra.filter (fun e => !(decide (g ≤ e.1) && decide (e.1 < g + n))) }

/-- n bytes of a tier at an offset (R279). For Sand and Silt the offset names engine and context; an engine number that no
engine holds reads 0. -/
def State.tierBytes (s : State) (tier off n : Nat) : Bytes :=
  match tier with
  | 0 => match s.physOf (gaLe off) with | some p => s.sandBytes p (gaCtx off) (gaLocal off) n | none => List.replicate n 0
  | 1 => match s.physOf (gaLe off) with | some p => s.siltBytes p (gaCtx off) (gaLocal off) n | none => List.replicate n 0
  | 2 => s.loamBytes off n
  | 3 => s.clayBytes off n
  | _ => s.shaleBytes off n

/-- Bytes written to a tier at an offset. -/
def State.tierStore (s : State) (tier off : Nat) (bs : Bytes) : State :=
  match tier with
  | 0 => match s.physOf (gaLe off) with | some p => s.sandLand p (gaCtx off) (gaLocal off) bs | none => s
  | 1 => match s.physOf (gaLe off) with | some p => s.siltLand p (gaCtx off) (gaLocal off) bs | none => s
  | 2 => s.loamStore off bs
  | 3 => s.clayStore off bs
  | _ => s.shaleStore off bs

/-! ## The checks of R280 -/

/-- Checks 1 and 2 of R280 for the address of a partition: the first that fails, as its fault code. (DEDUCED, log entry
20.) -/
def State.gaBad (s : State) (q ga : Nat) : Option Nat :=
  if !gaWellFormed ga then some fMalformed
  else if gaMod ga ≠ s.ownId ∨ gaTier ga = 5 then some fBound
  else if gaTier ga < 2 then
    match s.physOf (gaLe ga) with
    | none => some fBound
    | some p =>
      if (s.reg (Reg.partEng q)).getLsbD (gaLe ga) && (s.ctx p (gaCtx ga)).resident && (s.ctx p (gaCtx ga)).part == q
      then none else some fBound
  else none

/-- Check 3 of R280 for a byte range from the address: its granules, or the target context's share. -/
def State.gaRangeOk (s : State) (q tier off n : Nat) : Bool :=
  match tier with
  | 0 => match s.physOf (gaLe off) with
    | some p => decide (gaLocal off + n ≤ 2 ^ 24) && s.sandOk p (gaCtx off) (gaLocal off) n | none => false
  | 1 => match s.physOf (gaLe off) with
    | some p => decide (gaLocal off + n ≤ 2 ^ 24) && s.siltOk p (gaCtx off) (gaLocal off) n | none => false
  | t => s.owns q t off n

/-! ## Slots (R290 to R296) -/

/-- Channel numbers (R439). -/
def chanLoam (x : LoamPlace) : Nat := 64 * x.stack + x.pc
def chanClay (x : ClayPlace) : Nat := 768 + x.chan
def chanDa (die : Nat) : Nat := 832 + die

/-- Fields of a slot-table entry (R290). -/
def slStart (w : W32) : Nat := bits w.toNat 12 0
def slMode (w : W32) : Nat := bits w.toNat 14 13
def slWrite (w : W32) : Bool := w.getLsbD 15
def slLe (w : W32) : Nat := bits w.toNat 21 16
def slCtx (w : W32) : Nat := bits w.toNat 23 22
def slFar (w : W32) : Bool := w.getLsbD 24
def slSub (w : W32) : Nat := bits w.toNat 30 25
def slValid (w : W32) : Bool := w.getLsbD 31

/-- The valid slots of a table: entries after the first invalid one are ignored (R290). -/
def validSlots (t : List W32) : List W32 := t.takeWhile slValid

/-- The table of a channel in one of its copies (R297). -/
def State.slotTable (s : State) (copy chan : Nat) : List W32 := Tab.get [] s.slots (1024 * copy + chan)
/-- The active copy. -/
def State.slotCopy (s : State) : Nat := s.fld Reg.slotCtl 2 2

/-- The first bank group, or bank pair, of each slot by the rotation (R292): `two` says that a random slot takes two
consecutive groups. -/
def rotation (m : Nat) (two : Bool) : Nat → List W32 → List (W32 × Nat)
  | _, [] => []
  | g, w :: t => (w, g % m) :: rotation m two (g + if two && slMode w == 2 then 2 else 1) t

/-- A write of a byte range covers part of a sector (R293). -/
def partSector (loam : Bool) (off n : Nat) : Bool :=
  let k := if loam then 32 else 64
  off % k != 0 || (off + n) % k != 0

/-- The accesses that a piece of a tier needs: the slot mode, the address whose bank decides, and whether it covers part of
a sector (R293). -/
def pieceAccesses (loam : Bool) (off n : Nat) : List (Nat × Nat × Bool) :=
  if off % 2048 = 0 ∧ n = 2048 then [(0, off, false)]
  else
    let first := off / 256
    let last := (off + (n - 1)) / 256
    (List.range (last - first + 1)).map (fun i =>
      let b := 256 * (first + i)
      let lo := max off b
      let hi := min (off + (n - 1)) (b + 255)
      (if loam && lo / 32 == hi / 32 then 2 else 1, lo, partSector loam lo (hi + 1 - lo)))

/-- Data cc and length of a slot of a channel (R291, R301). -/
def slotSpan (chan mode : Nat) : Nat × Nat :=
  if chan < 768 then (match mode with | 0 => (96, 101) | 1 => (12, 17) | _ => (3, 9))
  else if chan < 832 then (match mode with | 0 => (170, 178) | 1 => (25, 33) | _ => (10, 18))
  else (96, 96)

/-- A slot of a channel lies in the window of partition q as it stands now (R298). -/
def State.inPartWin (s : State) (q chan : Nat) (w : W32) : Bool :=
  decide (s.fld (Reg.partWin q) 12 0 ≤ slStart w) &&
  decide (slStart w + (slotSpan chan (slMode w)).2 ≤ s.fld (Reg.partWin q) 28 16)

/-- One access of a context of partition q finds a slot of its own on its channel, in the partition's window. -/
def State.slotFor (s : State) (q le c tier mode off : Nat) (write : Bool) : Bool :=
  let find := fun (chan m need : Nat) (two : Bool) =>
    (rotation m two 0 (validSlots (s.slotTable s.slotCopy chan))).any (fun (w, g) =>
      slMode w == mode && slWrite w == write && s.inPartWin q chan w && slLe w == le && slCtx w == c &&
      (g == need || (two && mode == 2 && (g + 1) % m == need)))
  if tier = 2 then
    let x := loamMap (s.reg Reg.loamRowmode).toNat off
    find (chanLoam x) 16 x.bg true
  else
    let x := clayMap off
    find (chanClay x) 8 (x.bank % 8) false

/-- The pieces of a byte range: one for each 2 KiB chunk it touches (R293). -/
def pieces (off n : Nat) : List (Nat × Nat) :=
  if n = 0 then []
  else
    (List.range ((off + (n - 1)) / 2048 - off / 2048 + 1)).map (fun i =>
      let b := 2048 * (off / 2048 + i)
      let lo := max off b
      let hi := min (off + n) (b + 2048)
      (lo, hi - lo))

/-- Every piece of a range of Loam or Clay finds its slots in the active table; a block that covers part of a sector needs a
read slot as well to be written (R217, R293). -/
def State.slotsOk (s : State) (q le c tier off n : Nat) (write : Bool) : Bool :=
  (pieces off n).all (fun (a, k) => (pieceAccesses (tier == 2) a k).all (fun (mode, b, part) =>
    s.slotFor q le c tier mode b write && (!(write && part) || s.slotFor q le c tier mode b false)))

/-- Partition q holds a stream write slot of a P-die writer, `le` with CTX = 0, on a channel (R296). -/
def State.writerOn (s : State) (q le chan : Nat) : Bool :=
  (validSlots (s.slotTable s.slotCopy chan)).any (fun w =>
    slLe w == le && slCtx w == 0 && slMode w == 0 && slWrite w && s.inPartWin q chan w)

/-- Partition q holds such a slot on some channel of a tier (R440). -/
def State.writerSlots (s : State) (q le tier : Nat) : Bool :=
  (if tier = 2 then List.range 768 else (List.range 64).map (· + 768)).any (s.writerOn q le)

/-- Every piece of a range of Loam or Clay that a P-die writer writes finds such a slot on its channel; the other tiers need none
(R296, R363, R384). -/
def State.writerReach (s : State) (q le tier off n : Nat) : Bool :=
  (tier != 2 && tier != 3) || (pieces off n).all (fun (a, _) => s.writerOn q le
    (if tier = 2 then chanLoam (loamMap (s.reg Reg.loamRowmode).toNat a) else chanClay (clayMap a)))

/-- The number that stands for the internal ring of a planned start, beside the 4,096 of the host (R571). (DESIGN CHOICE, log
entry 140.) -/
def intRing : Nat := 4096

/-- The enabled partition whose PART_RING range holds a ring. -/
def State.ringPart (s : State) (r : Nat) : Option Nat :=
  (List.range 8).find? (fun q => s.partOn q && decide (r < 4096) && decide (s.fld (Reg.partRing q) 11 0 ≤ r) &&
    decide (r < s.fld (Reg.partRing q) 11 0 + s.fld (Reg.partRing q) 24 12))

/-- A transfer between the dies finds a run of its context in the DA table out of a die (R301). -/
def State.daOk (s : State) (le c die : Nat) : Bool :=
  (validSlots (s.slotTable s.slotCopy (chanDa die))).any (fun w => slLe w == le && slCtx w == c)

end Sys2Proof.Machine
end

