-- ==== Sys2Proof/Machine/Network.lean ====
section
/-!
DEFINITION. Ports, frames and the switch (R366 to R379): the frames that the module builds, the classification of what
it receives (R373 to R375), routes (R376), transit queues (R378) and calendar slots (R377, R369).
-/

namespace Sys2Proof.Machine

/-! ## Frames (R370, R371) -/

/-- n bytes of a number, most significant first: the order of Ethernet, IP and UDP fields. -/
def beBytes (n x : Nat) : Bytes := (leBytes n x).reverse
/-- A number from bytes, most significant first. -/
def beNum (d : Bytes) (o n : Nat) : Nat := leNat ((d.drop o).take n).reverse

/-- The source MAC of an egress: cc is 2n + s, or 0x20 for the host virtual port (R371). -/
def State.srcMac (s : State) (cc : Nat) : Bytes :=
  [0x02, 0xA7, BitVec.ofNat 8 cc, BitVec.ofNat 8 (s.ownId / 65536)] ++ beBytes 2 (s.ownId % 65536)

/-- The IPv6 address of a module (R370). -/
def State.ip6 (s : State) (m : Nat) : Bytes := beBytes 8 (s.reg Reg.tilthPrefix).toNat ++ beBytes 8 m

/-- The one's complement sum of 16-bit words with its carries folded in (RFC 8200's checksum), complemented; 0 is sent as
all ones. -/
def inetSum : Bytes → Nat
  | [] => 0
  | [a] => 256 * a.toNat
  | a :: b :: t => 256 * a.toNat + b.toNat + inetSum t

/-- The checksum of an IPv6 upper-layer packet with its pseudo-header. -/
def ip6Checksum (src dst : Bytes) (next : Nat) (pkt : Bytes) : Nat :=
  let n := inetSum (src ++ dst ++ beBytes 4 pkt.length ++ beBytes 4 next ++ pkt)
  let n := n % 65536 + n / 65536
  let n := n % 65536 + n / 65536
  let n := n % 65536 + n / 65536
  if n = 65535 then 65535 else 65535 - n

/-- A path word of a route entry (R376). -/
def pwPort (w : Nat) : Nat := bits w 3 0
def pwSub (w : Nat) : Nat := bits w 4 4
def pwValid (w : Nat) : Bool := bit w 5
def pwFlow (w : Nat) : Nat := bits w 25 6

/-- Keys of the switch tables: copy, table, egress (2 × port + sub-port) or input port, entry. -/
def swKey (copy table e i : Nat) : Nat := ((copy * 8 + table) * 32 + e) * 2 ^ 17 + i

/-- The active copy of the switch tables. -/
def State.swCopy (s : State) : Nat := s.fld Reg.swCtl 2 2
/-- GSHIFT. -/
def State.gshift (s : State) : Nat := s.fld Reg.swCtl 5 3

/-- The path word for a module and a path (R376); a word that names a miscabled port counts as not valid (R553). -/
def State.route (s : State) (dmod path : Nat) : Nat :=
  let g := s.gshift
  let e := if dmod / 2 ^ g = s.ownId / 2 ^ g then Tab.get [] s.swtab (swKey s.swCopy 0 0 (dmod % 2 ^ g))
    else Tab.get [] s.swtab (swKey s.swCopy 1 0 (dmod / 2 ^ g))
  let w := dfld e (4 * path) 4
  if pwValid w && s.fld (Reg.nbr (pwPort w)) 25 24 == 2 then w - 32 else w

/-- A port or sub-port is up (LINK_STAT_n). -/
def State.egressUp (s : State) (port sub : Nat) : Bool :=
  if sub = 0 then s.fld (Reg.linkStat port) 2 1 != 0 else s.fld (Reg.linkStat port) 4 3 != 0

/-- The 32-byte Tilth header (R380). -/
def tilthHeader (typ flags paylen smod path dmod sctx dctx psn apsn tok grant : Nat) : Bytes :=
  leBytes 1 (typ + 16) ++ leBytes 1 flags ++ leBytes 2 paylen ++ leBytes 4 (smod + path * 2 ^ 17) ++ leBytes 4 dmod ++
  leBytes 4 sctx ++ leBytes 4 dctx ++ leBytes 4 psn ++ leBytes 4 apsn ++ leBytes 2 tok ++ leBytes 2 grant

/-- The polynomial of the Ethernet FCS, in its reflected form (IEEE 802.3). (PRESUMED, log entry 120.) -/
def polyFcs : W64 := 0xEDB88320

/-- A frame as it leaves: at least 60 bytes, and its FCS (R370, R402). (PRESUMED, log entry 120.) -/
def withFcs (f : Bytes) : Bytes :=
  let f := f ++ List.replicate (60 - f.length) 0
  f ++ leBytes 4 (~~~ ((f.foldl (crcByte polyFcs) 0xFFFFFFFF).setWidth 32) : W32).toNat

/-- A Tilth frame for an egress, before its FCS (R370). -/
def State.tilthFrame (s : State) (pw dmod : Nat) (hdr data : Bytes) : Bytes :=
  let cfg := (s.reg Reg.tilthCfg).toNat
  let body := hdr ++ data ++ (if data = [] then [] else leBytes 4 (crc32c data).toNat)
  let src := s.ip6 s.ownId
  let dst := s.ip6 dmod
  let udp0 := beBytes 2 (0xC000 + pwFlow pw % 2 ^ 14) ++ beBytes 2 (bits cfg 15 0) ++ beBytes 2 (8 + body.length)
  let ck := ip6Checksum src dst 17 (udp0 ++ [0, 0] ++ body)
  (beBytes 6 (s.fld (Reg.portNhmac (pwPort pw) (pwSub pw)) 47 0)) ++ s.srcMac (2 * pwPort pw + pwSub pw) ++
  (if bit cfg 22 then beBytes 2 0x8100 ++ beBytes 2 (bits cfg 37 35 * 2 ^ 13 + bits cfg 34 23) else []) ++
  beBytes 2 0x86DD ++
  beBytes 4 (6 * 2 ^ 28 + (bits cfg 21 16 * 4 + 2) * 2 ^ 20 + pwFlow pw) ++ beBytes 2 (8 + body.length) ++ [17, 64] ++
  src ++ dst ++ udp0 ++ beBytes 2 ck ++ body

/-! ## Egress queues -/

/-- The queue of a source for an egress: key 32 × egress + source (R377). -/
def State.egQueue (s : State) (e src : Nat) : List Bytes := Tab.get [] s.egq (32 * e + src)

/-- A frame enters the queue of its source for an egress. -/
def State.enqueue (s : State) (e src : Nat) (f : Bytes) : State :=
  { s with egq := s.egq.set (32 * e + src) (s.egQueue e src ++ [f]) }

/-- MODULE_ID.VALID (R372). -/
def State.idValid (s : State) : Bool := s.flag Reg.moduleId 17

/-- A frame of the module's own for another module: by its route's egress, from an internal input (R375 to R377). A path
that is not valid discards it (R376). -/
def State.sendTilth (s : State) (pw dmod src : Nat) (hdr data : Bytes) : State :=
  if s.idValid && pwValid pw then s.enqueue (2 * pwPort pw + pwSub pw) src (s.tilthFrame pw dmod hdr data) else s

/-! ## Starts of frames (R369, R377) -/

/-- The length of a slot in ns, by the port's mode and width (R377, R368). -/
def State.slotNs (s : State) (n : Nat) (sub : Bool) : Nat :=
  match (if sub then s.fld (Reg.linkStat n) 4 3 else s.fld (Reg.linkStat n) 2 1) with
  | 1 => 176 | 2 => 88 | _ => 44

/-- The calendar slot of a device time. -/
def State.slotAt (s : State) (n : Nat) (sub : Bool) (t : Nat) : Nat := t / s.slotNs n sub

/-- The frames that an egress has started in the 64 slots that end with the present one: when, and whether the calendar
named them. -/
def State.recentStarts (s : State) (n : Nat) (sub : Bool) : List (Nat × Bool) :=
  (Tab.get [] s.starts (2 * n + sub.toNat)).filter (fun x =>
    decide (x.1 ≤ s.time.toNat) && decide (s.slotAt n sub s.time.toNat < s.slotAt n sub x.1 + 64))

/-- The egress is up and its transmit cap allows one more start (R369). -/
def State.mayStart (s : State) (n : Nat) (sub : Bool) : Bool :=
  s.egressUp n sub.toNat && decide ((s.recentStarts n sub).length ≤ s.fld (Reg.portCfg n) 13 8)

/-- The offset of the EtherType: a frame may carry one 802.1Q tag. -/
def etherAt (f : Bytes) : Nat := if beNum f 12 2 = 0x8100 then 16 else 12

/-- Where a PTP message stands in a frame: by its EtherType, or UDP ports 319 and 320 over IPv6 or IPv4 (R373). -/
def ptpAt (f : Bytes) : Option Nat :=
  let a := etherAt f
  let ihl := beNum f (a + 2) 1 % 16 * 4
  let isPtp := fun (q : Nat) => q == 319 || q == 320
  if beNum f a 2 = 0x88F7 then some (a + 2)
  else if beNum f a 2 = 0x86DD ∧ beNum f (a + 8) 1 = 17 ∧ isPtp (beNum f (a + 44) 2) = true then some (a + 50)
  else if beNum f a 2 = 0x0800 ∧ beNum f (a + 11) 1 = 17 ∧ beNum f (a + 8) 2 % 2 ^ 13 = 0 ∧
      isPtp (beNum f (a + 4 + ihl) 2) = true then some (a + 10 + ihl)
  else none

/-- The timestamp of an event message that a port sends (R403). -/
def State.ptpSent (s : State) (e : Nat) (f : Bytes) : State :=
  match ptpAt f with
  | none => s
  | some o =>
    let t := Tab.get {} s.ptp e
    let stamp := (beNum f (o + 30) 2, s.time)
    match beNum f o 1 % 16 with
    | 0 => { s with ptp := s.ptp.set e { t with syncTx := some stamp } }
    | 1 => { s with ptp := s.ptp.set e { t with reqTx := some stamp } }
    | _ => s

/-- A timestamp of ten bytes in a PTP message, in ns. (PRESUMED, log entry 120.) -/
def ptpNs (m : Bytes) : Int := ((beNum m 34 6 * 1000000000 + beNum m 40 4 : Nat) : Int)

/-- The servo's offset of a slave port from its master: half of (t2 − t1) − (t4 − t3), once the Follow_Up of the last Sync and
the Delay_Resp to the last Delay_Req are here (R403). (PRESUMED, log entry 120.) -/
def PtpPort.servo (t : PtpPort) : PtpPort :=
  match t.syncRx, t.followUp, t.reqTx, t.delayResp with
  | some (m, t2), some f, some (q, t3), some r =>
    if beNum m 30 2 = beNum f 30 2 ∧ beNum r 30 2 = q then
      { t with offset := (((t2.toNat : Int) - ptpNs f) - (ptpNs r - (t3.toNat : Int))) / 2 }
    else t
  | _, _, _, _ => t

/-- A clock's data set as an Announce gives it, in the order in which the best master clock algorithm compares: priority1, class,
accuracy, variance, priority2, identity, steps removed. (PRESUMED, log entry 120.) -/
def ptpDataSet (m : Bytes) : List Nat :=
  [beNum m 47 1, beNum m 48 1, beNum m 49 1, beNum m 50 2, beNum m 52 1, beNum m 53 8, beNum m 61 2]

/-- The module's own data set, that of a clock with no time source of its own. (PRESUMED, log entry 120.) -/
def State.ptpOwn (s : State) : List Nat := [128, 248, 0xFE, 0xFFFF, 128, s.fuse.serial.toNat, 0]

/-- One data set is better than another. -/
def ptpBetter : List Nat → List Nat → Bool
  | a :: as, b :: bs => decide (a < b) || (a == b && ptpBetter as bs)
  | _, _ => false

/-- The port or sub-port whose Announce is the best of all, when it is better than the module's own data set. -/
def State.ptpBest (s : State) : Option Nat :=
  let worse := fun (e : Nat) (b : Option Nat) =>
    let d := fun (k : Nat) => ((Tab.get {} s.ptp k).announce).map ptpDataSet
    match d e, b.bind d with
    | none, _ => b
    | some x, none => if ptpBetter x s.ptpOwn then some e else b
    | some x, some y => if ptpBetter x y || x == y then some e else b
  (List.range 32).foldr worse none

/-- The best master clock algorithm: the port of the best clock is a slave, one that hears another clock better than the module
is passive, and every other is a master (R403). (PRESUMED, log entry 120.) -/
def State.bestMaster (s : State) : State :=
  let b := s.ptpBest
  let own := s.ptpOwn
  let role := fun (e : Nat) (t : PtpPort) =>
    if b = some e then PtpRole.slave
    else if b.isSome && (match t.announce with | some m => ptpBetter (ptpDataSet m) own | none => false) then .passive
    else .master
  { s with ptp := s.ptp.map (fun (e, t) => (e, { t with role := role e t })) }

/-- A PTP message that a port receives goes to the time unit, an event message with its timestamp (R373, R403). -/
def State.ptpReceived (s : State) (e o : Nat) (f : Bytes) : State :=
  let t := Tab.get {} s.ptp e
  let m := f.drop o
  let t := match beNum f o 1 % 16 with
    | 0 => { t with syncRx := some (m, s.time) }
    | 1 => { t with reqRx := some (m, s.time) }
    | 2 | 3 => { t with eventRx := some (m, s.time) }
    | 8 => { t with followUp := some m }
    | 9 => { t with delayResp := some m }
    | 11 => { t with announce := some m }
    | _ => t
  { s with ptp := s.ptp.set e t.servo }.bestMaster

/-- A frame starts on an egress. -/
def State.startFrame (s : State) (n : Nat) (sub calendar : Bool) (f : Bytes) : State :=
  let e := 2 * n + sub.toNat
  (({ s with starts := s.starts.set e (s.recentStarts n sub ++ [(s.time.toNat, calendar)]) }).ptpSent e f).emit
    (.frame n sub (withFcs f))

/-- The queue number of the frames that Gauntlet, the time unit and the answer to a Neighbour Solicitation send. -/
def ownSrc : Nat := 21

/-- A frame of the module that no calendar source names: it starts at once when the cap allows, and waits for a later slot
otherwise (R369, R536). (DESIGN CHOICE, log entry 119.) -/
def State.sendOwn (s : State) (n : Nat) (sub : Bool) (f : Bytes) : State :=
  if (s.egQueue (2 * n + sub.toNat) ownSrc).isEmpty && s.mayStart n sub then s.startFrame n sub false f
  else s.enqueue (2 * n + sub.toNat) ownSrc f

/-! ## Reception (R373 to R375, R378) -/

/-- UDP over IPv6 in a frame: its destination port, and where the IPv6 header begins. -/
def udpPort (f : Bytes) : Option (Nat × Nat) :=
  let a := etherAt f
  if beNum f a 2 = 0x86DD ∧ beNum f (a + 8) 1 = 17 then some (beNum f (a + 2 + 42) 2, a + 2) else none

/-- The Tilth packet of a frame whose IPv6 header begins at ip; none when R374 discards it. -/
def parseTilth (f : Bytes) (ip : Nat) : Option RxPkt :=
  let h := f.drop (ip + 48)
  let typ := dfld h 0 1 % 16
  let fl := dfld h 1 1
  let w4 := dfld h 4 4
  let paylen := dfld h 2 2
  let extra := if paylen = 0 then 0 else 4
  let iid := fun (o : Nat) => beNum f (ip + o + 8) 8
  if dfld h 0 1 / 16 = 1 ∧ 1 ≤ typ ∧ typ ≤ 4 ∧ fl < 64 ∧ w4 < 2 ^ 19 ∧ dfld h 8 4 < 2 ^ 17 ∧ dfld h 12 4 < 2 ^ 20 ∧
     dfld h 16 4 < 2 ^ 20 ∧ dfld h 20 4 < 2 ^ 24 ∧ dfld h 24 4 < 2 ^ 24 ∧
     dfld h 8 4 = iid 24 ∧ w4 % 2 ^ 17 = iid 8 ∧ beNum f (ip + 44) 2 = 8 + 32 + paylen + extra then
    let data := (h.drop 32).take paylen
    some { typ := typ, prov := bit fl 0, eoc := bit fl 1, eot := bit fl 2, ceEcho := bit fl 3, nak := bit fl 4,
           smod := w4 % 2 ^ 17, path := w4 / 2 ^ 17, sctx := dfld h 12 4, dctx := dfld h 16 4, psn := dfld h 20 4,
           apsn := dfld h 24 4, tok := BitVec.ofNat 16 (dfld h 28 2), grant := dfld h 30 2, data := data,
           crcOk := paylen == 0 || dfld (h.drop (32 + paylen)) 0 4 == (crc32c data).toNat,
           ce := beNum f ip 4 / 2 ^ 20 % 4 == 3 }
  else none

/-- A receive half. -/
def State.recvHalf (s : State) (x : Nat) : RecvHalf := Tab.get {} s.recv x
/-- A send half. -/
def State.sendHalf (s : State) (x : Nat) : SendHalf := Tab.get {} s.send x

/-- The internal port that a receive half's kind and target select (R375). -/
def State.internalPort (s : State) (h : RecvHalf) : Nat :=
  if h.kind ≤ 2 then (match s.physOf (h.target % 64) with | some p => dieOf p | none => 0)
  else if h.kind = 3 then 2 else 3

/-- A Tilth packet for this module goes to its send half's ACKs, or to the internal port of its receive half (R375). -/
def State.tilthLocal (s : State) (k : RxPkt) : State :=
  if k.typ = 2 then { s with ackIn := s.ackIn ++ [k] }
  else
    let i := s.internalPort (s.recvHalf k.dctx)
    { s with tilthIn := s.tilthIn.set i (Tab.get [] s.tilthIn i ++ [k]) }

/-- Bytes of a queue. -/
def queueBytes (q : List Bytes) : Nat := (q.map List.length).foldl (· + ·) 0

/-- A transit frame: its route, the room of its input's share for the egress port, the mark of its queue, and its changed
addresses (R371, R375, R376, R378). -/
def State.transit (s : State) (n ip : Nat) (k : RxPkt) (f : Bytes) : State :=
  let dmod := beNum f (ip + 32) 8
  let pw := s.route dmod k.path
  let e := 2 * pwPort pw + pwSub pw
  if beNum f (ip + 7) 1 ≤ 1 ∨ pwValid pw = false then s.bump (Reg.swDrop n) 1
  else
    let held := queueBytes (s.egQueue (2 * pwPort pw) n) + queueBytes (s.egQueue (2 * pwPort pw + 1) n)
    let room := dfld (Tab.get [] s.swtab (swKey s.swCopy 3 n (pwPort pw))) 0 4
    if room < held + f.length then s.bump (Reg.swDrop n) 1
    else
      let w0 := beNum f ip 4
      let ecn := w0 / 2 ^ 20 % 4
      let mark := s.flag Reg.ecnCfg 16 && (ecn == 1 || ecn == 2) && decide (256 * s.fld Reg.ecnCfg 15 0 ≤ held)
      let w1 := if mark then w0 + (3 - ecn) * 2 ^ 20 else w0
      let f' := beBytes 6 (s.fld (Reg.portNhmac (pwPort pw) (pwSub pw)) 47 0) ++ s.srcMac e ++
        (f.take ip).drop 12 ++ beBytes 4 w1 ++ (f.drop (ip + 4)).take 3 ++ beBytes 1 (beNum f (ip + 7) 1 - 1) ++ f.drop (ip + 8)
      let s := if mark then s.bump (Reg.ecnMark (pwPort pw)) 1 else s
      s.enqueue e n f'

/-- The answer to a Neighbour Solicitation for the module's address, in the format of RFC 4861 (R373). -/
def State.advert (s : State) (n : Nat) (sub : Bool) (f : Bytes) (ip : Nat) : Bytes :=
  let mac := s.srcMac (2 * n + sub.toNat)
  let src := s.ip6 s.ownId
  let dst := (f.drop (ip + 8)).take 16
  let opt : Bytes := [2, 1] ++ mac
  let icmp := fun (ck : Nat) => ([136, 0] : Bytes) ++ beBytes 2 ck ++ beBytes 4 0x60000000 ++ src ++ opt
  (f.drop 6).take 6 ++ mac ++ beBytes 2 0x86DD ++ beBytes 4 (6 * 2 ^ 28) ++ beBytes 2 32 ++ [58, 255] ++ src ++ dst ++
  icmp (ip6Checksum src dst 58 (icmp 0))

/-- A frame for the host virtual port fills the oldest posted buffer, or is discarded and counted (R449). -/
def State.hvpReceive (s : State) (n : Nat) (sub : Bool) (f : Bytes) : State :=
  match s.hvpRx with
  | [] => s.bump Reg.hvpRxdrop 1
  | b :: bs =>
    let d := f.take b.len
    (({ s with hvpRx := bs }).emit (.hostWrite b.addr d ((s.ringPart b.ring).bind s.ideOf))).complete b.ring b.idx 0x00
      (BitVec.ofNat 64 (d.length + (2 * n + sub.toNat) * 2 ^ 16 + (if b.len < f.length then 2 ^ 31 else 0)))

/-- FRAME_RECEIVE: the frame goes where the first matching rule of R373 sends it. -/
def execFrameReceive (n : PortId) (sub fcsOk : Bool) (frame : Bytes) (s : State) : Out :=
  .next (
    let a := etherAt frame
    let et := beNum frame a 2
    let udp := udpPort frame
    let icmp := a + 42
    let hvp := s.flag Reg.hvpCfg 0 && (frame.take 6 == s.srcMac 0x20 ||
      (s.flag Reg.hvpCfg 1 && frame.take 6 == List.replicate 6 0xFF))
    let other := if hvp then s.hvpReceive n sub frame else s.bump (Reg.rxDrop n) 1
    if !fcsOk then s.bump (Reg.rxDrop n) 1
    else if et = 0x88CC then s
    else if (ptpAt frame).isSome then s.ptpReceived (2 * n + sub.toNat) ((ptpAt frame).getD 0) frame
    else if et = 0x86DD ∧ beNum frame (a + 8) 1 = 58 ∧ beNum frame icmp 1 = 135 ∧
        (frame.drop (icmp + 8)).take 16 = s.ip6 s.ownId then
      s.sendOwn n sub (s.advert n sub frame (a + 2))
    else match udp with
      | some (q, ip) =>
        if q = s.fld Reg.tilthCfg 15 0 then
          if s.idValid then
            match parseTilth frame ip with
            | none => s.bump Reg.tilthBadhdr 1
            | some k => if beNum frame (ip + 32) 8 = s.ownId then s.tilthLocal k else s.transit n ip k frame
          else s
        else other
      | none => other)

/-! ## Calendar slots (R369, R377) -/

/-- The oldest frame of the host virtual port for an egress leaves: its FRAME_TX completes (R439). -/
def State.frameLeft (s : State) (e : Nat) : State :=
  let l := Tab.get [] s.hvpTx e
  let s := { s with hvpTx := s.hvpTx.set e (l.drop 1) }
  match l with
  | some (r, i) :: _ => s.complete r i 0x00 0
  | _ => s

/-- A frame carries Tilth. -/
def State.isTilth (s : State) (f : Bytes) : Bool :=
  match udpPort f with | some (q, _) => q == s.fld Reg.tilthCfg 15 0 | none => false

/-- The source that the calendar's slot names starts its oldest frame for the egress, within the transmit cap and once a
slot; the host virtual port only while it is enabled (R377, R369, R402). A Tilth frame for a miscabled port is dropped (R553). -/
def State.calendarStart (s : State) (n : Nat) (sub : Bool) : State :=
  let e := 2 * n + sub.toNat
  let k := s.slotAt n sub s.time.toNat
  let src := dfld (Tab.get [] s.swtab (swKey s.swCopy 2 e (k % 1024))) 0 1 % 32
  match s.egQueue e src with
  | [] => s
  | f :: fs =>
    if s.isTilth f = true ∧ s.fld (Reg.nbr n) 25 24 = 2 then { s with egq := s.egq.set (32 * e + src) fs }
    else if src ≤ 20 && s.mayStart n sub && !(s.recentStarts n sub).any (fun x => x.2 && s.slotAt n sub x.1 == k) &&
        (src != 20 || s.flag Reg.hvpCfg 0) then
      let s := if src = 20 then s.frameLeft e else s
      { s with egq := s.egq.set (32 * e + src) fs }.startFrame n sub true f
    else s

/-- A frame that no calendar source names and that the cap has held back starts in a later slot (R369). (DESIGN CHOICE, log
entry 119.) -/
def State.ownStart (s : State) (n : Nat) (sub : Bool) : State :=
  let e := 2 * n + sub.toNat
  match s.egQueue e ownSrc with
  | [] => s
  | f :: fs => if s.mayStart n sub then { s with egq := s.egq.set (32 * e + ownSrc) fs }.startFrame n sub false f else s

/-- A device time that a command brings: forward, and back only while no partition has a resident context (R404). (DEDUCED,
log entry 88.) -/
def State.at_ (s : State) (now : W64) : State :=
  if s.time.toNat < now.toNat ∨ s.anyResident = false then { s with time := now } else s

/-- CALENDAR_SLOT: the source that the slot names starts its oldest frame; a slot without one stays idle for every other
source of the calendar. (DEDUCED, log entry 88.) -/
def execCalendarSlot (n : PortId) (sub : Bool) (now : W64) (s : State) : Out :=
  .next (((s.at_ now).calendarStart n sub).ownStart n sub)

end Sys2Proof.Machine
end

