-- ==== Sys2Proof/Machine/Tilth.lean ====
section
/-!
DEFINITION. Tilth (R380 to R401): send halves, the release, retransmission and failover of packets, the reception and
placement of chunks, the reduction engine, relay chains and the epoch writer.
-/

namespace Sys2Proof.Machine

/-- A send half set. -/
def State.setSend (s : State) (x : Nat) (h : SendHalf) : State := { s with send := s.send.set x h }
/-- A receive half set. -/
def State.setRecv (s : State) (x : Nat) (h : RecvHalf) : State := { s with recv := s.recv.set x h }

/-! ## Sending -/

/-- A packet leaves on its half's current path: as a frame, or inside the module when its peer is the module itself
(R375, R387). -/
def State.sendPkt (s : State) (x : Nat) (h : SendHalf) (k : Pkt) (retx : Bool) : State :=
  let tok := if k.typ = 1 ∧ k.eot = false then 0 else k.tok
  let num := if k.typ = 1 then k.chunk else 0
  if h.dmod = s.ownId then
    s.tilthLocal { typ := k.typ, prov := k.prov, eoc := k.eoc, eot := k.eot, ceEcho := false, nak := false,
                   smod := s.ownId, path := h.path, sctx := x, dctx := h.dctx, psn := k.psn, apsn := num, tok := tok,
                   grant := 0, data := k.data, crcOk := true, ce := false }
  else
    s.sendTilth (s.route h.dmod h.path) h.dmod (16 + k.src)
      (tilthHeader k.typ (k.prov.toNat + 2 * k.eoc.toNat + 4 * k.eot.toNat + 32 * retx.toNat) k.data.length s.ownId
        h.path h.dmod x h.dctx k.psn num tok.toNat 0) k.data

/-- Every unacknowledged packet is sent again in PSN order, with RETX (R392, R393). -/
def State.retransmit (s : State) (x : Nat) : State :=
  let h := s.sendHalf x
  h.unacked.foldl (fun s k => (s.sendPkt x h k true).bump Reg.tilthRetx 1) s

/-- The half enters LOST and a record names its context, its DMOD and its three egresses (R394). -/
def State.lose (s : State) (x : Nat) : State :=
  let h := s.sendHalf x
  let eg := fun (i : Nat) => let w := s.route h.dmod i; leBytes 4 (2 * pwPort w + pwSub w)
  (((s.setSend x { h with sstate := 3 }).bump Reg.tilthLost 1)).sendRec blkNet
    { cls := 0x0F, detail := leBytes 4 x ++ leBytes 4 h.dmod ++ eg 0 ++ eg 1 ++ eg 2 }

/-- The current path fails: the next one, or LOST from path 2; a path that is not valid fails at once in its turn
(R393). -/
def State.failover : Nat → State → Nat → State
  | 0, s, x => s.lose x
  | n + 1, s, x =>
    let h := s.sendHalf x
    if 2 ≤ h.path then s.lose x
    else
      let s := (s.setSend x { h with path := h.path + 1, retries := 0, sstate := 2 }).bump Reg.tilthFailover 1
      let w := s.route h.dmod (h.path + 1)
      if h.dmod ≠ s.ownId ∧ (pwValid w = false ∨ s.egressUp (pwPort w) (pwSub w) = false) then State.failover n s x
      else s.retransmit x

/-- The half's current path leaves by an egress that is down; a path that is not valid counts as one (R393). -/
def State.pathDown (s : State) (h : SendHalf) : Bool :=
  let w := s.route h.dmod h.path
  (h.sstate == 1 || h.sstate == 2) && h.dmod != s.ownId && (!pwValid w || !s.egressUp (pwPort w) (pwSub w))

/-- Every unacknowledged packet is sent again, on the current path or, when it is not valid, on the next (R393). -/
def State.resend (s : State) (x : Nat) : State :=
  let h := s.sendHalf x
  if h.dmod ≠ s.ownId ∧ pwValid (s.route h.dmod h.path) = false then State.failover 3 s x else s.retransmit x

/-- Every half whose current path has gone down fails over (R393). -/
def State.failDown (s : State) : State :=
  (s.send.map (·.1)).foldl (fun s x => if s.pathDown (s.sendHalf x) then State.failover 3 s x else s) s

/-- A chunk number may be handed off: at most CREDIT, modulo 65,536 within 32,768 of HCHUNK, and with window for its
packets (R386). -/
def SendHalf.room (h : SendHalf) (len : Nat) : Bool :=
  decide ((h.credit + 65536 - h.hchunk) % 65536 < 32768) && decide (max 1 (ceilDiv len 4096) + h.infl ≤ h.win + 1)

/-- A chunk cut into its packets (R381). -/
def cutChunk (num src : Nat) (prov eot : Bool) (tok : Tok) : Nat → Bytes → List Pkt
  | 0, _ => []
  | n + 1, d =>
    let rest := d.drop 4096
    let last := rest == []
    { typ := 1, prov := prov, eoc := last, eot := last && eot, chunk := num, tok := tok, data := d.take 4096, src := src } ::
      (if last then [] else cutChunk num src prov eot tok n rest)

/-- A chunk is handed off to a send half (R386). -/
def SendHalf.hand (h : SendHalf) (src : Nat) (prov eot : Bool) (tok : Tok) (d : Bytes) : SendHalf :=
  { h with hchunk := (h.hchunk + 1) % 65536, todo := h.todo ++ cutChunk h.hchunk src prov eot tok 17 d }

/-- PACKET_RELEASE: an OPEN half releases its next packet (R387). -/
def execPacketRelease (x : TCtx) (s : State) : Out :=
  .next (
    let x := x.toNat
    let h := s.sendHalf x
    match h.todo with
    | [] => s
    | k :: ks =>
      if h.sstate ≠ 1 then s
      else
        let w := s.route h.dmod h.path
        if h.dmod ≠ s.ownId ∧ pwValid w = false then State.failover 3 s x
        else
          let k := { k with psn := h.npsn }
          let h := { h with todo := ks, npsn := (h.npsn + 1) % 2 ^ 24, infl := h.infl + 1, unacked := h.unacked ++ [k] }
          (s.setSend x h).sendPkt x h k false)

/-- RETRANSMIT_TIMEOUT: the oldest unacknowledged packet times out (R392, R393). -/
def execRetransmitTimeout (x : TCtx) (s : State) : Out :=
  .next (
    let x := x.toNat
    let h := s.sendHalf x
    if h.unacked = [] ∨ (h.sstate ≠ 1 ∧ h.sstate ≠ 2) then s
    else if h.sstate = 2 ∧ 8 ≤ h.retries then State.failover 3 s x
    else (s.setSend x { h with sstate := 2, retries := if h.sstate = 1 then 1 else h.retries + 1 }).resend x)

/-- EGRESS_DOWN: an egress has gone down, and every half whose current path leaves by it fails over at once (R393). -/
def execEgressDown (n : PortId) (sub : Bool) (s : State) : Out :=
  .next (if s.egressUp n sub.toNat then s else (s.send.map (·.1)).foldl (fun s x =>
    let h := s.sendHalf x
    let w := s.route h.dmod h.path
    if (h.sstate = 1 ∨ h.sstate = 2) ∧ h.dmod ≠ s.ownId ∧ pwPort w = n ∧ pwSub w = sub.toNat then State.failover 3 s x else s) s)

/-- TILTH_ACK_RECEIVE: the oldest received ACK is applied (R392, R397). -/
def execTilthAckReceive (s : State) : Out :=
  .next (match s.ackIn with
    | [] => s
    | k :: ks =>
      let s := { s with ackIn := ks }
      let h := s.sendHalf k.dctx
      if h.sstate ≠ 1 ∧ h.sstate ≠ 2 then s
      else
        let rest := h.unacked.filter (fun u => !decide ((k.apsn + 2 ^ 24 - u.psn) % 2 ^ 24 < 2 ^ 23))
        let acked := h.unacked.length - rest.length
        let due := match h.cut with
          | none => true
          | some t => decide (12000 ≤ (s.time - t).toNat)
        let cutNow := k.ceEcho && due
        let h := { h with
          unacked := rest, infl := h.infl - acked, credit := k.grant
          retries := if 0 < acked then 0 else h.retries
          sstate := if 0 < acked then 1 else h.sstate
          rate := if cutNow then max 1 ((h.rate + 1) / 2) - 1 else h.rate
          cut := if cutNow then some s.time else h.cut }
        let s := s.setSend k.dctx h
        if k.nak then s.resend k.dctx else s)

/-- RATE_INCREASE: RATE + 1 rises by 1, up to 64 (R397). -/
def execRateIncrease (x : TCtx) (s : State) : Out :=
  .next (
    let h := s.sendHalf x.toNat
    if h.sstate = 0 then s else s.setSend x.toNat { h with rate := min 63 (h.rate + 1) })

/-- A vector check of the context is still to come on the engine. -/
def State.checksDue (s : State) (p c : Nat) : Bool := (s.engine p).vchk.any (fun k => k.ctx == c)

/-- CONFIRM_SEND: once the oldest provisional transfer's checks have passed, and no check has stopped its segment, its CONFIRM
follows its data on the internal input of the engine that sent them; its TOKEN is the identifier alone (R380, R387, R515). -/
def execConfirmSend (x : TCtx) (s : State) : Out :=
  .next (
    let h := s.sendHalf x.toNat
    match h.provs with
    | [] => s
    | v :: vs =>
      if v.whole = false ∨ s.checksDue v.p v.c = true ∨ (s.ctx v.p v.c).rep = .restoring then s
      else s.setSend x.toNat { h with
        provs := vs, todo := h.todo ++ [{ typ := 3, tok := BitVec.ofNat 16 (tokId v.tok % 2048), src := dieOf v.p }] })

/-! ## Receiving -/

/-- The target of a QUEUE, DIRECT or EXPERT half: physical engine, context, Sand offset of the receive descriptor
(R382). -/
def State.recvTarget (s : State) (h : RecvHalf) : Option (Nat × Nat × Nat) :=
  (s.physOf (h.target % 64)).map (fun p => (p, bits h.target 7 6, 64 * bits h.target 25 8))

/-- The receive descriptor of a half (R383). -/
def State.recvDesc (s : State) (h : RecvHalf) : Bytes :=
  match s.recvTarget h with
  | some (p, c, o) => s.sandBytes p c o 64
  | none => []

/-- BASE, SIZE, FIRSTCTX, SENDERS, RD and WR of a receive descriptor. (DEDUCED, log entry 23.) -/
def rdBase (d : Bytes) : Nat := dfld d 0 4
def rdSize (d : Bytes) : Nat := dfld d 4 4
def rdRowb (d : Bytes) : Nat := dfld d 8 4
def rdFirst (d : Bytes) : Nat := dfld d 28 4
def rdSenders (d : Bytes) : Nat := dfld d 32 4
def rdRd (d : Bytes) : Nat := dfld d 40 8
def rdWr (d : Bytes) : Nat := dfld d 48 8

/-- The chain that a relay half feeds: the records it has released are those placed (R400). -/
def State.grantOf (s : State) (h : RecvHalf) : Nat :=
  let d := s.recvDesc h
  (match h.kind with
    | 0 => if rdSenders d = 1 then rdRd d + rdSize d + 65535 else h.placed
    | 1 => h.echunk + 1023
    | 4 => h.placed + 3
    | 5 => h.placed + 1
    | _ => h.placed) % 65536

/-- A chunk number lies behind another, modulo 65,536 within 32,768 (R386). -/
def grantRise (old new : Nat) : Bool := decide (0 < (new + 65536 - old) % 65536) && decide ((new + 65536 - old) % 65536 < 32768)

/-- ACK_SEND: an open receive half sends the ACK it owes, or the one that a rise of its GRANT calls for, and repeats the ACK that
raised GRANT last while no packet has come since (R391). A fall of GRANT calls for none. -/
def execAckSend (x : TCtx) (s : State) : Out :=
  .next (
    let x := x.toNat
    let h := s.recvHalf x
    let g := s.grantOf h
    let rise := grantRise h.grant g
    if h.rstate ≠ 1 ∨ (h.ackpend = false ∧ rise = false ∧ h.raised = false) then s
    else
      let apsn := (h.epsn + 2 ^ 24 - 1) % 2 ^ 24
      let s := s.setRecv x { h with ackpend := false, ce := false, nak := false, grant := g, raised := rise || (h.raised && g == h.grant) }
      if h.pmod = s.ownId then
        s.tilthLocal { typ := 2, prov := false, eoc := false, eot := false, ceEcho := h.ce, nak := h.nak, smod := s.ownId,
                       path := h.path, sctx := x, dctx := h.pctx, psn := 0, apsn := apsn, tok := 0, grant := g, data := [],
                       crcOk := true, ce := false }
      else s.sendTilth (s.route h.pmod h.path) h.pmod (16 + s.internalPort h)
        (tilthHeader 2 (8 * h.ce.toNat + 16 * h.nak.toNat) 0 s.ownId h.path h.pmod x h.pctx 0 apsn 0 g) [])

/-- The receive half's answer to a packet's PSN (R388): accepted, or the state that a duplicate, an early packet, a bad
check value or a closed half leaves. The record of a bad payload check value names the receive unit in the first 4 bytes of its
detail. (DESIGN CHOICE, log entry 137.) -/
def State.accept (s : State) (i : Nat) (k : RxPkt) : RecvHalf × State ⊕ State :=
  let h := s.recvHalf k.dctx
  let d := (k.psn + 2 ^ 24 - h.epsn) % 2 ^ 24
  if !k.crcOk then
    .inr ((s.bump (Reg.cuffRxfail i) 1).sendRec blkNet { cls := 0x0E, detail := leBytes 4 i })
  else if h.rstate ≠ 1 then .inr (s.bump Reg.tilthBadhdr 1)
  else if k.prov && !(h.kind == 1 || (h.kind == 0 && rdSenders (s.recvDesc h) == 1)) then .inr (s.bump Reg.tilthBadhdr 1)
  else if d = 0 then
    .inl ({ h with epsn := (h.epsn + 1) % 2 ^ 24, ackpend := true, raised := false, path := k.path, ce := h.ce || k.ce }, s)
  else if 2 ^ 23 ≤ d then .inr ((s.bump Reg.tilthDup 1).setRecv k.dctx { h with ackpend := true, raised := false, path := k.path })
  else .inr (s.setRecv k.dctx { h with ackpend := true, nak := true, raised := false, path := k.path })

/-- The next packet of an internal port, when it is of a type. -/
def State.nextIn (s : State) (i typ : Nat) : Option (RxPkt × State) :=
  match Tab.get [] s.tilthIn i with
  | k :: ks => if k.typ = typ then some (k, { s with tilthIn := s.tilthIn.set i ks }) else none
  | [] => none

/-- TILTH_DATA_RECEIVE: the next DATA packet of an internal port (R255, R388, R389, R518). -/
def execTilthDataReceive (i : Fin 4) (s : State) : Out :=
  .next (match s.nextIn i 1 with
    | none => s
    | some (k, s) =>
      match s.accept i k with
      | .inr t => t
      | .inl (h, s) =>
        let buf := h.buf ++ k.data
        if k.eoc then
          let n := h.inXfer + 1
          { s.setRecv k.dctx { h with
              buf := [], echunk := (h.echunk + 1) % 65536
              done := h.done ++ [⟨s.fresh, buf, k.eot, k.tok, k.prov, h.xferNo⟩]
              inXfer := if k.eot then 0 else n, xferNo := if k.eot then h.xferNo + 1 else h.xferNo
              inProv := k.prov && !k.eot
              provs := if k.eot && k.prov then h.provs ++ [(k.tok, n, h.xferNo)] else h.provs } with fresh := s.fresh + 1 }
        else s.setRecv k.dctx { h with buf := buf, inProv := k.prov })

/-- A token of Tilth enters the queue of the target context of receive context x, or is held with what follows on x (R184); a NET
token with the transfer that brings it (R516, R517). -/
def State.targetToken (s : State) (x : Nat) (h : RecvHalf) (t : Tok) (g : NetTag) : State :=
  match s.recvTarget h with
  | some (p, c, _) =>
    (if tokClass t = 3 ∧ t ≠ 0 then s.modCtx p c (fun y => { y with netTags := y.netTags ++ [g] }) else s).deliver p c (.tilth x) t
  | none => s

/-- A packet whose receive context holds a token that its target's queue has not taken waits at its port (R184). -/
def State.nextFree (s : State) (i typ : Nat) : Option (RxPkt × State) :=
  match s.nextIn i typ with
  | some (k, t) => if s.stuck (.tilth k.dctx) then none else some (k, t)
  | none => none

/-- TILTH_CONFIRM_RECEIVE: a CONFIRM delivers its token with identifier bit 11 clear (R183, R395). -/
def execTilthConfirmReceive (i : Fin 4) (s : State) : Out :=
  .next (match s.nextFree i 3 with
    | none => s
    | some (k, s) =>
      match s.accept i k with
      | .inr t => t
      | .inl (h, s) =>
        (s.setRecv k.dctx { h with provs := h.provs.filter (fun v => tokId v.1 % 2048 != tokId k.tok % 2048) }).targetToken k.dctx h
          (mkTok 6 (tokId k.tok % 2048)) {})

/-- A context is stopped for a replay that no check of its engine called for (R517). -/
def State.tierReplay (s : State) (p c : Nat) : State :=
  (s.stopForReplay p c).modCtx p c (fun x => { x with repFault := some ⟨0, none⟩, sameAddr := 1 })

/-- The NET tokens of some transfers leave the context, those in the queue, those held before it and those popped (R517). -/
def Ctx.dropNet (x : Ctx) (gone : NetTag → Bool) : Ctx :=
  let left := fun (ts : List Tok) (gs : List NetTag) => (ts.zip gs).filter (fun k => !gone k.2)
  let q := left (x.tokens 3) x.netTags
  let h := ((Tab.get [] x.heldTok 3).zip (x.netTags.drop (x.tokens 3).length)).filter (fun k => !gone k.2)
  let w := left (Tab.get [] x.popped 3) x.netPopped
  { x with
    queue := x.queue.set 3 (q.map (·.1)), popped := x.popped.set 3 (w.map (·.1)), netPopped := w.map (·.2)
    heldTok := x.heldTok.set 3 (h.map (·.1))
    netTags := q.map (·.2) ++ h.map (·.2), provHeld := x.provHeld.filter (fun k => !gone k.2) }

/-- What a RETRACT of an identifier covers on a receive half: the number of its transfer, its complete chunks, and whether the
transfer is the one that is still arriving (R395, R517). -/
def RecvHalf.retracts (h : RecvHalf) (id : Nat) : Option (Nat × Nat × Bool) :=
  match h.provs.find? (fun v => tokId v.1 % 2048 == id) with
  | some (_, n, k) => some (k, n, false)
  | none => if h.inProv then some (h.xferNo, h.inXfer, true) else none

/-- The half without a retracted transfer: ECHUNK and P_i go back by its chunks (R395). -/
def RecvHalf.rewind (h : RecvHalf) (k n : Nat) (part : Bool) : RecvHalf :=
  let waiting := (h.done.filter (fun r => r.xfer == k)).length
  { h with
    echunk := (h.echunk + 65536 - n % 65536) % 65536, placed := h.placed - (n - waiting)
    done := h.done.filter (fun r => r.xfer != k), buf := if part then [] else h.buf
    inXfer := if part then 0 else h.inXfer, inProv := !part && h.inProv, provs := h.provs.filter (fun v => v.2.2 != k) }

/-- TILTH_RETRACT_RECEIVE: a RETRACT takes back its transfer's chunks, NET tokens and placement, delivers its token and
starts a replay of the target's segment, unless the target has stopped for good (R395, R517). (DEDUCED, log entry 24.) -/
def execTilthRetractReceive (i : Fin 4) (s : State) : Out :=
  .next (match s.nextFree i 4 with
    | none => s
    | some (k, s) =>
      match s.accept i k with
      | .inr t => t
      | .inl (h, s) =>
        let r := h.retracts (tokId k.tok % 2048)
        let g := match r with | some (x, n, part) => h.rewind x n part | none => h
        let m := h.placed - g.placed
        let s := s.setRecv k.dctx g
        match s.recvTarget h with
        | none => s
        | some (p, c, o) =>
          let d := s.sandBytes p c o 64
          let s := if h.kind ≤ 1 then s.sandLand p c (o + 48) (leBytes 8 (rdWr d - m)) else s
          let s := match r with
            | some (n, _) => s.modCtx p c (·.dropNet (fun t => t.prov && t.x == k.dctx && t.xfer == n))
            | none => s
          let s := s.deliver p c (.tilth k.dctx) (mkTok 6 (2048 + tokId k.tok % 2048))
          let st := (s.ctx p c).st
          if st = .free ∨ st = .halted ∨ st = .ended then s else s.tierReplay p c)

/-! ## Placement (R389) -/

/-- DET_CTL.STRICT. -/
def State.strict (s : State) : Bool := s.flag Reg.detCtl 0

/-- A delivery into bytes of a context: into held ones it makes the context fault, by no instruction of its own (R224), and nothing
lands (R274, R384). A context that has stopped does not fault again. (DEDUCED, log entry 121.) -/
def State.landing (s : State) (p c tier a n : Nat) (eff : State) : State :=
  let x := s.ctx p c
  if x.holds tier a n then
    (if x.st = .halted ∨ x.st = .ended ∨ x.st = .free then s else s.fault p c fHeld 6 x.cur.pc)
  else eff

/-- WR of a receive descriptor counts one more chunk (R383). -/
def State.bumpWr (s : State) (p c o : Nat) (d : Bytes) : State := s.sandLand p c (o + 48) (leBytes 8 (rdWr d + 1))

/-- A chunk leaves its half's waiting list once it is placed, and its token is delivered with the transfer that it ends; `tell`
is false for one that delivers none (R389, R516). -/
def State.placed (s : State) (x : Nat) (k : RxChunk) (tell : Bool) : State :=
  let h := s.recvHalf x
  let s := s.setRecv x { h with done := h.done.drop 1, placed := h.placed + 1, ended := h.ended || k.eot, bytes := h.bytes + k.data.length }
  if k.eot && tell then s.targetToken x h k.tok ⟨x, k.xfer, k.prov⟩ else s

/-- Every sender of an exchange has ended. -/
def State.allEnded (s : State) (first n : Nat) : Bool := (List.range n).all (fun i => (s.recvHalf (first + i)).ended)

/-- The exchange is over: its senders start anew. -/
def State.newExchange (s : State) (first n : Nat) : State :=
  let s := (List.range n).foldl (fun s i => s.setRecv (first + i) { s.recvHalf (first + i) with ended := false, bytes := 0 }) s
  { s with exch := s.exch.del first }

/-- The next sender in turn that has not ended (R389). -/
def State.nextTurn (s : State) (first n turn : Nat) : Nat :=
  match (List.range n).find? (fun j => !(s.recvHalf (first + (turn + 1 + j) % n)).ended) with
  | some j => (turn + 1 + j) % n
  | none => 0

/-- Every sender of an exchange has its first chunk here, or the exchange has begun (R51). -/
def State.allHere (s : State) (first n : Nat) : Bool :=
  (Tab.get {} s.exch first).begun || (List.range n).all (fun i => (s.recvHalf (first + i)).done != [])

/-- No other sender's next chunk was complete before this one (R50, R389). -/
def State.firstDone (s : State) (first n : Nat) (k : RxChunk) : Bool :=
  (List.range n).all (fun i => match (s.recvHalf (first + i)).done with
    | j :: _ => decide (k.stamp ≤ j.stamp)
    | [] => true)

/-- The chunk at the head of a receive context is the next of its exchange: under STRICT its sender has the turn, otherwise
it was complete first (R50, R389). -/
def State.chunkTurn (s : State) (x first n : Nat) (k : RxChunk) : Bool :=
  if s.strict then first + (Tab.get {} s.exch first).turn == x else s.firstDone first n k

/-- A chunk of a QUEUE exchange goes to ring slot WR mod SIZE when it is its turn and a slot is free; under STRICT a shared
queue's first chunk waits for every sender's (R51). -/
def State.placeQueue (s : State) (x p c o : Nat) (d : Bytes) (k : RxChunk) : State :=
  let first := rdFirst d
  let n := rdSenders d
  let e := Tab.get {} s.exch first
  let at_ := rdBase d + rdWr d % rdSize d * 65536
  if rdSize d ≤ rdWr d - rdRd d ∨ rdSize d = 0 ∨
      (1 < n ∧ (s.chunkTurn x first n k = false ∨ (s.strict = true ∧ s.allHere first n = false))) then s
  else s.landing p c 0 at_ k.data.length (
    let s := ((s.sandLand p c at_ k.data).bumpWr p c o d).placed x k true
    if n ≤ 1 then s
    else if s.allEnded first n then s.newExchange first n
    else { s with exch := s.exch.set first { e with begun := true, turn := s.nextTurn first n (x - first) } })

/-- A chunk of an EXPERT exchange: its rows follow those placed, in the row buffer or the overflow region; after the last
end marker the count and the token follow. An exchange that is discarded delivers no token from the chunk on that shows it (R353,
R389). Bytes of the overflow region wait for stream write slots with LE = 62 (R296, R384). (DEDUCED, log entry 138.) -/
def State.placeExpert (s : State) (x p c o : Nat) (d : Bytes) (k : RxChunk) : State :=
  let first := rdFirst d
  let n := rdSenders d
  let e := Tab.get {} s.exch first
  if s.chunkTurn x first n k = false then s
  else
    let cap := rdSize d * rdRowb d
    let room := (rdSize d + dfld d 24 4) * rdRowb d
    let toBuf := k.data.take (cap - e.bytes)
    let toOvf := (k.data.drop (cap - e.bytes)).take (room - max cap e.bytes)
    let ovf := bits (dfld d 16 8) 39 0 + (max cap e.bytes - cap)
    let bad := e.bad || decide (room < e.bytes + k.data.length) ||
      (k.eot && (rdRowb d == 0 || ((s.recvHalf x).bytes + k.data.length) % rdRowb d != 0))
    let ends := k.eot && (List.range n).all (fun i => first + i == x || (s.recvHalf (first + i)).ended)
    if toOvf ≠ [] ∧ s.writerReach (s.ctx p c).part 62 2 ovf toOvf.length = false then s
    else s.landing p c 0 (rdBase d + e.bytes) toBuf.length (s.landing p c 2 ovf toOvf.length
      (s.landing p c 0 (dfld d 12 4) (if ends then 8 else 0) (
    let s := s.sandLand p c (rdBase d + e.bytes) toBuf
    let s := if toOvf = [] then s else s.tierStore 2 ovf toOvf
    let s := (s.bumpWr p c o d).placed x k (!bad)
    let h := s.recvHalf x
    let e := { e with
      begun := true
      bytes := e.bytes + k.data.length
      bad := bad
      turn := if k.eot then e.turn + 1 else e.turn }
    let s := { s with exch := s.exch.set first e }
    if s.allEnded first n then
      let s := s.newExchange first n
      if e.bad then s.sendRec blkNet { s.ctxRec p c 0x13 (leBytes 4 first) with run := 0 }
      else (s.sandLand p c (dfld d 12 4) (leBytes 8 (e.bytes / rdRowb d))).targetToken x h (BitVec.ofNat 16 (dfld d 36 2)) {}
    else s)))

/-- A chunk of a DIRECT context lands at ADDR + c × 65,536, when that lies in what the target's partition owns (R384). The
context whose share or whose held tier range it is faults when it is held (R274). Into Loam or Clay it waits for stream write slots
with LE = 62 (R296, R384). (DEDUCED, log entry 138.) -/
def State.placeDirect (s : State) (x p c o : Nat) (d : Bytes) (k : RxChunk) : State :=
  let ga := dfld d 16 8
  let tier := gaTier ga
  let off := gaOff ga + (s.recvHalf x).placed % 65536 * 65536
  let q := (s.ctx p c).part
  let (p', c', a) := if tier < 2 then ((s.physOf (gaLe off)).getD p, gaCtx off, gaLocal off) else (p, c, off)
  if (s.gaBad q ga).isNone && s.gaRangeOk q tier off k.data.length then
    if s.writerReach q 62 tier off k.data.length = false then s
    else s.landing p' c' tier a k.data.length (((s.tierStore tier off k.data).bumpWr p c o d).placed x k true)
  else s.placed x k false

/-- The OUT contexts of a P-die descriptor (R398, R401). -/
def pdOuts (d : Bytes) : List Nat := (List.range (min 64 (dfld d 28 1))).map (fun i => dfld d (64 + 4 * i) 4 % 2 ^ 20)

/-- An entry of the P-die descriptor table (R384). -/
def State.pdEntry (s : State) (i : Nat) : Bytes := Tab.get [] s.swtab (swKey s.swCopy 4 0 i)

/-- Every OUT context has room for a chunk. -/
def State.outsRoom (s : State) (d : Bytes) (len : Nat) : Bool :=
  (pdOuts d).all (fun o => ((s.sendHalf o).sstate == 1 || (s.sendHalf o).sstate == 2) && (s.sendHalf o).room len)

/-- A chunk handed to every OUT context. -/
def State.handOuts (s : State) (d : Bytes) (src : Nat) (eot : Bool) (tok : Tok) (data : Bytes) : State :=
  (pdOuts d).foldl (fun s o => s.setSend o ((s.sendHalf o).hand src false eot tok data)) s

/-- CHUNK_PLACEMENT: the next complete chunk of a receive half is placed by its kind (R384, R389, R401). `err` is what the read of
the receive descriptor in the target's Sand meets, while the target has a context that runs (R283). -/
def execChunkPlacement (x : TCtx) (err : ReadErr) (s : State) : Out :=
  .next (
    let x := x.toNat
    let h := s.recvHalf x
    match h.done with
    | [] => s
    | k :: _ =>
      if h.rstate ≠ 1 ∨ s.stuck (.tilth x) = true then s
      else if h.kind ≤ 2 then
        match s.recvTarget h with
        | none => s
        | some (p, c, o) =>
          let st := (s.ctx p c).st
          let place := fun (s : State) =>
            let d := s.sandBytes p c o 64
            match h.kind with
            | 0 => s.placeQueue x p c o d k
            | 1 => s.placeDirect x p c o d k
            | _ => s.placeExpert x p c o d k
          if st = .free ∨ st = .halted ∨ st = .ended then place s
          else s.sramRead p c 0 (sramAt 0 o 64) err (fun s => s) place
      else if h.kind = 5 then
        let d := s.pdEntry (h.target % 4096)
        if s.outsRoom d k.data.length then (s.handOuts d 3 k.eot k.tok k.data).placed x k false else s
      else s)

/-! ## The reduction engine (R398, R399, R502) -/

/-- Two operand chunks folded element by element: OP 0 in FP32, OP 1 in P96. -/
def foldChunk (op : Nat) (a b : Bytes) : Bytes :=
  let w := if op = 0 then 4 else 12
  (List.range (a.length / w)).flatMap (fun i =>
    let x := dfld a (w * i) w
    let y := dfld b (w * i) w
    leBytes w (if op = 0 then Fmt.fp32.add x y else p96Add x y))

/-- The receive contexts of an entry. -/
def pdSenders (d : Bytes) : List Nat := (List.range (dfld d 4 4)).map (dfld d 8 4 + ·)

/-- The operand chunks of the present position with their arrival stamps, when every sender has one. -/
def State.operands (s : State) (xs : List Nat) : Option (List RxChunk) :=
  xs.mapM (fun x => (s.recvHalf x).done.head?)

/-- Chunks in order of arrival. -/
def byStamp (ks : List RxChunk) : List RxChunk :=
  ks.foldr (fun k l => l.takeWhile (fun j => decide (j.stamp < k.stamp)) ++ [k] ++ l.dropWhile (fun j => decide (j.stamp < k.stamp))) []

/-- The exchange of an entry is discarded with a record (R398). -/
def State.dropExchange (s : State) (e : Nat) (xs : List Nat) : State :=
  let s := xs.foldl (fun s x => s.setRecv x { s.recvHalf x with done := [] }) s
  { s with folds := s.folds.del e }.sendRec blkNet { cls := 0x14, detail := leBytes 4 e }

/-- REDUCTION_FOLD: chunk position j of an entry, from every sender, folded in sender order under STRICT and in arrival
order otherwise, compared between the two copies, and sent on the OUT contexts. -/
def execReductionFold (entry : BitVec 12) (upset : Bool) (s : State) : Out :=
  .next (
    let e := entry.toNat
    let d := s.pdEntry e
    let xs := pdSenders d
    let op := dfld d 0 1
    let f := Tab.get {} s.folds e
    match s.operands xs with
    | none | some [] => s
    | some (k0 :: kt) =>
      let ks := k0 :: kt
      let last := f.pos + 1 == dfld d 12 4
      let len := if last then dfld d 16 4 else k0.data.length
      if 2 ≤ op ∨ ks.any (fun k => k.data.length != len || k.eot != last) then s.dropExchange e xs
      else
        let ord := if s.strict then ks else byStamp ks
        let r := match ord with
          | [] => []
          | a :: t => t.foldl (fun acc k => foldChunk op acc k.data) a.data
        if upset then
          if f.missed then s.dropExchange e xs
          else { s with folds := s.folds.set e { f with missed := true } }.sendRec blkNet { cls := 0x1B, detail := leBytes 4 e }
        else if s.outsRoom d r.length then
          let s := s.handOuts d 2 last (BitVec.ofNat 16 (dfld d 30 2)) r
          let s := xs.foldl (fun s x =>
            let h := s.recvHalf x
            s.setRecv x { h with done := h.done.drop 1, placed := h.placed + 1 }) s
          { s with folds := if last then s.folds.del e else s.folds.set e { pos := f.pos + 1 } }
        else s)

/-! ## Relay chains and the epoch writer (R363 to R365, R400) -/

/-- The buffer of a chain. -/
def State.relayBuf (s : State) (k : Nat) : List RelayRec := Tab.get [] s.relay k

/-- Records that are forwarded and, if kept, processed leave the buffer, and the chain's receive context may grant more
(R364, R400). -/
def State.relaySweep (s : State) (k : Nat) (b : List RelayRec) : State :=
  let stay := b.filter (fun r => r.fwd || r.keep)
  let x := s.fld (Reg.relayA k) 27 8
  let h := s.recvHalf x
  { s with relay := s.relay.set k stay }.setRecv x { h with placed := h.placed + (b.length - stay.length) }

/-- RELAY_RECORD_COMPLETE: a complete record enters the chain's buffer of four (R364). -/
def execRelayRecordComplete (k : Fin 8) (s : State) : Out :=
  .next (
    let a := (s.reg (Reg.relayA k)).toNat
    let b := (s.reg (Reg.relayB k)).toNat
    let x := bits a 27 8
    let h := s.recvHalf x
    match h.done with
    | [] => s
    | r :: rs =>
      if bit a 0 && h.rstate == 1 && h.kind == 4 && h.target % 8 == k.val && decide ((s.relayBuf k).length < 4) then
        let i := dfld r.data 16 8
        let kept := decide (bits b 31 0 ≤ i) && decide (i < bits b 63 32)
        (s.setRecv x { h with done := rs }).relaySweep k (s.relayBuf k ++ [⟨r.data, !bit a 1, kept⟩])
      else s)

/-- The first record of a list that meets a test, changed. -/
def changeFirst (f : RelayRec → Bool) (g : RelayRec → RelayRec) : List RelayRec → List RelayRec
  | [] => []
  | r :: t => if f r then g r :: t else r :: changeFirst f g t

/-- RELAY_FORWARD: the oldest record still to be forwarded is handed to the OUT context (R364, R386). -/
def execRelayForward (k : Fin 8) (s : State) : Out :=
  .next (
    let o := s.fld (Reg.relayA k) 47 28
    let h := s.sendHalf o
    match (s.relayBuf k).find? (·.fwd) with
    | none => s
    | some r =>
      if (h.sstate = 1 ∨ h.sstate = 2) ∧ h.room r.data.length = true then
        (s.setSend o (h.hand 3 false false 0 r.data)).relaySweep k
          (changeFirst (·.fwd) (fun r => { r with fwd := false }) (s.relayBuf k))
      else s)

/-- STATE of an epoch slot (R357). -/
def State.epState (s : State) (n : Nat) : Nat := s.fld (Reg.epsStat n) 2 0

/-- The GCM slot that a LOADING epoch slot names is zeroed, with its tag, as it ceases to be in use (R458, R491). -/
def State.endKey (s : State) (n : Nat) : State :=
  let e := Tab.get {} s.eps n
  { s with keys := s.keys.del e.key, gcmTag := s.gcmTag.del e.key, eps := s.eps.set n { e with key := 0 } }

/-- The last expected chunk is verified: the slot is READY and the owner is told (R358). -/
def State.epochReady (s : State) (n : Nat) : State :=
  ((s.setFld (Reg.epsStat n) 2 0 2).endKey n).event (s.fld (Reg.epsStat n) 5 3) 0x0005
    (leBytes 4 n ++ leBytes 4 0 ++ leBytes 8 (s.reg (Reg.epsId n)).toNat)

/-- The running contexts of a partition that hold bytes of Loam to which a relay chain delivers (R274): the relay buffer
itself has no address, and what it delivers lands in the epoch slot's region. (DEDUCED, log entry 121.) -/
def State.loamHolders (s : State) (q a n : Nat) : List (Nat × Nat) :=
  (s.residents q).filter (fun k =>
    let x := s.ctx k.1 k.2
    x.holds 2 a n && x.st != .halted && x.st != .ended)

/-- BUNDLE_CHUNK_VERIFY: the oldest kept record of a chain goes through the GCM engines to its epoch slot (R363). A record that
matches a slot whose chunks are all verified is not looked at again, and one whose bytes find no stream write slot with LE = 63
waits (R296). (DEDUCED, log entry 138.) -/
def execBundleChunkVerify (k : Fin 8) (upset : Bool) (s : State) : Out :=
  .next (match (s.relayBuf k).find? (·.keep) with
    | none => s
    | some r =>
      let n := s.fld (Reg.relayA k) 3 2
      let s0 := s
      let s := s.relaySweep k (changeFirst (·.keep) (fun r => { r with keep := false }) (s.relayBuf k))
      let e := Tab.get {} s.eps n
      let i := dfld r.data 16 8
      let len := dfld r.data 24 4
      let nexp := s.fld (Reg.epsProg n) 63 32
      let detail := leBytes 4 n ++ leBytes 8 i
      let st := s.epState n
      if st < 1 ∨ 4 < st ∨ dfld r.data 0 8 ≠ e.bundle.toNat ∨ dfld r.data 8 8 ≠ (s.reg (Reg.epsId n)).toNat ∨
          i < e.first ∨ e.first + nexp ≤ i ∨ (len ≠ 65536 ∧ (i + 1 ≠ e.first + nexp ∨ len = 0 ∨ 65536 < len)) then
        s.sendRec blkNet { cls := 0x12, detail := detail }
      else if st ≠ 1 then s
      else
        let nonce := (r.data.drop 28).take 4 ++ (r.data.drop 16).take 8
        match (if upset then none else Config.gcmOpen (s.gcmKey e.key) nonce (r.data.take 32)
            ((r.data.drop 32).take len) ((r.data.drop (32 + len)).take 16)) with
        | none => (s.setFld (Reg.epsStat n) 28 28 1).sendRec blkNet { cls := 0x11, detail := detail }
        | some plain =>
          let at_ := e.dest + (i - e.first) * 65536
          let q := s.fld (Reg.epsStat n) 5 3
          let held := s.loamHolders q at_ plain.length
          if s0.writerReach q 63 2 at_ plain.length = false then s0 else
          let s := if held = [] then s.loamStore at_ plain else s
          if held ≠ [] then held.foldl (fun s k => s.landing k.1 k.2 2 at_ plain.length s) s
          else if e.got.contains i then s
          else
            let s := { s with eps := s.eps.set n { e with got := i :: e.got } }
            let v := s.fld (Reg.epsProg n) 31 0 + 1
            let s := s.setFld (Reg.epsProg n) 31 0 v
            if v = nexp then s.epochReady n else s)

end Sys2Proof.Machine
end

