-- ==== Sys2Proof/Machine/Data.lean ====
section
/-!
DEFINITION. The data-movement instructions (R211 to R217, R280, R293, R294, R385, R601), their digests (R57 to R60), and
the D unit's own events: the landing of a piece, completion, hand-off, Shale completion (R305), held tokens (R184), the
watchdog (R188) and instruction streams (R193 to R195).
-/

namespace Sys2Proof.Machine

/-! ## Fields of a transfer -/

/-- GADDR, RBYTES, GSTRIDE, LSTRIDE and DIGEST of a transfer descriptor (R211). -/
def xGaddr (d : Bytes) : Nat := dfld d 0 8
def xRbytes (d : Bytes) : Nat := dfld d 28 4
def xGstride (d : Bytes) : Nat := dfld d 32 4
def xLstride (d : Bytes) : Nat := dfld d 36 4
def xDigest (d : Bytes) : Nat := dfld d 44 4
/-- Whether the local side is Silt, and the local offset of row r. -/
def xSilt (d : Bytes) : Bool := dfld d 27 1 == 1
def xLocal (d : Bytes) (r : Nat) : Nat := dfld d 24 3 + r * xLstride d
/-- The offset of remote row r in its tier. -/
def xRemote (d : Bytes) (r : Nat) : Nat := gaOff (xGaddr d) + r * xGstride d

/-- A local range inside the share. -/
def State.localOk (s : State) (p c : Nat) (silt : Bool) (off n : Nat) : Bool :=
  if silt then s.siltOk p c off n else s.sandOk p c off n
/-- Local bytes. -/
def State.localBytes (s : State) (p c : Nat) (silt : Bool) (off n : Nat) : Bytes :=
  if silt then s.siltBytes p c off n else s.sandBytes p c off n
/-- Local bytes stored. -/
def State.localStore (s : State) (p c : Nat) (silt : Bool) (off : Nat) (bs : Bytes) : State :=
  if silt then s.siltStore p c off bs else s.sandStore p c off bs

/-- The address names Sand or Silt of the issuing engine (R601), or the issuing context's own share. -/
def State.ownEngine (s : State) (p ga : Nat) : Bool := decide (gaTier ga < 2) && s.physOf (gaLe ga) == some p
def State.ownShare (s : State) (p c ga : Nat) : Bool := s.ownEngine p ga && gaCtx ga == c

/-! ## Issue -/

/-- A local row is outside the share, or held when it is written (R273, R276). -/
def State.localRowBad (s : State) (p c : Nat) (d : Bytes) (write : Bool) (r : Nat) : Option Nat :=
  let o := xLocal d r
  if !s.localOk p c (xSilt d) o (xRbytes d) then some fBound
  else if write && (s.ctx p c).holds (xSilt d).toNat o (xRbytes d) then some fHeld else none

/-- A remote row that a D.PUT writes touches a held range of the context, in its own share or in the module's Loam, Clay or
Shale; the list of another context is the one that stands when the piece lands (R272, R273). -/
def State.putHeld (s : State) (p c : Nat) (d : Bytes) (r : Nat) : Bool :=
  let t := gaTier (xGaddr d)
  let o := xRemote d r
  if t < 2 then s.ownShare p c (xGaddr d) && (s.ctx p c).holds t (gaLocal o) (xRbytes d)
  else (s.ctx p c).holds t o (xRbytes d)

/-- One remote row finds no slot of the fabric schedule (R217). -/
def State.remoteSlotBad (s : State) (p c : Nat) (ga off n : Nat) (write : Bool) : Option Nat :=
  let t := gaTier ga
  let le := (s.leOf p).getD 63
  if t = 2 ∨ t = 3 then (if s.slotsOk (s.ctx p c).part le c t off n write then none else some fSlot)
  else if t < 2 then
    match s.physOf (gaLe off) with
    | some p' =>
      if dieOf p' = dieOf p then none
      else if s.daOk le c (if write then dieOf p else dieOf p') then none else some fSlot
    | none => some fBound
  else none

/-- One remote row lies in what the partition owns and finds its slots (R280, R217). -/
def State.remoteRowBad (s : State) (p c : Nat) (ga off n : Nat) (write : Bool) : Option Nat :=
  if !s.gaRangeOk (s.ctx p c).part (gaTier ga) off n then some fBound else s.remoteSlotBad p c ga off n write

/-- The global address of row k of a D.GATHER (R212). -/
def State.gatherAddr (s : State) (p c : Nat) (d : Bytes) (k : Nat) : Nat :=
  let i := (BitVec.ofNat 32 (leNat (s.sandBytes p c (dfld d 52 4 + 4 * k) 4))).toInt
  ((((xGaddr d : Nat) : Int) + i * ((xGstride d : Nat) : Int)) % 2 ^ 64).toNat

/-- The checks of R280 of row k of a D.GATHER, which the D unit makes as it reaches the row. -/
def State.gatherBad (s : State) (p c : Nat) (d : Bytes) (k : Nat) : Option Nat :=
  let ga := s.gatherAddr p c d k
  let q := (s.ctx p c).part
  firstCode [s.gaBad q ga, if s.gaRangeOk q (gaTier ga) (gaOff ga) (xRbytes d) then none else some fBound]

/-- Row k of a D.GATHER finds no slot, at issue; a row that fails the checks of R280 is left to them (R217, R276). -/
def State.gatherSlotBad (s : State) (p c : Nat) (d : Bytes) (k : Nat) : Option Nat :=
  let ga := s.gatherAddr p c d k
  if (s.gatherBad p c d k).isSome then none else s.remoteSlotBad p c ga (gaOff ga) (xRbytes d) false

/-- A D.SEND's GADDR names no tier that R280 allows; its offset bits are ignored (R280, R385). (DEDUCED, log entry 20.) -/
def sendTierBad (ga : Nat) : Option Nat :=
  if 5 < gaTier ga then some fMalformed else if gaTier ga = 5 then some fBound else none

/-- The token classes that a transfer's tier allows (R212). -/
def State.dTokOk (s : State) (p c : Nat) (o : EngOp) (d : Bytes) (rxq : Bool) (tok : Tok) : Bool :=
  let t := gaTier (xGaddr d)
  tok == 0 || tokClass tok ==
    (match o with
      | .dSend => 3
      | .dIload => 0
      | .dPut => if t = 4 then 5 else if t < 2 ∧ s.ownShare p c (xGaddr d) = false then 1 else 0
      | _ => if rxq then 0 else if t = 4 then 5 else 0)

/-- A Tilth context lies in the partition's range (R385). -/
def State.tilthIn? (s : State) (q x : Nat) : Bool :=
  let b := s.fld (Reg.partTilth q) 19 0
  s.partOn q && decide (b ≤ x) && decide (x < b + s.fld (Reg.partTilth q) 40 20)

/-- The checks of a D.SEND on its Tilth context (R385). -/
def State.sendBad (s : State) (p c : Nat) (d : Bytes) (prov : Bool) : Option Nat :=
  let x := dfld d 48 4
  let h := s.sendHalf x
  if !s.tilthIn? (s.ctx p c).part x || h.sstate == 0 || h.sstate == 3 || gaMod (xGaddr d) != h.dmod then some fBound
  else if prov && !h.provok then some fMalformed
  else if h.p96 && xRbytes d % 12 != 0 then some fMalformed
  else none

/-- A receive queue that a D.GET may take from: a QUEUE context whose target is the issuing context (R383). -/
def State.rxqOk (s : State) (p c : Nat) (x : Nat) : Bool :=
  let h := s.recvHalf x
  s.tilthIn? (s.ctx p c).part x && h.rstate == 1 && h.kind == 0 &&
  (match s.recvTarget h with | some (p', c', _) => p' == p && c' == c | none => false)

/-- Check 4 of R280: DSTQ of a D.PUT into Sand or Silt names the engine and context of GADDR. Into the issuing context's own
share R211 has it 0, and the share's own numbers pass too. (DEDUCED, log entry 117.) -/
def State.dstqBad (s : State) (p c : Nat) (d : Bytes) : Bool :=
  let ga := xGaddr d
  dfld d 48 4 != gaLe ga + 64 * gaCtx ga && !(s.ownShare p c ga && dfld d 48 4 == 0)

/-- The checks of a transfer at issue, in the order of R280 where it gives one; none when all pass. A D.PUT that a replay
suppresses writes nothing, so no held range is in its way (R273, R509). A list of no rows beyond the share is a bound fault all
the same. (DEDUCED, log entry 20, DESIGN CHOICE, log entry 136.) -/
def State.dBad (s : State) (p c : Nat) (o : EngOp) (d : Bytes) (rxq prov supp : Bool) (tok : Tok) (rows : Nat) : Option Nat :=
  let x := s.ctx p c
  let ga := xGaddr d
  let rs := List.range rows
  let t := gaTier ga
  if !s.dTokOk p c o d rxq tok then some fMalformed
  else if o = .dSend then
    firstCode (sendTierBad ga :: s.sendBad p c d prov :: (if x.provisional then some fProv else none) :: rs.map (s.localRowBad p c d false))
  else if rxq then
    firstCode ((if rows = 0 then s.gaBad x.part ga else none) ::
      (if s.rxqOk p c (dfld d 48 4) then none else some fBound) :: rs.map (s.localRowBad p c d true))
  else if o = .dGather then
    firstCode ((if rows = 0 then s.gaBad x.part ga else none) ::
      (if s.sandOk p c (dfld d 52 4) (4 * rows) then none else some fBound) ::
      (rs.map (s.localRowBad p c d true) ++ rs.map (s.gatherSlotBad p c d)))
  else if o = .dIload then
    firstCode [
      if s.flag (Reg.imemShare p c) 9 && t == 2 then none else some fMalformed,
      s.gaBad x.part ga,
      if rows = 0 then none else s.remoteRowBad p c ga (gaOff ga) (xRbytes d) false]
  else
    let put := o == .dPut
    firstCode ([
      s.gaBad x.part ga] ++
      rs.map (fun r => if s.gaRangeOk x.part t (xRemote d r) (xRbytes d) then none else some fBound) ++ [
      if put && t < 2 && s.dstqBad p c d then some fMalformed else none,
      if put && x.provisional && !s.ownEngine p ga then some fProv else none] ++
      rs.map (s.localRowBad p c d (!put)) ++
      (if put && !supp then rs.map (fun r => if s.putHeld p c d r then some fHeld else none) else []) ++
      rs.map (fun r => s.remoteRowBad p c ga (xRemote d r) (xRbytes d) put))

/-- The kind of a D opcode. -/
def dKind : EngOp → DKind
  | .dPut => .put | .dSend => .send | .dGather => .gather | .dIload => .iload | _ => .get

/-- The k-th word that a D instruction reads at issue: of its descriptor, and then of a D.GATHER's list. -/
def State.dWord (s : State) (p c : Nat) (o : EngOp) (w : W64) (k : Nat) : Nat :=
  let a := 64 * wbits w 47 30
  if o = .dGather ∧ 8 ≤ k then
    let d := s.sandBytes p c a 64
    sramAt 0 (dfld d 52 4) (4 * dfld d 40 2) (k - 8)
  else sramAt 0 a 64 k

/-- A D instruction at issue: its descriptor is read and checked, and the transfer is outstanding (R211 to R216).
The transfers of a shadow pass the original's checks, and it performs none: a stream is mirrored to it
(R527). (DEDUCED, log entry 21, DEDUCED, log entry 37.) -/
def runD (p c : Nat) (o : EngOp) (err : ReadErr) (w : W64) (s : State) : Ran :=
  if !s.sandOk p c (64 * wbits w 47 30) 64 then .bad s fBound
  else s.sramRead p c 0 (s.dWord p c o w) err .stop (fun s =>
  let x := s.ctx p c
  let d := s.sandBytes p c (64 * wbits w 47 30) 64
  let tok : Tok := BitVec.ofNat 16 (wbits w 29 14)
  let lcv := (Tab.get 0 x.cur.lc (wbits w 10 8)).toNat
  let rlc := w.getLsbD 11
  let rxq := dfld d 43 1 % 2 == 1
  if !xferDescOk o d || (rlc && decide (65535 < lcv)) then .bad s fMalformed
  else
    let rows := if rlc then lcv else dfld d 40 2
    let out := o == .dPut || o == .dSend
    let supp := out && x.suppress.contains x.outNext
    match (if x.shadow then none else s.dBad p c o d rxq (w.getLsbD 13) supp tok rows) with
    | some code => .bad s code
    | none =>
      if x.shadow && o == .dIload then .seq s else
      let q := dfld d 48 4
      let base := Tab.get 0 x.taken q
      let t : Xfer := {
        id := x.nextXfer, kind := dKind o, desc := d, tok := tok, prov := w.getLsbD 13, lcmp := w.getLsbD 12, rows := rows
        pc := x.cur.pc, bankB := x.cur.bankB, rxq := rxq, shale := !rxq && o != .dSend && gaTier (xGaddr d) == 4
        ordinal := if out then some x.outNext else none
        suppressed := supp || (out && x.shadow)
        chunk := if rxq then base else 0 }
      .seq (s.modCtx p c (fun x => { x with
        xfers := x.xfers ++ [t], nextXfer := x.nextXfer + 1, outNext := if out then x.outNext + 1 else x.outNext
        taken := if rxq then x.taken.set q (base + ceilDiv (rows * xRbytes d) 65536) else x.taken })))

/-! ## Digests (R57 to R60, R213) -/

/-- The accumulator of an identifier and bucket with one more element. -/
def addDigest (as : List DigAcc) (ident : W32) (bucket : Nat) (v : W64) (nonfin : Bool) : List DigAcc :=
  match as with
  | [] => [⟨ident, bucket, v, 1, nonfin⟩]
  | a :: t =>
    if a.ident = ident ∧ a.bucket = bucket then
      { a with sum := a.sum + v, count := a.count + 1, nonfinite := a.nonfinite || nonfin } :: t
    else a :: addDigest t ident bucket v nonfin

/-- An element's own bits are NaN or infinite in its format (R63). -/
def Fmt.nonFinite (f : Fmt) (v : Nat) : Bool := if f = .p96 then (p96Decode v).nonFinite else (f.decode v).nonFinite

/-- The contributions of row r of a transfer, from its bytes; none when a 65th accumulator would be needed. The bucket is four
bits of the index from BUCKET_SHIFT on; of a shift of 61 to 63, which the table does not give and no rule refuses, the bits
that are left. (DESIGN CHOICE, log entry 104.) -/
def State.digestRow (s : State) (p c : Nat) (d : Bytes) (r : Nat) (bs : Bytes) : Option (List DigAcc) :=
  let x := s.ctx p c
  let id := xDigest d
  if id = 0 then some x.digs
  else
    let f := ((Fmt.ofCode (dfld d 42 1 % 16)).getD .fp32).elem
    let ctl := (s.reg (Reg.dglCtl x.part)).toNat
    let n := bs.length * 8 / f.width
    let base := BitVec.ofNat 64 (dfld d 8 8) + BitVec.ofNat 64 r * BitVec.ofNat 64 (dfld d 16 8)
    let digs := (unpack f n (leNat bs)).zipIdx.foldl (fun as (v, e) =>
      let i : W64 := base + BitVec.ofNat 64 e
      let bucket := if bit ctl 1 then i.toNat / 2 ^ bits ctl 13 8 % 16 else 0
      addDigest as (BitVec.ofNat 32 id) bucket (contribution i v f.width (BitVec.ofNat 32 id)) (f.nonFinite v)) x.digs
    if digs.length ≤ 64 then some digs else none

/-- The 8-byte words of outbound data, the last filled with zeros. -/
def words8 : Nat → Bytes → List W64
  | 0, _ => []
  | n + 1, bs => if bs = [] then [] else BitVec.ofNat 64 (leNat (bs.take 8)) :: words8 n (bs.drop 8)

/-- Outbound data enter the context's audit digest (R527). -/
def Ctx.auditData (x : Ctx) (bs : Bytes) : Ctx :=
  (words8 (bs.length / 8 + 1) bs).foldl (fun x w => { x with
    audit := x.audit + contribution (BitVec.ofNat 64 x.auditOrd) w.toNat 64 0xA0D17001, auditOrd := x.auditOrd + 1 }) x

/-! ## Landing -/

/-- A transfer of a context by its number. -/
def Ctx.xfer (x : Ctx) (id : Nat) : Option Xfer := x.xfers.find? (fun t => t.id == id)
/-- A transfer replaced. -/
def Ctx.setXfer (x : Ctx) (t : Xfer) : Ctx := { x with xfers := x.xfers.map (fun u => if u.id = t.id then t else u) }
/-- A transfer that has completed: it is no longer outstanding, and its ordinal counts (R505, R509). -/
def Ctx.doneXfer (x : Ctx) (t : Xfer) : Ctx :=
  { x with xfers := x.xfers.filter (fun u => u.id != t.id)
           outDone := match t.ordinal with | some k => k :: x.outDone | none => x.outDone }

/-- A transfer of an earlier segment has sent its ENGINE token, which no replay sends again (R219, R505). -/
def Ctx.notOwed (x : Ctx) (t : Xfer) : Ctx := if t.owed then { x with savedX := x.savedX.filter (fun u => u.id != t.id) } else x

/-- Row k of a D.GATHER: the offset of its remote row, and its checks as the D unit reaches it (R280). (DEDUCED, log entry
20.) -/
def State.gatherRow (s : State) (p c : Nat) (t : Xfer) (k : Nat) : Nat × Option Nat :=
  (s.gatherAddr p c t.desc k, s.gatherBad p c t.desc k)

/-- The sector of a tier that the k-th failing unit of a piece lies in, as an offset in the tier: a word of Sand or Silt, 32
bytes of Loam, 64 of Clay; of Shale the piece itself (R278, R308). -/
def sectorAt (tier off n k : Nat) : Nat :=
  match tier with
  | 2 => off / 32 * 32 + 32 * (k % max 1 (ceilDiv (off % 32 + n) 32))
  | 3 => off / 64 * 64 + 64 * (k % max 1 (ceilDiv (off % 64 + n) 64))
  | 4 => off
  | t => off - gaLocal off + sramAt t (gaLocal off) n k

/-- What a record of a failed read of a tier names: the place of the sector (R308), or the share-relative address (R283). -/
def State.sectorDetail (s : State) (tier off : Nat) : Bytes :=
  let y := loamMap (s.reg Reg.loamRowmode).toNat off
  let z := clayMap off
  match tier with
  | 2 => leBytes 4 y.stack ++ leBytes 4 y.pc ++ leBytes 4 (2 * y.bg + y.bank) ++ leBytes 4 y.row
  | 3 => leBytes 4 z.chan ++ leBytes 4 z.bank ++ leBytes 4 z.row
  | 4 => leBytes 8 off
  | _ => leBytes 4 (gaLocal off)

/-- The counter of a tier's read errors (R283, R308): those of Sand and Silt are the counters of the engine that is read. -/
def State.tierCounter (s : State) (tier off : Nat) (unc : Bool) : Option Nat :=
  match tier with
  | 2 => some (if unc then Reg.loamUnc else Reg.loamCor)
  | 3 => some (if unc then Reg.clayUnc else Reg.clayCor)
  | 4 => if unc then some Reg.shalePoison else none
  | _ => (s.physOf (gaLe off)).map (fun p => if unc then Reg.sramEccunc p else Reg.sramEcccor p)

/-- A counter that a read error has, or none, raised by one. -/
def State.bumpOpt (s : State) (o : Option Nat) : State := match o with | some r => s.bump r 1 | none => s

/-- What backs a byte of a tier: of Shale, Clay where its granule is mapped there (R306, R308). -/
def State.backing (s : State) (tier off : Nat) : Nat × Nat :=
  if tier = 4 then (match s.shaleAt off with | .clay a => (3, a) | .cxl _ _ => (4, off)) else (tier, off)

/-- The unit lies in a range that the context's segment holds: of Sand and Silt only its own share can (R271). -/
def State.unitHeld (s : State) (p c tier a : Nat) : Bool :=
  if tier < 2 then
    s.physOf (gaLe a) == some p && gaCtx a == c && (s.ctx p c).holds tier (gaLocal a) (sramWord tier)
  else (s.ctx p c).holds tier a (match tier with | 2 => 32 | _ => 64)

/-- The HBM row of a byte of Loam (R286, R312). -/
def State.hbmRow (s : State) (off : Nat) : HbmRow :=
  let x := loamMap (s.reg Reg.loamRowmode).toNat off
  ⟨x.stack, x.pc, x.bg, x.bank, x.row⟩

/-- What is marked for repair: of Loam the row of the sector, of Clay the number of the 4 KiB page that holds it, which a
record to the operator names as well; nothing of Shale (R308, R312, R512). (PRESUMED, log entry 118.) -/
def State.markRepair (s : State) (p c a : Nat) : State :=
  let row := s.hbmRow (gaOff a)
  let page := gaOff a / 4096
  match a / 2 ^ 44 with
  | 2 => if s.repair.contains row then s else { s with repair := s.repair ++ [row] }
  | 3 =>
    if s.clayMarks.contains page then s
    else { s with clayMarks := s.clayMarks ++ [page] }.sendRec blkReplay (s.ctxRec p c 0x0B (leBytes 8 (page * 4096)))
  | _ => s

/-- A read of a tier for a context, of n bytes from an offset on, that meets an error (R308): its counter; an
uncorrectable one sends its record, which names the sector that failed, and stops the segment for a replay, or for good
when replay cannot restore it: a held word of Sand or Silt at once, a held sector of the other tiers when it has failed
before, which marks it for repair (R283, R512). A bad CRC on a die link replays the context (R501). A Shale granule that Clay
backs meets Clay's errors (R306). -/
def State.tierRead (s : State) (p c tier off n : Nat) (err : ReadErr) (eff : State → State) : State :=
  match err with
  | .ok => eff s
  | .corrected =>
    let b := s.backing tier off
    eff (s.bumpOpt (s.tierCounter b.1 b.2 false))
  | .linkCrc also => s.replayBoth p c 0x0D [] none also
  | .uncorrectable k also =>
    let a := sectorAt tier off n k
    let (bt, ba) := s.backing tier a
    let cls := match bt with | 2 => 0x0A | 3 => 0x0B | 4 => 0x0C | _ => 0x08
    let addr := ba + bt * 2 ^ 44
    let s := s.bumpOpt (s.tierCounter bt ba true)
    let again := match (s.ctx p c).repFault with | some f => f.addr == some addr | none => false
    if s.unitHeld p c tier a = true ∧ (tier < 2 ∨ again = true) then
      let r := s.failRec p c cls (s.sectorDetail bt ba) also
      let s := if tier < 2 then s else s.markRepair p c addr
      ((s.countSecond p cls also).sendRec p { r with flags := r.flags + 1 }).halt p c
    else s.replayBoth p c cls (s.sectorDetail bt ba) (if tier < 2 then none else some addr) also

/-- The next piece of a locked-tier transfer: where it lies in its tier, and its length (R293, R601). -/
def State.nextPiece (s : State) (p : Nat) (d : Bytes) (base off : Nat) : Nat × Nat :=
  let a := base + off
  let step := if s.ownEngine p (xGaddr d) then 64 else 2048 - a % 2048
  (a, min step (xRbytes d - off))

/-- After a piece: its bytes join the row's, and the next byte comes, or the next row once the row's elements are in the
digest (R213). A transfer that has outlived its segment adds nothing (R61). -/
def State.pieceDone (s : State) (p c : Nat) (t : Xfer) (bs : Bytes) : State :=
  let row := t.buf ++ bs
  if t.off + bs.length < xRbytes t.desc then s.modCtx p c (·.setXfer { t with off := t.off + bs.length, buf := row })
  else
    let next := { t with row := t.row + 1, off := 0, buf := [] }
    if t.dead then s.modCtx p c (·.setXfer next)
    else match s.digestRow p c t.desc t.row row with
      | none => s.faultIn p c fMalformed 3 t.pc t.bankB
      | some digs => s.modCtx p c (fun x =>
          let x := if t.kind = .put then x.auditData row else x
          { x with digs := digs }.setXfer next)

/-- The receive descriptor that a D.GET with RXQ reads in Sand (R383). -/
def State.rxqDesc (s : State) (p c : Nat) (t : Xfer) : Nat :=
  match s.recvTarget (s.recvHalf (dfld t.desc 48 4)) with
  | some (p', c', o) => if p' = p ∧ c' = c then o else 0
  | none => 0

/-- The next piece of a D.GET with RXQ: the ring slot and place it comes from and its length, once its chunk is placed
(R383). (DEDUCED, log entry 23.) -/
def State.rxqPiece (s : State) (p c : Nat) (t : Xfer) : Option (Nat × Nat) :=
  let h := s.recvHalf (dfld t.desc 48 4)
  match s.recvTarget h with
  | none => none
  | some (_, _, o) =>
    let d := s.sandBytes p c o 64
    let pos := t.row * xRbytes t.desc + t.off
    let k := rdRd d + t.chunk + pos / 65536
    if k < rdWr d ∧ 0 < rdSize d then
      some (rdBase d + k % rdSize d * 65536 + pos % 65536, min (xRbytes t.desc - t.off) (65536 - pos % 65536))
    else none

/-- Where a piece of row r at byte `off` lies in its tier: its tier, its place and its length, or the fault of a D.GATHER's
row, which is checked at its first byte (R280, R293, R601). -/
def State.pieceAt (s : State) (p c : Nat) (t : Xfer) (r off : Nat) : Nat ⊕ (Nat × Nat × Nat) :=
  let d := t.desc
  match t.kind with
  | .gather =>
    let (ga, bad) := s.gatherRow p c t r
    match (if off = 0 then bad else none) with
    | some code => .inl code
    | none => .inr (gaTier ga, s.nextPiece p d (gaOff ga) off)
  | .iload =>
    let (a, n) := s.nextPiece p d (gaOff (xGaddr d)) off
    .inr (2, a, min n (512 - (s.ctx p c).iq.length))
  | _ => .inr (gaTier (xGaddr d), s.nextPiece p d (xRemote d r) off)

/-- The bytes that a piece moves, as they stand at its source: the local share for a D.PUT, the tier otherwise. -/
def State.pieceBytes (s : State) (p c : Nat) (t : Xfer) (r off tier a n : Nat) : Bytes :=
  if t.kind = .put then s.localBytes p c (xSilt t.desc) (xLocal t.desc r + off) n else s.tierBytes tier a n

/-- The pieces that a move inside the engine has read when its next one lands: that one and the four behind it, read in
the 4 cc before and in the landing's own cc, in which a read still sees what stood there (R282, R601). -/
def State.readAhead (s : State) (p c : Nat) (t : Xfer) : Nat → List (Nat × Nat × Bytes) → List (Nat × Nat × Bytes)
  | 0, as => as
  | k + 1, as =>
    if 5 ≤ as.length then as
    else
      let (r, off) := match as.getLast? with
        | none => (t.row, t.off)
        | some (r, off, bs) => if off + bs.length < xRbytes t.desc then (r, off + bs.length) else (r + 1, 0)
      if t.rows ≤ r then as
      else match s.pieceAt p c t r off with
        | .inl _ => as
        | .inr (tier, a, n) => s.readAhead p c t k (as ++ [(r, off, s.pieceBytes p c t r off tier a n)])

/-- A piece of a D.PUT touches a held range of the context whose share it lands in: that context's list may be newer than
the transfer's issue (R272, R273). -/
def State.landHeld (s : State) (tier a n : Nat) : Bool :=
  decide (tier < 2) && (match s.physOf (gaLe a) with
    | some p' => (s.ctx p' (gaCtx a)).holds tier (gaLocal a) n
    | none => false)

/-- Data of the transfer may not leave the engine yet: a vector check of the context is still to come (R174). A transfer that
has outlived its segment passed its checks before (R509). -/
def State.leaveHeld (s : State) (p c : Nat) (t : Xfer) : Bool :=
  !t.dead && !s.ownEngine p (xGaddr t.desc) && s.checksDue p c

/-- The words of a payload written to a copy of the region, as far as the region goes. -/
def State.putWords (s : State) (p c : Nat) (b : Bool) (start : Nat) (ws : List W64) : State :=
  let (base, size) := s.imemShare p c
  s.modEngine p (fun e =>
    let put := fun (m : Tab W64) => (ws.zipIdx.filter (fun k => decide (start + k.2 < size))).foldl (fun m (w, i) => m.set (base + start + i) w) m
    if b then { e with imemB := put e.imemB } else { e with imemA := put e.imemA })

/-- Such words land in a context's region, and in that of its shadow (R527). -/
def State.loadWords (s : State) (p c : Nat) (b : Bool) (start : Nat) (ws : List W64) : State :=
  let t := s.putWords p c b start ws
  match s.mirror p c with | some q => t.putWords q c b start ws | none => t

/-- The 64-bit words of a byte string. -/
def wordsOf (bs : Bytes) : List W64 := words8 (bs.length / 8 + 1) bs

/-- The bytes of a ring's stream that stand behind the instruction queue. -/
def Ctx.behindQ (x : Ctx) : Bytes := (x.ringStream.map (·.data)).getD []

/-- The instruction queue of 64 words refilled from the bytes that have left it and those behind it (R193). -/
def Ctx.fillQ (x : Ctx) (bs : Bytes) : Ctx :=
  { x with iq := bs.take 512, ringStream := x.ringStream.map (fun r => { r with data := bs.drop 512 }) }

/-- The queue moves on: the payload words that it holds enter the copy that the accepted header names, and what stands behind
the queue follows them (R193, R194). -/
def State.pumpQ (s : State) (p c : Nat) : State :=
  let x := s.ctx p c
  let bs := x.iq ++ x.behindQ
  match x.stream with
  | none => s.modCtx p c (·.fillQ bs)
  | some st =>
    let n := min (st.count - st.got) (bs.length / 8)
    let now := bs.take (8 * n)
    (s.loadWords p c st.bankB (st.start + st.got) (wordsOf now)).modCtx p c (fun x =>
      { x.fillQ (bs.drop (8 * n)) with
        stream := some { st with got := st.got + n, crc := now.foldl (crcByte polyCrc32c) st.crc } })

/-- A piece of a D.ILOAD enters the instruction queue (R193). -/
def State.iloadPiece (s : State) (p c : Nat) (t : Xfer) (bs : Bytes) : State :=
  let t' := if t.off + bs.length < xRbytes t.desc then { t with off := t.off + bs.length } else { t with row := t.rows, off := 0 }
  (s.modCtx p c (fun x => { x.setXfer t' with iq := x.iq ++ bs })).pumpQ p c

/-- The landing of a piece whose bytes are known, at row and byte of the transfer (R273, R294). -/
def State.landPiece (s : State) (p c : Nat) (t : Xfer) (tier a : Nat) (bs : Bytes) : State :=
  let d := t.desc
  match t.kind with
  | .iload => s.iloadPiece p c t bs
  | .put =>
    if t.suppressed then s.pieceDone p c t bs
    else if s.landHeld tier a bs.length then s.faultIn p c fHeld 3 t.pc t.bankB
    else (s.tierStore tier a bs).pieceDone p c t bs
  | _ => (s.localStore p c (xSilt d) (xLocal d t.row + t.off) bs).pieceDone p c t bs

/-- A transfer that a failed read, or a lost flit, of its own has stopped: it is not completed (R501, R509). -/
def State.dropXfer (s : State) (p c : Nat) (id : Nat) : State :=
  s.modCtx p c (fun x => { x with xfers := x.xfers.filter (fun u => u.id != id) })

/-- A read error that delivers nothing. -/
def readFatal : ReadErr → Bool
  | .ok | .corrected => false
  | .uncorrectable .. | .linkCrc _ => true

/-- The read loses a flit on a link between the dies (R501). -/
def readLost : ReadErr → Bool
  | .linkCrc _ => true
  | _ => false

/-- A row of a shadow's transfer: what has landed in the original's share lands in the shadow's, and an outbound row is read and
goes nowhere (R527). A Shale read is done with its last row, since its token comes from elsewhere. -/
def State.shadowPiece (s : State) (p c : Nat) (t : Xfer) : State :=
  let d := t.desc
  let l := xLocal d t.row + t.off
  let n := xRbytes d - t.off
  let src := match s.audit with | some a => if t.kind = DKind.put then (p, c) else (a.p, a.c) | none => (p, c)
  let bs := s.localBytes src.1 src.2 (xSilt d) l n
  let s := (if t.kind = .put then s else s.localStore p c (xSilt d) l bs).pieceDone p c t bs
  match (s.ctx p c).xfer t.id with
  | some u => if u.shale && decide (u.rows ≤ u.row) then s.modCtx p c (·.doneXfer u) else s
  | none => s

/-- TRANSFER_PIECE_LANDING: the next piece of a transfer to or from Loam, Clay, Sand, Silt or a receive queue lands (R213, R294,
R601). `err` is what the read of the piece's source meets; `merge` what the other read of the step meets: of a sector that a
write covers in part (R293), of a D.GATHER's row in its list, of a receive descriptor (R283). It waits while the context does
not run on its engine (R422), while a check of its data is to come (R174), and while a full queue keeps an earlier token of the
unit (R184). -/
def execTransferPieceLanding (p : PhysE) (c : Place) (id : Nat) (err merge : ReadErr) (s : State) : Out :=
  .next (match (s.ctx p c).xfer id with
    | none => s
    | some t =>
      let d := t.desc
      if (s.ctx p c).shadow then
        (if t.rows ≤ t.row ∨ t.kind = .send ∨ s.holds? p c = false then s else s.shadowPiece p c t)
      else if t.rows ≤ t.row ∨ t.shale = true ∨ t.kind = .send ∨ (t.dead = false ∧ s.holds? p c = false) ∨
          s.stuck (if t.rxq then .rxq p c else .locked p c) = true then s
      else if t.rxq then
        match s.rxqPiece p c t with
        | none => s
        | some (a, n) =>
          s.sramRead p c 0 (sramAt 0 (s.rxqDesc p c t) 64) merge (fun s => s) (fun s =>
            s.sramRead p c 0 (sramAt 0 a n) err (fun s => s) (fun s =>
              (s.localStore p c (xSilt d) (xLocal d t.row + t.off) (s.sandBytes p c a n)).pieceDone p c t (s.sandBytes p c a n)))
      else if (t.kind = .put ∧ s.leaveHeld p c t = true) ∨ (t.kind = .iload ∧ 512 ≤ (s.ctx p c).iq.length) then s
      else match s.pieceAt p c t t.row t.off with
        | .inl code => s.faultIn p c code 3 t.pc t.bankB
        | .inr (tier, a, n) =>
          let own := s.ownEngine p (xGaddr d)
          let as := if own then s.readAhead p c t 5 t.ahead else [(t.row, t.off, s.pieceBytes p c t t.row t.off tier a n)]
          let bs := match as with | (_, _, bs) :: _ => bs | [] => []
          let t' := { t with ahead := as.drop 1 }
          let land := fun (s : State) => s.landPiece p c t' tier a bs
          if t.kind = .put then
            let merge := if (partSector (tier == 2) a n && (tier == 2 || tier == 3)) || readLost merge then merge else .ok
            s.sramRead p c (xSilt d).toNat (sramAt (xSilt d).toNat (xLocal d t.row + t.off) n) err (·.dropXfer p c id) (fun s =>
              let s := s.tierRead p c tier a n merge land
              if readFatal merge then s.dropXfer p c id else s)
          else if t.kind = .gather ∧ t.off = 0 then
            s.sramRead p c 0 (fun _ => sramAt 0 (dfld d 52 4 + 4 * t.row) 4 0) merge (fun s => s) (fun s => s.tierRead p c tier a n err land)
          else s.tierRead p c tier a n err land)

/-- A transfer's token enters: an ENGINE token at the destination of a D.PUT that is not suppressed, any other in the
context's own queue, which a transfer of a discarded segment does not reach (R212, R506, R509). -/
def State.xferToken (s : State) (p c : Nat) (t : Xfer) : State :=
  if tokClass t.tok = 1 ∧ t.tok ≠ 0 then
    if t.suppressed then s
    else
      let ga := xGaddr t.desc
      match s.physOf (gaLe ga) with
      | some p' => s.deliver p' (gaCtx ga) (.locked p c) t.tok
      | none => s
  else if t.dead then s
  else s.deliver p c (if tokClass t.tok = 5 then .shale p c else if t.rxq then .rxq p c else .locked p c) t.tok

/-- LOCKED_TRANSFER_COMPLETE: after the last landing the token enters its queue (R215, R601); a completion that the
context itself sees waits until it holds the engine (R418), and every one waits for an earlier token (R184). -/
def execLockedTransferComplete (p : PhysE) (c : Place) (id : Nat) (s : State) : Out :=
  .next (match (s.ctx p c).xfer id with
    | none => s
    | some t =>
      if t.rows ≤ t.row ∧ t.kind ≠ .send ∧ (t.shale = false ∨ t.rows = 0) ∧ (t.kind ≠ .iload ∨ t.rows = 0) ∧
          (s.holds? p c = true ∨ t.dead = true ∨ (tokClass t.tok = 1 ∧ t.tok ≠ 0)) ∧
          s.stuck (if t.rxq then .rxq p c else .locked p c) = false then
        (s.modCtx p c (fun x => (x.doneXfer t).notOwed t)).xferToken p c t
      else s)

/-! ## Hand-off (R386, R395) and Shale -/

/-- The bytes of a transfer's local rows, in row order. -/
def State.localStream (s : State) (p c : Nat) (d : Bytes) (rows : Nat) : Bytes :=
  (List.range rows).flatMap (fun r => s.localBytes p c (xSilt d) (xLocal d r) (xRbytes d))

/-- The address of the k-th protected word of a transfer's local rows, from byte `pos` of them on. -/
def localWord (d : Bytes) (pos k : Nat) : Nat :=
  let w := sramWord (xSilt d).toNat
  let q := pos + w * k
  let rb := max 1 (xRbytes d)
  (xLocal d (q / rb) + q % rb) / w * w

/-- Every row of a transfer in the digest, from its bytes as they were read; none when an accumulator is missing. -/
def State.digestAll (s : State) (p c : Nat) (d : Bytes) (rows : Nat) (data : Bytes) : Option State :=
  (List.range rows).foldl (fun o r => o.bind (fun s =>
    (s.digestRow p c d r ((data.drop (r * xRbytes d)).take (xRbytes d))).map (fun digs =>
      s.modCtx p c (fun x => { x with digs := digs })))) (some s)

/-- A D.SEND's last chunk is handed off: it completes, with its LOCAL token when LCMP = 1, the digests of what was read, and
a CONFIRM to come when it is provisional (R213 to R215, R515). One that outlives its segment only counts as completed (R509). -/
def State.sendDone (s : State) (p c : Nat) (t : Xfer) (data : Bytes) : State :=
  if t.dead then s.modCtx p c (·.doneXfer t)
  else match s.digestAll p c t.desc t.rows data with
  | none => s.faultIn p c fMalformed 3 t.pc t.bankB
  | some s =>
    let s := s.modCtx p c (fun x => (x.auditData data).doneXfer t)
    let s := if t.lcmp ∧ t.tok ≠ 0 then s.deliver p c (.locked p c) (mkTok 0 (tokId t.tok)) else s
    if t.prov && !t.suppressed then
      let x := dfld t.desc 48 4
      let h := s.sendHalf x
      s.setSend x { h with provs := h.provs.map (fun v => if v.p = p ∧ v.c = c ∧ v.tok = t.tok then { v with whole := true } else v) }
    else s

/-- A RETRACT for each unconfirmed provisional transfer of the context on one send half: HCHUNK goes back to the value that
the commit recorded, and their ordinals count as not completed (R395, R515). -/
def State.retractOn (s : State) (p c q : Nat) : State :=
  let h := s.sendHalf q
  let mine := h.provs.filter (fun v => v.p == p && v.c == c)
  match mine with
  | [] => s
  | v :: _ =>
    let ks := mine.map (fun v => ({ typ := 4, tok := BitVec.ofNat 16 (2048 + tokId v.tok % 2048), src := dieOf p } : Pkt))
    (s.setSend q { h with
      hchunk := Tab.get v.first (s.ctx p c).hchunk q, todo := h.todo ++ ks, provs := h.provs.filter (fun v => !(v.p == p && v.c == c)) }).modCtx p c
      (fun x => { x with outDone := x.outDone.filter (fun k => !(mine.any (fun v => v.ordinal == some k))) })

/-- The context has an unconfirmed provisional transfer. -/
def State.unconfirmed (s : State) (p c : Nat) : Bool :=
  s.send.any (fun (_, h) => h.provs.any (fun v => v.p == p && v.c == c))

/-- Every RETRACT of a context. (DEDUCED, log entry 24.) -/
def State.retract (s : State) (p c : Nat) : State := (s.send.map (·.1)).foldl (fun s q => s.retractOn p c q) s

/-- The number of the next chunk that the context's segment gives a send half: in a replay it counts again from the
number recorded at the commit (R395). -/
def Ctx.nextChunk (x : Ctx) (q : Nat) (h : SendHalf) : Nat := Tab.get h.hchunk x.vchunk q

/-- The chunks of a D.SEND with n bytes. -/
def sendChunks (cs n : Nat) : Nat := max 1 (ceilDiv n cs)

/-- Chunk number a lies behind chunk number b, modulo 65,536 within 32,768 (R386). -/
def chunkBehind (a b : Nat) : Bool := decide (0 < (b + 65536 - a) % 65536) && decide ((b + 65536 - a) % 65536 < 32768)

/-- The next chunk of a D.SEND: handed off when there is room, or passed over when the half has handed it off before; a
suppressed D.SEND reads its rows and passes over all its chunks (R386, R395, R509). A LOST half takes none (R394). A
provisional D.SEND does not wait for the result of its read: a failed one stops the context with the chunk handed off, to be
retracted when the context is restored, or at once when it halts (R514, R515). A chunk whose flit is lost on a link between the
dies does not leave (R501). -/
def State.sendChunk (s : State) (p c : Nat) (t : Xfer) (err : ReadErr) : State :=
  let d := t.desc
  let data := s.localStream p c d t.rows
  let q := dfld d 48 4
  let h := s.sendHalf q
  let cs := if h.p96 then 65532 else 65536
  let n := sendChunks cs data.length
  let v := (s.ctx p c).nextChunk q h
  let note := fun (s : State) (k : Nat) => s.modCtx p c (fun x => { x with
    hchunk := x.hchunk.set q (Tab.get h.hchunk x.hchunk q), vchunk := x.vchunk.set q ((v + k) % 65536) })
  let read := fun (s : State) (pos n : Nat) (eff : State → State) =>
    let word := fun (k : Nat) => localWord d pos (k % ceilDiv n (sramWord (xSilt d).toNat))
    if n = 0 then eff s
    else match err with
    | .linkCrc also => (s.replayBoth p c 0x0D [] none also).dropXfer p c t.id
    | _ =>
    if t.prov && !t.suppressed then
      let u := (eff s).sramRead p c (xSilt d).toNat word err id id
      if (u.ctx p c).st = .halted then u.retract p c else u
    else s.sramRead p c (xSilt d).toNat word err (·.dropXfer p c t.id) eff
  if t.suppressed then
    read s 0 data.length (fun s =>
      let s := if chunkBehind h.hchunk (v + n) then s.setSend q { h with hchunk := (v + n) % 65536 } else s
      (note s n).sendDone p c t data)
  else
    let part := (data.drop (t.chunk * cs)).take cs
    let last := decide (n ≤ t.chunk + 1)
    let sent := chunkBehind v h.hchunk
    if h.sstate = 3 ∨ (!sent && !h.room part.length) then s
    else read s (t.chunk * cs) part.length (fun s =>
      let h1 : SendHalf := if t.prov && t.chunk == 0 then
          { h with provs := h.provs ++ [⟨t.tok, p, c, t.ordinal, v, false⟩] } else h
      let s := if sent then s.setSend q h1
        else s.setSend q (h1.hand (dieOf p) t.prov last t.tok part)
      let s := note s 1
      if last then s.sendDone p c t (t.buf ++ part)
      else s.modCtx p c (·.setXfer { t with chunk := t.chunk + 1, buf := t.buf ++ part }))

/-- The byte of Shale lies behind a CXL port whose link is down for want of its reference clock (R581). -/
def State.shaleDown (s : State) (off : Nat) : Bool :=
  match s.shaleAt off with
  | .cxl port _ => s.boot.lostRefs.contains (if port then .cxl1 else .cxl0)
  | .clay _ => false

/-- The next piece of a D.PUT to Shale is handed off. With the last one it is complete for the context, and its SHALE token
is still to come (R215, R216, R305). A port whose link is down fails it (R308, R581), and a flit that is lost on a link between
the dies does not leave (R501). -/
def State.shaleChunk (s : State) (p c : Nat) (t : Xfer) (err : ReadErr) : State :=
  let d := t.desc
  let l := xLocal d t.row + t.off
  let a := xRemote d t.row + t.off
  let n := min (2048 - a % 2048) (xRbytes d - t.off)
  match err with
  | .linkCrc also => (s.replayBoth p c 0x0D [] none also).dropXfer p c t.id
  | _ =>
  if s.shaleDown a then s.tierRead p c 4 a n (.uncorrectable 0 none) id
  else s.sramRead p c (xSilt d).toNat (sramAt (xSilt d).toNat l n) err (·.dropXfer p c t.id) (fun s =>
    let bs := s.localBytes p c (xSilt d) l n
    let s := (if t.suppressed then s else s.shaleStore a bs).pieceDone p c t bs
    match (s.ctx p c).xfer t.id with
    | some u =>
      if u.row < u.rows then s
      else s.modCtx p c (fun x => { x.doneXfer u with shaleOut := if u.dead then x.shaleOut else x.shaleOut ++ [u] })
    | none => s)

/-- D_CHUNK_HANDOFF: the next chunk of a D.SEND, or of a D.PUT to Shale, is handed off once there is room, its context runs
on its engine (R423) and its checks have passed (R174), which a provisional D.SEND does not wait for (R514) (R215, R386,
R395, R509). -/
def execDChunkHandoff (p : PhysE) (c : Place) (id : Nat) (err : ReadErr) (s : State) : Out :=
  .next (match (s.ctx p c).xfer id with
    | none => s
    | some t =>
      if (t.dead = false ∧ (s.holds? p c = false ∨ (s.checksDue p c && !t.prov) = true)) ∨ s.stuck (.locked p c) = true then s
      else if (s.ctx p c).shadow then (if t.kind = .send then s.sendDone p c t (s.localStream p c t.desc t.rows) else s)
      else if t.kind = .send then s.sendChunk p c t err
      else if t.kind = .put ∧ t.shale = true ∧ t.row < t.rows then s.shaleChunk p c t err
      else s)

/-- The pieces of a Shale transfer, in row order: each 64-byte request's offset. -/
def State.shaleUnits (s : State) (p c : Nat) (t : Xfer) : List Nat :=
  (List.range t.rows).flatMap (fun r =>
    let a := if t.kind = .gather then gaOff (s.gatherAddr p c t.desc r) else xRemote t.desc r
    (List.range (max 1 (ceilDiv (xRbytes t.desc) 64))).map (fun i => a + 64 * i))

/-- The rows of a Shale read, each landed whole. -/
def State.shaleRows (s : State) (p c : Nat) (t : Xfer) : Option State :=
  (List.range t.rows).foldl (fun o r => o.bind (fun s =>
    let d := t.desc
    let (off, bad) := if t.kind = .gather then
        let (ga, bad) := s.gatherRow p c t r
        (gaOff ga, bad) else (xRemote d r, none)
    if bad.isSome then none
    else
      let bs := (pieces off (xRbytes d)).flatMap (fun (a, n) => s.shaleBytes a n)
      let s := s.localStore p c (xSilt d) (xLocal d r) bs
      (s.digestRow p c d r bs).map (fun digs => s.modCtx p c (fun x => { x with digs := digs })))) (some s)

/-- What a Shale read meets: an error of the unit that it names among its requests; the failure of a link that is down decides
(R308, R581). -/
def State.shaleErr (s : State) (p c : Nat) (t : Xfer) (err : ReadErr) : Nat × ReadErr :=
  let us := s.shaleUnits p c t
  match us.find? s.shaleDown with
  | some a => (a, .uncorrectable 0 none)
  | none => match err with
    | .uncorrectable k also => (us.getD (k % max 1 us.length) 0, .uncorrectable 0 also)
    | e => (us.headD 0, e)

/-- SHALE_COMPLETION: a Shale read completes and its SHALE token enters, or its response is poisoned, or its data meet an
error of the Clay that backs it; or the token of a D.PUT that has been handed off enters (R215, R305, R306, R308). A transfer
with ROWS = 0 sends no request (R601). -/
def execShaleCompletion (p : PhysE) (c : Place) (id : Nat) (err : ReadErr) (s : State) : Out :=
  .next (
    if s.stuck (.shale p c) then s
    else match (s.ctx p c).shaleOut.find? (fun t => t.id == id), (s.ctx p c).xfer id with
      | some t, _ =>
        (s.modCtx p c (fun x => { x with shaleOut := x.shaleOut.filter (fun u => u.id != id) })).deliver p c (.shale p c) t.tok
      | none, some t =>
        if !t.shale || t.kind == .put || t.rows == 0 || (s.ctx p c).shadow then s
        else s.tierRead p c 4 (s.shaleErr p c t err).1 1 (s.shaleErr p c t err).2 (fun s =>
          match s.shaleRows p c t with
          | none => s.faultIn p c (((if t.kind = .gather then
                firstCode ((List.range t.rows).map (fun r => (s.gatherRow p c t r).2)) else none)).getD fMalformed) 3 t.pc t.bankB
          | some s => (s.modCtx p c (·.doneXfer t)).deliver p c (.shale p c) t.tok)
      | none, none => s)

/-! ## Tokens and the watchdog -/

/-- The next token of a class from elsewhere that the original of a shadow has popped and the shadow has not had (R527). -/
def State.shadowToken (s : State) (p c cls : Nat) : State :=
  match s.audit with
  | some a =>
    let x := s.ctx p c
    let src := if a.orig.isSome then Tab.get [] a.popped cls else Tab.get [] (s.ctx a.p a.c).popped cls
    match src.drop ((Tab.get [] x.popped cls).length + (x.tokens cls).length) with
    | t :: _ => if cls = 0 ∨ cls = 2 then s else s.modCtx p c (fun x => { x with queue := x.queue.set cls (x.tokens cls ++ [t]) })
    | [] => s
  | none => s

/-- HELD_TOKEN_ENTRY: the oldest token that a full queue held enters once an entry is free; a LOCAL or CORE token while its
context runs on its engine (R184, R418). To a shadow it brings the next token from elsewhere that the original has popped (R527). -/
def execHeldTokenEntry (p : PhysE) (c : Place) (cls : Fin 7) (s : State) : Out :=
  .next (if (s.ctx p c).shadow then s.shadowToken p c cls
  else if (cls.val = 0 ∨ cls.val = 2) ∧ s.holds? p c = false then s else s.modCtx p c (fun x =>
    match Tab.get [] x.heldTok cls with
    | (t, _) :: ts =>
      if (x.tokens cls).length < 32 then
        { x with heldTok := x.heldTok.set cls ts, queue := x.queue.set cls (x.tokens cls ++ [t]) }
      else x
    | [] => x))

/-- The context's next group may be held and its watchdog counts: the context holds the engine, and no replay, stall or
debug halt stops it (R188, R496). -/
def State.watched (s : State) (p c : Nat) : Bool :=
  let x := s.ctx p c
  s.holds? p c && (x.rep == .idle || x.rep == .running)

/-- A hold of the next group that R188 counts stands now: one that its waits and units name, or a C.COMMIT that waits for a
free-tier transfer or for a summary write that a full queue holds. -/
def State.counted (s : State) (p c : Nat) : Bool :=
  let x := s.ctx p c
  s.watched p c &&
  (if x.commit.isSome then x.freeOut || x.sumHeld != [] else decide (x.gi = 0) && s.gate p c == .hold true)

/-- The counted holds that stand, each with whether it stands at a declared wait point (R36, R188): waits for a class of the
free domain, a D instruction that 8 free-tier transfers hold, a C.SWAPBANK into a copy that a ring loads, a C.COMMIT that waits
for free-tier transfers. -/
def State.countedHolds (s : State) (p c : Nat) : List Bool :=
  let x := s.ctx p c
  if x.commit.isSome then (if x.freeOut then [true] else []) ++ (if x.sumHeld == [] then [] else [false])
  else
    let g := (s.group p c).getD []
    ((x.waits g).filter (fun k => x.tokens k.cls == [])).map (fun k => freeClass k.cls) ++
    (g.filter (fun w => s.unitHold p c w == some true)).map (fun w =>
      wClass w == 3 || (EngOp.ofWord w == some .cSwapbank && !s.flag (Reg.imemShare p c) 9))

/-- The count of cc at which the first of the holds that stand expires (R188). -/
def State.heldLimit (s : State) (p c : Nat) : Nat :=
  let free := 65536 * s.fld (Reg.tokwd p c) 31 16
  let lcl := 1024 * s.fld (Reg.tokwd p c) 15 0
  let hs := s.countedHolds p c
  if hs.contains true && hs.contains false then min free lcl else if hs.contains true then free else lcl

/-- The class of the instruction that holds the group (R188, R224). -/
def State.heldClass (s : State) (p c : Nat) : Nat :=
  let x := s.ctx p c
  if x.commit.isSome then 4
  else match (x.waits ((s.group p c).getD [])).find? (fun k => x.tokens k.cls == []) with
    | some k => k.by_
    | none => match ((s.group p c).getD []).find? (fun w => s.unitHold p c w == some true) with
      | some w => wClass w
      | none => wClass (s.instrAt p c)

/-! ## Instruction streams (R192 to R195, R256) -/

/-- The source of a context's next stream: the STREAM of a ring, or the D.ILOAD that it gives (R193). -/
def State.streamFrom (s : State) (p c : Nat) : Option (Option Xfer) :=
  let x := s.ctx p c
  match x.ringStream with
  | some _ => some none
  | none => (x.xfers.find? (fun t => t.kind == .iload && decide (0 < t.rows))).map some

/-- The length in bytes of the stream that a source brings. -/
def Ctx.streamLen (x : Ctx) : Option Xfer → Nat
  | some t => xRbytes t.desc
  | none => (x.ringStream.map (·.len)).getD 0

/-- The state of a copy of the region set. -/
def Ctx.setCopy (x : Ctx) (b : Bool) (st : CopySt) : Ctx := if b then { x with copyB := st } else { x with copyA := st }

/-- The state of a copy of the context's region set, and of its shadow's (R527). -/
def State.copyState (s : State) (p c : Nat) (b : Bool) (st : CopySt) : State :=
  let t := s.modCtx p c (·.setCopy b st)
  match s.mirror p c with | some q => t.modCtx q c (·.setCopy b st) | none => t

/-- The completion of the STREAM command that brought the stream, when one did. -/
def State.ringStreamDone (s : State) (p c : Nat) (status detail : Nat) : State :=
  match (s.ctx p c).ringStream with
  | some r => (s.modCtx p c (fun x => { x with ringStream := none, iq := [] })).complete r.ring r.idx status (BitVec.ofNat 64 detail)
  | none => s

/-- A record of class "instruction load". -/
def State.streamRec (s : State) (p c : Nat) (detail : Nat) : State :=
  s.sendRec p (s.ctxRec p c 0x09 (leBytes 4 detail))

/-- INSTRUCTION_STREAM_HEADER: the header of the next stream stands at the head of the queue and is checked, the copy it names
is LOADING, and the payload behind it enters that copy (R193, R194). That of a D.ILOAD is taken while its context runs on its
engine (R418). -/
def execInstructionStreamHeader (p : PhysE) (c : Place) (s : State) : Out :=
  .next (
    let x := s.ctx p c
    match s.streamFrom p c with
    | none => s
    | some xf =>
      let h : W64 := BitVec.ofNat 64 (leNat (x.iq.take 8))
      let b := h.getLsbD 47
      if x.stream.isSome ∨ x.iq.length < 8 ∨ (xf.isSome && !s.holds? p c) = true then s
      else if wbits h 63 48 ≠ 0xA5E1 ∨ wbits h 19 0 ≠ 0 then
        let s := s.streamRec p c 5
        match xf with
        | some t => s.faultIn p c fMalformed 3 t.pc t.bankB
        | none => s.ringStreamDone p c 0x07 5
      else if (if b then x.copyB else x.copyA) = .active then
        match xf with
        | some t => s.faultIn p c fActive 3 t.pc t.bankB
        | none => (s.ringStreamDone p c 0x07 4).fault p c fActive 6 x.cur.pc
      else
        ((s.copyState p c b .loading).modCtx p c (fun x => { x with
          iq := x.iq.drop 8, stream := some { bankB := b, start := wbits h 32 20, count := wbits h 46 33, iload := xf.isSome } })).pumpQ p c)

/-- The seal at the head of the queue. -/
def Ctx.sealWord (x : Ctx) : W64 := BitVec.ofNat 64 (leNat (x.iq.take 8))

/-- A stream of n bytes does not have the form of R193: its count, its length, or its seal's mark and zero bits. -/
def StreamIn.badForm (st : StreamIn) (n : Nat) (w : W64) : Bool :=
  st.count == 0 || decide (8192 < st.count) || n != 8 * (st.count + 2) || wbits w 63 48 != 0x5EA1 || wbits w 47 32 != 0

/-- The seal's CRC is not that of the payload (R194, R256). -/
def StreamIn.badCrc (st : StreamIn) (w : W64) : Bool := wbits w 31 0 != (~~~ (st.crc.setWidth 32 : W32)).toNat

/-- Why a stream fails at its seal: 1 count, 2 CRC, 3 range (R194, R446); 0 when it does not. -/
def State.sealFail (s : State) (p c : Nat) (st : StreamIn) (n : Nat) (w : W64) : Nat :=
  if st.badForm n w then 1
  else if (s.imemShare p c).2 < st.start + st.count then 3
  else if st.badCrc w then 2
  else 0

/-- The seal of the stream in progress can be judged: its payload has entered the copy and the seal stands at the head of the
queue, or its source has brought all it has (R193). -/
def Ctx.sealDue (x : Ctx) (st : StreamIn) (xf : Option Xfer) : Bool :=
  (st.got == st.count && decide (8 ≤ x.iq.length)) ||
  (match xf with | some t => decide (t.rows ≤ t.row) | none => x.behindQ == [])

/-- A second failed load of one stream loses a held range of Loam (R512). -/
def State.loadHeld (s : State) (p c : Nat) (t : Xfer) : Bool :=
  let a := gaOff (xGaddr t.desc)
  (match (s.ctx p c).repFault with | some f => f.addr == some (a + 2 * 2 ^ 44) | none => false) &&
    (s.ctx p c).holds 2 a (xRbytes t.desc)

/-- STREAM_SEAL_LANDS: the seal of the stream in progress: the copy is READY, or EMPTY with the failure told to its
source; a CRC that does not agree is counted whatever else fails (R194, R256). A D.ILOAD's seal takes effect while its
context runs on its engine (R418), and a second failure of it whose stream is held halts the context (R512). -/
def execStreamSealLands (p : PhysE) (c : Place) (also : Option Second) (s : State) : Out :=
  .next (
    let x := s.ctx p c
    match x.stream, s.streamFrom p c with
    | some st, some xf =>
      if x.sealDue st xf = false ∨ (xf.isSome && (!s.holds? p c || s.stuck (.locked p c))) = true then s
      else
        let n := x.streamLen xf
        let w := x.sealWord
        let k := s.sealFail p c st n w
        let s := s.modCtx p c (fun x => { x with stream := none, iq := [] })
        if k = 0 then
          let s := s.copyState p c st.bankB .ready
          match xf with
          | some t => (s.modCtx p c (·.doneXfer t)).deliver p c (.locked p c) t.tok
          | none => s.ringStreamDone p c 0x00 0
        else
          let s := s.copyState p c st.bankB .empty
          let s := if !st.badForm n w && st.badCrc w then s.bump (Reg.cuffIlfail p) 1 else s
          match xf with
          | some t =>
            if s.loadHeld p c t then
              let r := s.failRec p c 0x09 (leBytes 4 k) also
              (((s.countSecond p 0x09 also).markRepair p c (gaOff (xGaddr t.desc) + 2 * 2 ^ 44)).sendRec p
                { r with flags := r.flags + 1 }).halt p c
            else s.replayBoth p c 0x09 (leBytes 4 k) (some (gaOff (xGaddr t.desc) + 2 * 2 ^ 44)) also
          | none => (s.streamRec p c k).ringStreamDone p c 0x07 k
    | _, _ => s)

end Sys2Proof.Machine
end

