-- ==== Sys2Proof/Machine/ControlCore.lean ====
section
/-!
DEFINITION. The control core (R227 to R243): RV32IMC with Zicsr and the extension of R238, its CSRs, its journal, its
faults and checks; the random-number unit's fills (R246 to R250) and the Cuff program lane (R251 to R253).
-/

namespace Sys2Proof.Machine

/-! ## Instructions -/

/-- The integer operations of RV32IM. -/
inductive Alu
  | add | sub | sll | slt | sltu | xor | srl | sra | or | and
  | mul | mulh | mulhsu | mulhu | div | divu | rem | remu
  deriving DecidableEq, Repr

/-- A decoded instruction of the control core. Immediates and offsets are sign-extended where RISC-V says so. -/
inductive CcOp
  | lui (rd : Nat) (v : W32)
  | auipc (rd : Nat) (v : W32)
  | jal (rd : Nat) (off : W32)
  | jalr (rd rs1 : Nat) (off : W32)
  | branch (f3 rs1 rs2 : Nat) (off : W32)
  | load (f3 rd rs1 : Nat) (off : W32)
  | store (f3 rs1 rs2 : Nat) (off : W32)
  | aluI (o : Alu) (rd rs1 : Nat) (v : W32)
  | alu (o : Alu) (rd rs1 rs2 : Nat)
  | fence
  | ebreak
  | csr (f3 rd rs1 num : Nat)
  | xsqPop (rd : Nat)
  | xsel (rs1 : Nat)
  | xtok (rs1 : Nat)
  | xseq (rs1 rs2 : Nat)
  | xcrc (f3 rs1 : Nat)
  | xcrcSand (rs1 : Nat)
  | xrnGo (rs1 : Nat)
  | bad
  deriving DecidableEq, Repr

/-- The low k bits of a number, sign-extended to 32 bits. -/
def sext32 (k x : Nat) : W32 := (BitVec.ofNat k x).signExtend 32

/-- The operation of an OP encoding. -/
def aluOp (f7 f3 : Nat) : Option Alu :=
  match f7, f3 with
  | 0, 0 => some .add | 0x20, 0 => some .sub | 0, 1 => some .sll | 0, 2 => some .slt | 0, 3 => some .sltu
  | 0, 4 => some .xor | 0, 5 => some .srl | 0x20, 5 => some .sra | 0, 6 => some .or | 0, 7 => some .and
  | 1, 0 => some .mul | 1, 1 => some .mulh | 1, 2 => some .mulhsu | 1, 3 => some .mulhu
  | 1, 4 => some .div | 1, 5 => some .divu | 1, 6 => some .rem | 1, 7 => some .remu
  | _, _ => none

/-- An encoding in custom-0 or custom-1 (R238): an unused field must be 0. -/
def decodeExt (custom1 : Bool) (f3 f7 rd rs1 rs2 : Nat) : CcOp :=
  if f7 ≠ 0 then .bad
  else if custom1 then
    if rd ≠ 0 ∨ rs2 ≠ 0 then .bad
    else if f3 ≤ 2 then .xcrc f3 rs1 else if f3 = 3 then .xcrcSand rs1 else if f3 = 4 then .xrnGo rs1 else .bad
  else match f3 with
    | 0 => if rs1 = 0 ∧ rs2 = 0 then .xsqPop rd else .bad
    | 1 => if rd = 0 ∧ rs2 = 0 then .xsel rs1 else .bad
    | 2 => if rd = 0 ∧ rs2 = 0 then .xtok rs1 else .bad
    | 3 => if rd = 0 then .xseq rs1 rs2 else .bad
    | _ => .bad

/-- A 32-bit instruction (R227, R238). -/
def decodeCc32 (w : Nat) : CcOp :=
  let rd := bits w 11 7
  let f3 := bits w 14 12
  let rs1 := bits w 19 15
  let rs2 := bits w 24 20
  let f7 := bits w 31 25
  let immI := sext32 12 (bits w 31 20)
  match bits w 6 0 with
  | 0x37 => .lui rd (BitVec.ofNat 32 (bits w 31 12 * 2 ^ 12))
  | 0x17 => .auipc rd (BitVec.ofNat 32 (bits w 31 12 * 2 ^ 12))
  | 0x6F => .jal rd (sext32 21 (bits w 31 31 * 2 ^ 20 + bits w 19 12 * 2 ^ 12 + bits w 20 20 * 2 ^ 11 + bits w 30 21 * 2))
  | 0x67 => if f3 = 0 then .jalr rd rs1 immI else .bad
  | 0x63 => if f3 = 2 ∨ f3 = 3 then .bad else
      .branch f3 rs1 rs2 (sext32 13 (bits w 31 31 * 2 ^ 12 + bits w 7 7 * 2 ^ 11 + bits w 30 25 * 2 ^ 5 + bits w 11 8 * 2))
  | 0x03 => if f3 = 3 ∨ 5 < f3 then .bad else .load f3 rd rs1 immI
  | 0x23 => if 2 < f3 then .bad else .store f3 rs1 rs2 (sext32 12 (f7 * 2 ^ 5 + rd))
  | 0x13 =>
    if f3 = 1 then (if f7 = 0 then .aluI .sll rd rs1 (BitVec.ofNat 32 rs2) else .bad)
    else if f3 = 5 then
      (if f7 = 0 then .aluI .srl rd rs1 (BitVec.ofNat 32 rs2) else if f7 = 0x20 then .aluI .sra rd rs1 (BitVec.ofNat 32 rs2) else .bad)
    else match aluOp 0 f3 with | some o => .aluI o rd rs1 immI | none => .bad
  | 0x33 => match aluOp f7 f3 with | some o => .alu o rd rs1 rs2 | none => .bad
  | 0x0F => if f3 = 0 then .fence else .bad
  | 0x73 => if f3 = 0 then (if w = 0x00100073 then .ebreak else .bad) else if f3 = 4 then .bad else .csr f3 rd rs1 (bits w 31 20)
  | 0x0B => decodeExt false f3 f7 rd rs1 rs2
  | 0x2B => decodeExt true f3 f7 rd rs1 rs2
  | _ => .bad

/-- A compressed instruction of RV32C without floating point. -/
def decodeCc16 (h : Nat) : CcOp :=
  let rd := bits h 11 7
  let r2 := bits h 6 2
  let rp := 8 + bits h 9 7
  let r2p := 8 + bits h 4 2
  let b12 := bit h 12
  let imm6 := sext32 6 (bits h 12 12 * 2 ^ 5 + r2)
  let uimmW := BitVec.ofNat 32 (bits h 5 5 * 2 ^ 6 + bits h 12 10 * 2 ^ 3 + bits h 6 6 * 2 ^ 2)
  let jOff := sext32 12 (bits h 12 12 * 2 ^ 11 + bits h 8 8 * 2 ^ 10 + bits h 10 9 * 2 ^ 8 + bits h 6 6 * 2 ^ 7 +
    bits h 7 7 * 2 ^ 6 + bits h 2 2 * 2 ^ 5 + bits h 11 11 * 2 ^ 4 + bits h 5 3 * 2)
  let bOff := sext32 9 (bits h 12 12 * 2 ^ 8 + bits h 6 5 * 2 ^ 6 + bits h 2 2 * 2 ^ 5 + bits h 11 10 * 2 ^ 3 + bits h 4 3 * 2)
  match bits h 1 0, bits h 15 13 with
  | 0, 0 =>
    let u := bits h 10 7 * 2 ^ 6 + bits h 12 11 * 2 ^ 4 + bits h 5 5 * 2 ^ 3 + bits h 6 6 * 2 ^ 2
    if u = 0 then .bad else .aluI .add r2p 2 (BitVec.ofNat 32 u)
  | 0, 2 => .load 2 r2p rp uimmW
  | 0, 6 => .store 2 rp r2p uimmW
  | 1, 0 => .aluI .add rd rd imm6
  | 1, 1 => .jal 1 jOff
  | 1, 2 => .aluI .add rd 0 imm6
  | 1, 3 =>
    if rd = 2 then
      let u := bits h 12 12 * 2 ^ 9 + bits h 4 3 * 2 ^ 7 + bits h 5 5 * 2 ^ 6 + bits h 2 2 * 2 ^ 5 + bits h 6 6 * 2 ^ 4
      if u = 0 then .bad else .aluI .add 2 2 (sext32 10 u)
    else
      let u := bits h 12 12 * 2 ^ 17 + r2 * 2 ^ 12
      if u = 0 then .bad else .lui rd (sext32 18 u)
  | 1, 4 =>
    match bits h 11 10 with
    | 0 => if b12 then .bad else .aluI .srl rp rp (BitVec.ofNat 32 r2)
    | 1 => if b12 then .bad else .aluI .sra rp rp (BitVec.ofNat 32 r2)
    | 2 => .aluI .and rp rp imm6
    | _ => if b12 then .bad else match bits h 6 5 with
      | 0 => .alu .sub rp rp r2p | 1 => .alu .xor rp rp r2p | 2 => .alu .or rp rp r2p | _ => .alu .and rp rp r2p
  | 1, 5 => .jal 0 jOff
  | 1, 6 => .branch 0 rp 0 bOff
  | 1, 7 => .branch 1 rp 0 bOff
  | 2, 0 => if b12 then .bad else .aluI .sll rd rd (BitVec.ofNat 32 r2)
  | 2, 2 =>
    if rd = 0 then .bad
    else .load 2 rd 2 (BitVec.ofNat 32 (bits h 3 2 * 2 ^ 6 + bits h 12 12 * 2 ^ 5 + bits h 6 4 * 2 ^ 2))
  | 2, 4 =>
    if r2 = 0 then (if rd = 0 then (if b12 then .ebreak else .bad) else .jalr b12.toNat rd 0)
    else .alu .add rd (if b12 then rd else 0) r2
  | 2, 6 => .store 2 2 r2 (BitVec.ofNat 32 (bits h 8 7 * 2 ^ 6 + bits h 12 9 * 2 ^ 2))
  | _, _ => .bad

/-- The result of an integer operation, with RISC-V's results for a division by zero and on overflow. -/
def Alu.run (o : Alu) (a b : W32) : W32 :=
  let sh := b.toNat % 32
  match o with
  | .add => a + b
  | .sub => a - b
  | .sll => a <<< sh
  | .slt => if a.slt b then 1 else 0
  | .sltu => if a.ult b then 1 else 0
  | .xor => a ^^^ b
  | .srl => a >>> sh
  | .sra => a.sshiftRight sh
  | .or => a ||| b
  | .and => a &&& b
  | .mul => a * b
  | .mulh => BitVec.ofInt 32 (a.toInt * b.toInt / 2 ^ 32)
  | .mulhsu => BitVec.ofInt 32 (a.toInt * b.toNat / 2 ^ 32)
  | .mulhu => BitVec.ofNat 32 (a.toNat * b.toNat / 2 ^ 32)
  | .div => if b = 0 then BitVec.allOnes 32 else BitVec.ofInt 32 (a.toInt.tdiv b.toInt)
  | .divu => if b = 0 then BitVec.allOnes 32 else BitVec.ofNat 32 (a.toNat / b.toNat)
  | .rem => if b = 0 then a else BitVec.ofInt 32 (a.toInt.tmod b.toInt)
  | .remu => if b = 0 then a else BitVec.ofNat 32 (a.toNat % b.toNat)

/-- Control-core cycles of an integer operation (R232). -/
def Alu.cycles : Alu → Nat
  | .mul | .mulh | .mulhsu | .mulhu => 2
  | .div | .divu | .rem | .remu => 17
  | _ => 1

/-- A branch condition. -/
def branchTaken (f3 : Nat) (a b : W32) : Bool :=
  match f3 with
  | 0 => a == b
  | 1 => a != b
  | 4 => a.slt b
  | 5 => !a.slt b
  | 6 => a.ult b
  | _ => !a.ult b

/-! ## Registers, memory, fetch -/

/-- Register x_i of a context's bank; x0 reads 0. -/
def Rec.xreg (r : Rec) (i : Nat) : W32 := if i = 0 then 0 else Tab.get 0 r.x i

/-- The address at which a context's data share begins in its view (R228). -/
def ccDataBase : Nat := 0x10000

/-- An address of the context's view lies, with n bytes, inside its data share; the offset in the share. -/
def State.ccData (s : State) (p c a n : Nat) : Option Nat :=
  if ccDataBase ≤ a ∧ a - ccDataBase + n ≤ (s.ccDShare p c).2 then some (a - ccDataBase) else none

/-- The instruction at the control core's pc with its length; none when the fetch leaves the instruction share (R229). -/
def State.ccFetch (s : State) (p c : Nat) : Option (CcOp × Nat) :=
  let pc := (s.ctx p c).cur.ccpc
  let share := s.ccIShare p c
  let m := (s.engine p).ccI
  let h := leNat (Mem.bytes m (share.1 + pc) 2)
  if share.2 < pc + 2 then none
  else if h % 4 ≠ 3 then some (decodeCc16 h, 2)
  else if share.2 < pc + 4 then none
  else some (decodeCc32 (leNat (Mem.bytes m (share.1 + pc) 4)), 4)

/-- What an instruction's run ends in: its state with rd, its value, the next pc and its cycles; a hold with its CC_STAT
code; a program fault. -/
inductive CcRan
  | ok (s : State) (rd : Nat) (v : W32) (pc : W32) (cycles : Nat)
  | hold (code : Nat)
  | bad (code : Nat)

/-- A load: alignment, share, sign (R229). An address that is misaligned and outside the share faults as misaligned. (DESIGN
CHOICE, log entry 131.) -/
def State.ccLoad (s : State) (p c f3 a : Nat) : Nat ⊕ W32 :=
  let n := 2 ^ (f3 % 4)
  if a % n ≠ 0 then .inl fMalformed
  else match s.ccData p c a n with
    | none => .inl fBound
    | some o =>
      let v := leNat (Mem.bytes (s.engine p).ccD ((s.ccDShare p c).1 + o) n)
      .inr (if f3 < 4 then sext32 (8 * n) v else BitVec.ofNat 32 v)

/-- A store: alignment, share, and the journal's entry for a word first stored in the segment (R229, R237). The alignment comes
first, as for a load. (DESIGN CHOICE, log entry 131.) -/
def State.ccStore (s : State) (p c f3 a : Nat) (v : W32) : Nat ⊕ State :=
  let n := 2 ^ f3
  if a % n ≠ 0 then .inl fMalformed
  else match s.ccData p c a n with
    | none => .inl fBound
    | some o =>
      let x := s.ctx p c
      let base := (s.ccDShare p c).1
      let w := o / 4 * 4
      let known := x.journal.any (fun kv => kv.1 == w)
      if !known && decide (1024 ≤ x.journal.length) then .inl fHeld
      else
        let old := BitVec.ofNat 32 (leNat (Mem.bytes (s.engine p).ccD (base + w) 4))
        let s := if known then s else s.modCtx p c (fun x => { x with journal := x.journal.set w old })
        .inr (s.modEngine p (fun e => { e with ccD := e.ccD.store (base + o) (leBytes n v.toNat) }))

/-! ## CSRs (R228, R243) -/

/-- The finished check value: the running value against all ones of its width (R251). -/
def Csrs.finished (k : Csrs) : W64 := if k.poly then ~~~ k.run else (k.run ^^^ 0xFFFFFFFF) &&& 0xFFFFFFFF

/-- The value of a CSR; none for a number that R228 and R243 do not list. XNFC0 and XNFC1 show RED_NFCNT_c, which a context load
leaves as it stands. (DESIGN CHOICE, log entry 29, DEDUCED, log entry 132.) -/
def State.csrRead (s : State) (p c num : Nat) : Option W32 :=
  let x := s.ctx p c
  let k := x.cur.csr
  let lo := fun (v : W64) => v.setWidth 32
  let hi := fun (v : W64) => (v >>> 32).setWidth 32
  match num with
  | 0xC00 => some (lo x.cur.cycle)
  | 0xC80 => some (hi x.cur.cycle)
  | 0xC02 => some (lo x.cur.instret)
  | 0xC82 => some (hi x.cur.instret)
  | 0x800 => some (if k.lclost then 1 else 0)
  | 0x801 => some (lo (s.reg (Reg.arrTstat p c)))
  | 0x802 => some (lo (s.reg (Reg.vecFlags p c)))
  | 0x808 | 0x809 | 0x80A | 0x80B | 0x80C | 0x80D | 0x80E | 0x80F => some (Tab.get 0 x.cur.lc (num - 0x808))
  | 0x810 => some (if k.poly then 1 else 0)
  | 0x811 => some (lo k.run)
  | 0x812 => some (if k.poly then hi k.run else 0)
  | 0x813 => some k.cuffSrc
  | 0x814 => some k.cuffLen
  | 0x820 => some (lo k.rnSeed)
  | 0x821 => some (hi k.rnSeed)
  | 0x822 => some k.rnId
  | 0x823 => some k.rnW3
  | 0x824 => some (lo k.rnIb)
  | 0x825 => some (hi k.rnIb)
  | 0x826 => some k.rnDst
  | 0x827 => some k.rnCnt
  | 0x828 => some (BitVec.ofNat 32 (k.rnMode.toNat + 2 * k.rnStep.toNat))
  | 0x829 => some k.rnSrc
  | 0xCC0 => some (BitVec.ofNat 32 x.cur.sumq.length)
  | 0xCC1 => some (hi k.latch.value)
  | 0xCC2 => some (BitVec.ofNat 32 (k.latch.tag.toNat + k.latch.kind.toNat * 2 ^ 16 + k.latch.fromRed.toNat * 2 ^ 20))
  | 0xCC3 => some (lo k.finished)
  | 0xCC4 => some (hi k.finished)
  | 0xCC5 => some (lo x.cur.stepNo)
  | 0xCC6 => some (hi x.cur.stepNo)
  | 0xCC7 => some (lo (s.reg (Reg.redNfcnt p c)))
  | 0xCC8 => some (hi (s.reg (Reg.redNfcnt p c)))
  | 0xCC9 => some (BitVec.ofNat 32 (64 - x.seqOps.length))
  | _ => none

/-- The low or the high half of a word replaced. -/
def setLo (x : W64) (v : W32) : W64 := (x &&& 0xFFFFFFFF00000000) ||| v.setWidth 64
def setHi (x : W64) (v : W32) : W64 := (x &&& 0xFFFFFFFF) ||| (v.setWidth 64 <<< 32)

/-- A CSR written with a value (R243). -/
def State.csrWrite (s : State) (p c num : Nat) (v : W32) : State :=
  let k := fun (f : Csrs → Csrs) => s.modCur p c (fun r => { r with csr := f r.csr })
  match num with
  | 0x808 | 0x809 | 0x80A | 0x80B | 0x80C | 0x80D | 0x80E | 0x80F => s.modCur p c (·.setLc (num - 0x808) v)
  | 0x810 => k (fun k => { k with poly := v.getLsbD 0, run := if v.getLsbD 0 then BitVec.allOnes 64 else 0xFFFFFFFF })
  | 0x811 => k (fun k => { k with run := setLo k.run v })
  | 0x812 => k (fun k => if k.poly then { k with run := setHi k.run v } else k)
  | 0x813 => k (fun k => { k with cuffSrc := v })
  | 0x814 => k (fun k => { k with cuffLen := v })
  | 0x820 => k (fun k => { k with rnSeed := setLo k.rnSeed v })
  | 0x821 => k (fun k => { k with rnSeed := setHi k.rnSeed v })
  | 0x822 => k (fun k => { k with rnId := v })
  | 0x823 => k (fun k => { k with rnW3 := v })
  | 0x824 => k (fun k => { k with rnIb := setLo k.rnIb v })
  | 0x825 => k (fun k => { k with rnIb := setHi k.rnIb v })
  | 0x826 => k (fun k => { k with rnDst := v })
  | 0x827 => k (fun k => { k with rnCnt := v })
  | 0x828 => k (fun k => { k with rnMode := v.getLsbD 0, rnStep := v.getLsbD 1 })
  | 0x829 => k (fun k => { k with rnSrc := v })
  | _ => s

/-- A W1C CSR with the bits of a mask cleared. -/
def State.csrClear (s : State) (p c num : Nat) (m : W32) : State :=
  match num with
  | 0x800 => s.modCur p c (fun r => { r with csr := { r.csr with lclost := r.csr.lclost && !m.getLsbD 0 } })
  | 0x801 => s.setReg (Reg.arrTstat p c) (s.reg (Reg.arrTstat p c) &&& ~~~ m.setWidth 64)
  | _ => s.setReg (Reg.vecFlags p c) (s.reg (Reg.vecFlags p c) &&& ~~~ m.setWidth 64)

/-- The CSRs that show the running value of the program lane. -/
def runningCsr (num : Nat) : Bool := [0x811, 0x812, 0xCC3, 0xCC4].contains num

/-- A CSR instruction (Zicsr, R243). One that reads the running value sees every feed issued before it, so it holds while a
Sand feed runs (R252). -/
def runCsr (p c f3 rd rs1 num : Nat) (next : W32) (s : State) : CcRan :=
  let src : W32 := if 4 ≤ f3 then BitVec.ofNat 32 rs1 else (s.ctx p c).cur.xreg rs1
  let kind := f3 % 4
  let writes := kind == 1 || rs1 != 0
  match s.csrRead p c num with
  | none => .bad fMalformed
  | some old =>
    let s' := if kind = 1 then s.csrWrite p c num src else if kind = 2 then s.csrWrite p c num (old ||| src)
      else s.csrWrite p c num (old &&& ~~~ src)
    if 0xC00 ≤ num ∧ writes then .bad fMalformed
    else if runningCsr num ∧ (s.ctx p c).cur.feed.isSome then .hold 4
    else if 0x800 ≤ num ∧ num ≤ 0x802 then
      (if kind = 2 then (if src = 0 then .ok s rd old next 1 else .bad fMalformed)
       else .ok (s.csrClear p c num src) rd old next 1)
    else .ok (if writes then s' else s) rd old next 1

/-! ## The extension -/

/-- A token operand that must name a token of class 0x2, or none (R241). -/
def coreTok (v : W32) : Option Tok :=
  let t : Tok := v.setWidth 16
  if v.toNat < 2 ^ 16 ∧ (t = 0 ∨ tokClass t = 2) then some t else none

/-- The CORE queue has no room, or a token for it is held already (R184). -/
def Ctx.coreFull (x : Ctx) : Bool := decide (32 ≤ (x.tokens 2).length) || Tab.get [] x.heldTok 2 != []

/-- The operation codes of R337. -/
inductive SeqKind | admitSeq | capture | retire | release
  deriving DecidableEq, Repr

/-- The operation of an xseq's rs2; none outside the table of R337. -/
def seqKind (op : W32) : Option SeqKind :=
  match op.toNat % 16 with
  | 1 => some .admitSeq | 2 => some .capture | 3 => some .retire | 4 => some .release | _ => none

/-- An ADMIT that R341 does not allow the context to post: while STRICT = 1, by another context than ROLL_ADM_q names, or
at a step that is not a multiple of INTERVAL. (DEDUCED, log entry 26.) -/
def State.admitBad (s : State) (p c : Nat) : Bool :=
  let x := s.ctx p c
  let a := Reg.rollAdm x.part
  s.strict && !(s.leFor p c == some (s.fld a 5 0) && s.fld a 7 6 == c && x.cur.stepNo.toNat % s.fld a 31 16 == 0)

/-- xseq (R242, R337, R341). (DEDUCED, log entry 26.) -/
def runXseq (p c rs1 rs2 : Nat) (next : W32) (s : State) : CcRan :=
  let x := s.ctx p c
  let e := x.cur.xreg rs1
  let op := x.cur.xreg rs2
  let t := Reg.rollSeqt x.part
  let arg := bits op.toNat 11 4
  if 65536 ≤ e.toNat ∨ s.flag t 57 = false ∨ s.fld t 56 40 ≤ e.toNat ∨ 2 ^ 12 ≤ op.toNat ∨ seqKind op = none ∨
     (seqKind op = some .retire ∧ arg = 0) ∨ (seqKind op ≠ some .retire ∧ arg ≠ 0) ∨ 64 ≤ x.seqOps.length ∨
     (seqKind op = some .admitSeq ∧ s.admitBad p c = true) then .bad fMalformed
  else .ok (s.modCtx p c (fun x => { x with seqOps := x.seqOps ++ [⟨e, op⟩] })) 0 0 next 1

/-- xsq.pop (R239). (DESIGN CHOICE, log entry 29.) -/
def runXsqPop (p c rd : Nat) (next : W32) (s : State) : CcRan :=
  match (s.ctx p c).cur.sumq with
  | [] => .hold 1
  | e :: es =>
    .ok (s.modCur p c (fun r => { r with sumq := es, csr := { r.csr with latch := e } })) rd (e.value.setWidth 32) next 1

/-- xsel (R240). -/
def runXsel (p c rs1 : Nat) (next : W32) (s : State) : CcRan :=
  let x := s.ctx p c
  if x.sel.isSome then .hold 2
  else .ok (s.modCtx p c (fun x => { x with sel := some (x.cur.xreg rs1) })) 0 0 next 1

/-- xtok (R241). -/
def runXtok (p c rs1 : Nat) (next : W32) (s : State) : CcRan :=
  let x := s.ctx p c
  match coreTok (x.cur.xreg rs1) with
  | none => .bad fMalformed
  | some t => if t = 0 then .bad fMalformed else if x.coreFull then .hold 3 else .ok (s.deliver p c (.core p c) t) 0 0 next 1

/-- The polynomial of the program lane (R243). -/
def Csrs.polynomial (k : Csrs) : W64 := if k.poly then polyCrc64 else polyCrc32c

/-- A register feed of the program lane (R238, R252, R253). -/
def runXcrc (p c f3 rs1 : Nat) (next : W32) (s : State) : CcRan :=
  let x := s.ctx p c
  if x.cur.feed.isSome then .hold 4
  else
    let bs := leBytes (2 ^ f3) (x.cur.xreg rs1).toNat
    .ok (s.modCur p c (fun r => { r with csr := { r.csr with run := bs.foldl (crcByte r.csr.polynomial) r.csr.run } })) 0 0 next 1

/-- xcrc.sand: the feed begins (R236, R241, R253, R273). A bad configuration is judged before the share, and the share before a
held range. (DEDUCED, log entry 31, DESIGN CHOICE, log entry 131.) -/
def runXcrcSand (p c rs1 : Nat) (next : W32) (s : State) : CcRan :=
  let x := s.ctx p c
  let k := x.cur.csr
  if x.cur.feed.isSome then .hold 4
  else match coreTok (x.cur.xreg rs1) with
    | none => .bad fMalformed
    | some t =>
      if k.cuffLen.toNat = 0 ∨ 2 ^ 24 < k.cuffLen.toNat then .bad fMalformed
      else if s.sandOk p c k.cuffSrc.toNat k.cuffLen.toNat = false then .bad fBound
      else if x.holds 0 k.cuffSrc.toNat k.cuffLen.toNat then .bad fHeld
      else .ok (s.modCur p c (fun r => { r with feed := some ⟨k.cuffSrc.toNat, k.cuffLen.toNat, t⟩ })) 0 0 next 1

/-- The configuration of a fill is one that R243 and R247 allow. -/
def Csrs.fillOk (k : Csrs) : Bool :=
  k.rnDst.toNat % 4 == 0 && decide (1 ≤ k.rnCnt.toNat) && decide (k.rnCnt.toNat ≤ (if k.rnMode then 65536 else 1048576)) &&
  (!k.rnMode || (!k.rnStep && k.rnSrc.toNat % 16 == 0))

/-- xrn.go: the fill begins with the configuration it latches (R241, R249, R250, R236). A bad configuration is judged before the
share, and the share before a held range. (DEDUCED, log entry 31, DESIGN CHOICE, log entry 131.) -/
def runXrnGo (p c rs1 : Nat) (next : W32) (s : State) : CcRan :=
  let x := s.ctx p c
  let k := x.cur.csr
  let n := k.rnCnt.toNat
  let len := if k.rnMode then 16 * n else 4 * n
  if x.cur.fill.isSome then .hold 5
  else match coreTok (x.cur.xreg rs1) with
    | none => .bad fMalformed
    | some t =>
      if k.fillOk = false then .bad fMalformed
      else if s.sandOk p c k.rnDst.toNat len = false ∨ (k.rnMode = true ∧ s.sandOk p c k.rnSrc.toNat (16 * n) = false) then
        .bad fBound
      else if x.holds 0 k.rnDst.toNat len then .bad fHeld
      else
        let f : RnFill :=
          { seed := k.rnSeed, id := k.rnId, w3 := if k.rnStep then x.cur.stepNo.setWidth 32 else k.rnW3, ib := k.rnIb,
            dst := k.rnDst.toNat, cnt := n, seq := k.rnMode, src := k.rnSrc.toNat, tok := t, pc := x.cur.ccpc }
        .ok (s.modCur p c (fun r => { r with fill := some f })) 0 0 next 1

/-! ## One instruction -/

/-- The effect of an instruction at pc, `len` bytes long (R227, R229, R232, R238). FENCE, which the table of R232 does not
list, takes one cycle. (DESIGN CHOICE, log entry 114.) -/
def runCc (p c : Nat) (o : CcOp) (len : Nat) (s : State) : CcRan :=
  let r := (s.ctx p c).cur
  let pc : W32 := BitVec.ofNat 32 r.ccpc
  let next := pc + BitVec.ofNat 32 len
  match o with
  | .lui rd v => .ok s rd v next 1
  | .auipc rd v => .ok s rd (pc + v) next 1
  | .jal rd off => .ok s rd next (pc + off) 2
  | .jalr rd rs1 off => .ok s rd next ((r.xreg rs1 + off) &&& ~~~ 1) 2
  | .branch f3 a b off =>
    if branchTaken f3 (r.xreg a) (r.xreg b) then .ok s 0 0 (pc + off) 2 else .ok s 0 0 next 1
  | .load f3 rd rs1 off =>
    match s.ccLoad p c f3 (r.xreg rs1 + off).toNat with
    | .inl k => .bad k
    | .inr v => .ok s rd v next 2
  | .store f3 rs1 rs2 off =>
    match s.ccStore p c f3 (r.xreg rs1 + off).toNat (r.xreg rs2) with
    | .inl k => .bad k
    | .inr t => .ok t 0 0 next 1
  | .aluI o rd rs1 v => .ok s rd (o.run (r.xreg rs1) v) next o.cycles
  | .alu o rd rs1 rs2 => .ok s rd (o.run (r.xreg rs1) (r.xreg rs2)) next o.cycles
  | .fence => .ok s 0 0 next 1
  | .ebreak => .bad fMalformed
  | .csr f3 rd rs1 num => runCsr p c f3 rd rs1 num next s
  | .xsqPop rd => runXsqPop p c rd next s
  | .xsel rs1 => runXsel p c rs1 next s
  | .xtok rs1 => runXtok p c rs1 next s
  | .xseq rs1 rs2 => runXseq p c rs1 rs2 next s
  | .xcrc f3 rs1 => runXcrc p c f3 rs1 next s
  | .xcrcSand rs1 => runXcrcSand p c rs1 next s
  | .xrnGo rs1 => runXrnGo p c rs1 next s
  | .bad => .bad fMalformed

/-- The control core runs: its context holds the engine and neither a replay, a stall, nor a debug halt stops it
(R231). -/
def State.ccCan (s : State) (p c : Nat) : Bool :=
  let x := s.ctx p c
  s.holds? p c && (x.rep == .idle || x.rep == .running) && !x.stalled && !x.dbgHalt && !x.ccHalt

/-- A fault of the control core's instruction at an address: CU_STAT by R224 with FCLASS 7 and FPC 0, CC_STAT.FPC the address
(R236). A shadow ends with its audit. -/
def State.ccFaultAt (s : State) (p c code fpc : Nat) : State :=
  if (s.ctx p c).shadow then s.dropAudit p c else
  (s.fault p c code 7 0).modCtx p c (fun x => { x with ccFpc := fpc, ccWait := 0 })

/-- A fault of the control core's present instruction. -/
def State.ccFault (s : State) (p c code : Nat) : State := s.ccFaultAt p c code (s.ctx p c).cur.ccpc

/-- The end of an instruction, of a hold's cycle, or of a fault (R228, R232). (DESIGN CHOICE, log entry 29.) -/
def State.ccEnd (s : State) (p c : Nat) : CcRan → State
  | .ok t rd v pc cyc => t.modCtx p c (fun x => { x with
      ccWait := 0
      cur := { x.cur with
        x := if rd = 0 then x.cur.x else x.cur.x.set rd v
        ccpc := pc.toNat
        cycle := x.cur.cycle + BitVec.ofNat 64 cyc
        instret := x.cur.instret + 1 } })
  | .hold code => s.modCtx p c (fun x => { x with ccWait := code, cur := { x.cur with cycle := x.cur.cycle + 1 } })
  | .bad code => s.ccFault p c code

/-- A row of the control core: the instruction at its pc, when it is one that the row names. -/
def State.ccRow (s : State) (p c : Nat) (mine : State → CcOp → Bool) : State :=
  if !s.ccCan p c then s
  else match s.ccFetch p c with
    | none => s
    | some (o, len) => if mine s o then s.ccEnd p c (runCc p c o len s) else s

/-- The control core's next instruction is one that a row names, and it can run. -/
def State.ccNext (s : State) (p c : Nat) (mine : State → CcOp → Bool) : Bool :=
  s.ccCan p c && (match s.ccFetch p c with | some (o, _) => mine s o | none => false)

/-- The operation that an xseq names. -/
def State.xseqKind (s : State) (p c : Nat) : CcOp → Option (Option SeqKind)
  | .xseq _ rs2 => some (seqKind ((s.ctx p c).cur.xreg rs2))
  | _ => none

/-- The instructions of CC_INSTRUCTION: those of RV32IMC, and every encoding that no other row names. (DEDUCED, log entry
34.) -/
def State.ccPlain (s : State) (p c : Nat) (o : CcOp) : Bool :=
  match o with
  | .csr .. | .ebreak | .xsqPop _ | .xsel _ | .xtok _ | .xcrc .. | .xcrcSand _ | .xrnGo _ => false
  | .xseq .. => s.xseqKind p c o == some none
  | _ => true

/-- A check of the control core fails, by itself or with another of the context: the cycle's outputs are suppressed and the
segment is replayed (R234, R235, R504). -/
def State.ccUpset (s : State) (p c cls : Nat) (also : Option Second) : State :=
  (s.bump (Reg.ccLockfail p) 1).replayBoth p c cls [] none also

/-- CC_INSTRUCTION: a standard instruction, or the check that its cycle meets (R232, R234, R235). A fetch outside the
instruction share faults (R229). (DEDUCED, log entry 32, DEDUCED, log entry 34.) -/
def execCcInstruction (p : PhysE) (c : Place) (upset : CcUpset) (s : State) : Out :=
  .next (
    if !s.ccCan p c then s
    else match upset with
      | .lockstep also => s.ccUpset p c 0x07 also
      | .eccUncorrectable also => s.ccUpset p c 0x08 also
      | u =>
        let s := if u = .eccCorrected then s.bump (Reg.ccEcccor p) 1 else s
        match s.ccFetch p c with
        | none => s.ccFault p c fBound
        | some (o, len) => if s.ccPlain p c o then s.ccEnd p c (runCc p c o len s) else s)

/-- EBREAK: it halts the control core when a debug session has armed it, and faults otherwise (R227, R495). (DEDUCED, log
entry 33.) -/
def execEbreak (p : PhysE) (c : Place) (s : State) : Out :=
  .next (
    match s.ccFetch p c with
    | some (.ebreak, len) =>
      if !s.ccCan p c then s
      else if (s.ctx p c).dbgArm then
        s.modCtx p c (fun x => { x with ccHalt := true, cur := { x.cur with ccpc := x.cur.ccpc + len } })
      else s.ccFault p c fMalformed
    | _ => s)

/-- A CSR instruction that writes one of XLC0 to XLC7. -/
def CcOp.writesLc : CcOp → Bool
  | .csr f3 _ rs1 num => decide (0x808 ≤ num) && decide (num ≤ 0x80F) && (f3 % 4 == 1 || rs1 != 0)
  | _ => false

/-- CSR_ACCESS (R243). `lost` says that an instruction of the engine writes the same loop-count register in that cc: the
control core's write of it is discarded, and XSTAT.LCLOST shows it (R196). -/
def execCsrAccess (p : PhysE) (c : Place) (lost : Bool) (s : State) : Out :=
  let t := s.ccRow p c (fun _ o => match o with | .csr .. => true | _ => false)
  .next (if lost && s.ccNext p c (fun _ o => o.writesLc) then
      t.modCur p c (fun r => { r with lc := (s.ctx p c).cur.lc, csr := { r.csr with lclost := true } })
    else t)
/-- XSQ_POP (R239). -/
def execXsqPop (p : PhysE) (c : Place) (s : State) : Out :=
  .next (s.ccRow p c (fun _ o => match o with | .xsqPop _ => true | _ => false))
/-- XSEL (R240). -/
def execXsel (p : PhysE) (c : Place) (s : State) : Out :=
  .next (s.ccRow p c (fun _ o => match o with | .xsel _ => true | _ => false))
/-- XTOK (R241). -/
def execXtok (p : PhysE) (c : Place) (s : State) : Out :=
  .next (s.ccRow p c (fun _ o => match o with | .xtok _ => true | _ => false))
/-- ADMIT: an xseq that posts an ADMIT (R242, R337). -/
def execAdmitSeq (p : PhysE) (c : Place) (s : State) : Out :=
  .next (s.ccRow p c (fun s o => s.xseqKind p c o == some (some .admitSeq)))
/-- CAPTURE: an xseq that posts a CAPTURE (R242, R337). -/
def execCapture (p : PhysE) (c : Place) (s : State) : Out :=
  .next (s.ccRow p c (fun s o => s.xseqKind p c o == some (some .capture)))
/-- RETIRE: an xseq that posts a RETIRE (R242, R337). -/
def execRetire (p : PhysE) (c : Place) (s : State) : Out :=
  .next (s.ccRow p c (fun s o => s.xseqKind p c o == some (some .retire)))
/-- RELEASE: an xseq that posts a RELEASE (R242, R337). -/
def execRelease (p : PhysE) (c : Place) (s : State) : Out :=
  .next (s.ccRow p c (fun s o => s.xseqKind p c o == some (some .release)))
/-- XCRC_B (R238, R252). -/
def execXcrcB (p : PhysE) (c : Place) (s : State) : Out :=
  .next (s.ccRow p c (fun _ o => match o with | .xcrc f3 _ => f3 == 0 | _ => false))
/-- XCRC_H (R238, R252). -/
def execXcrcH (p : PhysE) (c : Place) (s : State) : Out :=
  .next (s.ccRow p c (fun _ o => match o with | .xcrc f3 _ => f3 == 1 | _ => false))
/-- XCRC_W (R238, R252). -/
def execXcrcW (p : PhysE) (c : Place) (s : State) : Out :=
  .next (s.ccRow p c (fun _ o => match o with | .xcrc f3 _ => f3 == 2 | _ => false))
/-- XCRC_SAND (R253). -/
def execXcrcSand (p : PhysE) (c : Place) (s : State) : Out :=
  .next (s.ccRow p c (fun _ o => match o with | .xcrcSand _ => true | _ => false))
/-- XRN_GO (R249, R250). -/
def execXrnGo (p : PhysE) (c : Place) (s : State) : Out :=
  .next (s.ccRow p c (fun _ o => match o with | .xrnGo _ => true | _ => false))

/-- The control core's next instruction is held, as its last cycle found it. -/
def State.ccHeld (s : State) (p c : Nat) : Bool :=
  s.ccCan p c && (s.ctx p c).ccWait != 0 &&
  (match s.ccFetch p c with
    | some (o, len) => (match runCc p c o len s with | .hold _ => true | _ => false)
    | none => false)

/-- WAIT_EXPIRED: the count of the context's group, or with `core` that of its control core, stands at `cc` while a hold that it
counts stands; once it has reached the limit of TOKWD the hold expires (R188, R236). The counts themselves are time, which the
sender keeps. (DESIGN CHOICE, log entry 11.) -/
def execWaitExpired (p : PhysE) (c : Place) (core : Bool) (cc : Nat) (s : State) : Out :=
  .next (
    if !core && s.counted p c && decide (s.heldLimit p c ≤ cc) then s.fault p c fExpired (s.heldClass p c)
      (match (s.ctx p c).commit with | some r => r.pc | none => (s.ctx p c).cur.pc)
    else if core && s.ccHeld p c && decide (1024 * s.fld (Reg.tokwd p c) 15 0 ≤ cc) then s.ccFault p c fExpired
    else s)

/-- CUFF_SAND_FEED_COMPLETE: the running Sand feed has fed its last byte; its token enters (R253), while the context runs
on its engine (R418). The feed runs under the polynomial and from the running value that stand at its end, as a write of XCUFFCFG
while it runs leaves them. (DEDUCED, log entry 30, DESIGN CHOICE, log entry 133.) -/
def execCuffSandFeedComplete (p : PhysE) (c : Place) (err : ReadErr) (s : State) : Out :=
  .next (
    match (s.ctx p c).cur.feed with
    | none => s
    | some f =>
      if !s.watched p c || s.stuck (.core p c) then s
      else s.sramRead p c 0 (sramAt 0 f.src f.len) err id (fun s =>
        let bs := s.sandBytes p c f.src f.len
        (s.modCur p c (fun r => { r with
          feed := none
          csr := { r.csr with run := bs.foldl (crcByte r.csr.polynomial) r.csr.run } })).deliver p c (.core p c) f.tok))

/-- The word of logical index i in a fill's blocks: word i mod 4 of block floor(i / 4), which counts on past 64 bits of the
index (R246, R249). -/
def fillWord (key : W64) (i : Nat) (id w3 : W32) : W32 :=
  (philox key (BitVec.ofNat 32 (i / 4)) (BitVec.ofNat 32 (i / 4 / 2 ^ 32)) id w3).getD (i % 4) 0

/-- The words of a fill (R246, R247). -/
def State.fillWords (s : State) (p c : Nat) (f : RnFill) : List W32 :=
  if f.seq then
    (List.range f.cnt).flatMap (fun k =>
      let d := s.sandBytes p c (f.src + 16 * k) 12
      philox f.seed (BitVec.ofNat 32 (dfld d 0 4)) (BitVec.ofNat 32 (dfld d 4 4)) f.id (BitVec.ofNat 32 (dfld d 8 4)))
  else (List.range f.cnt).map (fun j => fillWord f.seed (f.ib.toNat + j) f.id f.w3)

/-- RANDOM_FILL_COMPLETE: the fill's words stand in Sand and its token enters (R246, R247, R249), while the context runs on its
engine (R418). A word that falls into a range held since a commit is a fault at the fill's xrn.go (R236, R272, R273). (DEDUCED,
log entry 30.) -/
def execRandomFillComplete (p : PhysE) (c : Place) (err : ReadErr) (s : State) : Out :=
  .next (
    match (s.ctx p c).cur.fill with
    | none => s
    | some f =>
      if !s.watched p c || s.stuck (.core p c) then s
      else s.sramRead p c 0 (sramAt 0 f.src (16 * f.cnt)) (if f.seq then err else .ok) id (fun s =>
        if (s.ctx p c).holds 0 f.dst (if f.seq then 16 * f.cnt else 4 * f.cnt) then s.ccFaultAt p c fHeld f.pc
        else
          let ws := s.fillWords p c f
          ((s.sandStore p c f.dst (ws.flatMap (fun w => leBytes 4 w.toNat))).modCur p c
            (fun r => { r with fill := none })).deliver p c (.core p c) f.tok))

end Sys2Proof.Machine
end

