-- ==== Sys2Proof/Machine/Commit.lean ====
section
/-!
DEFINITION. What a commit does (R219, R271, R272): the digest log (R61 to R65), the batch's epoch switch (R343), the
release of sequence operations (R337 to R341), the completions held for the segment (R447), and what is recorded for a
replay of the segment that begins (R223, R237, R505).
-/

namespace Sys2Proof.Machine

/-! ## The held-range list (R271) -/

/-- One entry of a held-range list on module `own`: its range, or none when a reserved bit is set, its LEN is 0, or its BASE is
no address of this module's Loam, Clay or Shale (R271, R276). -/
def heldEntry (own : Nat) (d : Bytes) : Option HRange :=
  let base := dfld d 0 8
  let len := 64 * dfld d 8 4
  let local_ := dfld d 12 4 == 1
  if 1 < dfld d 12 4 ∨ len = 0 then none
  else if local_ then (if 2 ^ 25 ≤ base then none else some ⟨bits base 24 24, bits base 23 0, len⟩)
  else if gaWellFormed base ∧ gaMod base = own ∧ 2 ≤ gaTier base ∧ gaTier base ≤ 4 then some ⟨gaTier base, gaOff base, len⟩ else none

/-- The list at a Sand offset of a context: its ranges, or the code of the fault (R271, R276). (DEDUCED, log entry 25.) -/
def State.heldList (s : State) (p c off : Nat) : Nat ⊕ List HRange :=
  if s.sandOk p c off 16 = false then .inl fBound
  else
    let h := s.sandBytes p c off 16
    let n := dfld h 0 1
    if 63 < n ∨ (h.drop 1).any (· != 0) then .inl fMalformed
    else if s.sandOk p c off (16 + 16 * n) = false then .inl fBound
    else
      let es := (List.range n).map (fun i => heldEntry s.ownId (s.sandBytes p c (off + 16 + 16 * i) 16))
      if es.any Option.isNone then .inl fMalformed else .inr (es.filterMap id)

/-! ## The digest log (R61 to R65) -/

/-- Ascending (identifier, bucket). -/
def DigAcc.le (a b : DigAcc) : Bool := decide (a.ident.toNat * 16 + a.bucket ≤ b.ident.toNat * 16 + b.bucket)

/-- An accumulator in its place in the order of R61. -/
def insertDig (a : DigAcc) : List DigAcc → List DigAcc
  | [] => [a]
  | b :: t => if a.le b then a :: b :: t else b :: insertDig a t

/-- The accumulators in the order of R61. -/
def sortDigs (as : List DigAcc) : List DigAcc := as.foldr insertDig []

/-- The 32 bytes of a log entry (R63). -/
def logEntry (step : W64) (replayed : Bool) (le : Nat) (a : DigAcc) : Bytes :=
  leBytes 8 step.toNat ++ leBytes 4 a.ident.toNat ++ leBytes 1 a.bucket ++
  leBytes 1 (replayed.toNat + 2 * a.nonfinite.toNat) ++ leBytes 2 le ++ leBytes 8 a.sum.toNat ++ leBytes 8 a.count.toNat

/-- The digest log of a partition writes entries: it is on and its size is one that R63 gives. -/
def State.logOn (s : State) (q : Nat) : Bool :=
  s.flag (Reg.dglCtl q) 0 && decide (7 ≤ s.fld (Reg.dglSize q) 4 0) && decide (s.fld (Reg.dglSize q) 4 0 ≤ 20)

/-- Entries for the log of partition q, one after another: none when a piece finds no slot; with it, whether an entry was
discarded (R61, R64). -/
def State.writeLog (s : State) (q le c : Nat) : List Bytes → Option (State × Bool)
  | [] => some (s, false)
  | e :: es =>
    let n := 2 ^ s.fld (Reg.dglSize q) 4 0
    let head := s.reg (Reg.dglHead q)
    let used := (head.toNat + 2 ^ 32 - (s.reg (Reg.dglTail q)).toNat) % 2 ^ 32
    if n ≤ used then ((s.bump (Reg.dglLost q) 1).writeLog q le c es).map (fun (t, _) => (t, true))
    else
      let a := s.fld (Reg.dglBase q) 43 12 * 4096 + 32 * (head.toNat % n)
      if s.slotsOk q le c 2 a 32 true then
        ((s.tierStore 2 a e).setReg (Reg.dglHead q) (BitVec.ofNat 64 ((head.toNat + 1) % 2 ^ 32))).writeLog q le c es
      else none

/-- The digest entries of a context's segment (R61); none for a slot conflict. -/
def State.digestLog (s : State) (p c : Nat) : Option State :=
  let x := s.ctx p c
  let le := (s.leOf p).getD 63
  if s.logOn x.part = false then some s
  else
    (s.writeLog x.part le c ((sortDigs x.digs).map (logEntry x.cur.stepNo (decide (1 < x.run)) le))).map (fun (t, lost) =>
      if lost then t.event x.part 0x0003 [] else t)

/-! ## Epoch slots and sequence operations -/

/-- The partition's CURRENT slot (R357). -/
def State.currentSlot (s : State) (q : Nat) : Option Nat :=
  (List.range 4).find? (fun n => s.fld (Reg.epsStat n) 2 0 == 3 && s.fld (Reg.epsStat n) 5 3 == q)

/-- A DRAINING slot that no entry holds becomes FREE (R360). -/
def State.drained (s : State) (n : Nat) : State :=
  if s.fld (Reg.epsStat n) 2 0 = 4 ∧ s.fld (Reg.epsStat n) 27 8 = 0 then s.setFld (Reg.epsStat n) 2 0 0 else s

/-- A switch of partition q to its slot n, which is READY; to a CURRENT one it changes nothing, and from any other state no
transition leads to CURRENT (R357, R360). -/
def State.switchEpoch (s : State) (q n : Nat) : State :=
  if s.fld (Reg.epsStat n) 2 0 ≠ 2 ∨ s.fld (Reg.epsStat n) 5 3 ≠ q then s
  else
    let s := match s.currentSlot q with
      | some o => (s.setFld (Reg.epsStat o) 2 0 4).drained o
      | none => s
    s.setFld (Reg.epsStat n) 2 0 3

/-- REFCNT of a slot one higher, or one lower (R360). -/
def State.refUp (s : State) (n : Nat) : State := s.setFld (Reg.epsStat n) 27 8 (s.fld (Reg.epsStat n) 27 8 + 1)
def State.refDown (s : State) (n : Nat) : State :=
  (s.setFld (Reg.epsStat n) 27 8 (s.fld (Reg.epsStat n) 27 8 - 1)).drained n

/-- The Loam offset of entry e of a partition's sequence table (R335). -/
def State.seqEntry (s : State) (q e : Nat) : Nat := s.fld (Reg.rollSeqt q) 39 16 * 65536 + 128 * e

/-- The request that an ADMIT takes (R341), and the Loam offset of its record (R340). -/
def State.nextRequest (s : State) (q : Nat) : Option (Req × Nat) :=
  let rs := Tab.get [] s.reqs q
  let head := s.reg (Reg.rollHead q)
  (if s.strict then rs.find? (fun r => r.seq == head) else rs.head?).map (fun r =>
    (r, s.fld (Reg.rollReq q) 39 12 * 4096 + 64 * r.slot))

/-- A refused operation (R338). -/
def State.opRefused (s : State) (p c : Nat) (o : SeqOp) : State :=
  let q := (s.ctx p c).part
  (s.bump (Reg.rollOperr q) 1).event q 0x0004
    (leBytes 4 o.entry.toNat ++ leBytes 4 o.op.toNat ++ leBytes 4 ((s.leOf p).getD 0xFF) ++ leBytes 4 c)

/-- Bytes 16 to 31 of an entry: STATE, EPOCH, REASON, zeros and EPOCH_ID (R336). -/
def entryTail (st epoch reason id : Nat) : Bytes := [BitVec.ofNat 8 st, BitVec.ofNat 8 epoch, BitVec.ofNat 8 reason] ++
  List.replicate 5 0 ++ leBytes 8 id

/-- One operation released: checked against the entry as it stands, refused or carried out; none when a piece of its Loam
traffic finds no slot (R337 to R339, R341). (DEDUCED, log entry 26, DEDUCED, log entry 27.) -/
def State.releaseOp (s : State) (p c : Nat) (o : SeqOp) : Option State :=
  let q := (s.ctx p c).part
  let le := (s.leOf p).getD 63
  let a := s.seqEntry q o.entry.toNat
  let ok := fun (at_ n : Nat) (write : Bool) => s.slotsOk q le c 2 at_ n write
  if seqKind o.op ≠ some .admitSeq ∧ ok a 32 false = false then none
  else
    let e := s.loamBytes a 32
    let st := dfld e 16 1 % 8
    let slot := dfld e 17 1 % 4
    let write := fun (s : State) (at_ : Nat) (bs : Bytes) => if ok at_ bs.length true then some (s.tierStore 2 at_ bs) else none
    match seqKind o.op, s.currentSlot q with
    | some .admitSeq, some n =>
      match s.nextRequest q with
      | none => some (s.opRefused p c o)
      | some (r, at_) =>
        if st ≠ 0 then some (s.opRefused p c o)
        else if ok at_ 64 false = false then none
        else
          let rec_ := s.loamBytes at_ 64
          let bs := (rec_.drop 8).take 8 ++ rec_.take 8 ++ entryTail 1 n 0 (s.reg (Reg.epsId n)).toNat ++ rec_.drop 32
          (write s a bs).map (fun s =>
            let s := { s with reqs := s.reqs.set q ((Tab.get [] s.reqs q).filter (fun u => u.seq != r.seq)) }
            let s := if s.strict then s.setReg (Reg.rollHead q) (s.reg (Reg.rollHead q) + 1) else s
            s.refUp n)
    | some .capture, some n =>
      if st ≠ 0 then some (s.opRefused p c o)
      else (write s a (List.replicate 16 0 ++ entryTail 2 n 0 (s.reg (Reg.epsId n)).toNat)).map (·.refUp n)
    | some .retire, _ =>
      if st ≠ 1 then some (s.opRefused p c o)
      else (write s a (e.take 16 ++ entryTail 3 slot (bits o.op.toNat 11 4) (dfld e 24 8))).map (·.refDown slot)
    | some .release, _ =>
      if st ≠ 2 ∧ st ≠ 3 then some (s.opRefused p c o)
      else (write s a (e.take 16 ++ entryTail 0 (dfld e 17 1) 0 (dfld e 24 8))).map (fun s =>
        if st = 2 then s.refDown slot else s)
    | _, _ => some (s.opRefused p c o)

/-- The segment's operations in posting order (R338). -/
def State.releaseOps (s : State) (p c : Nat) : List SeqOp → Option State
  | [] => some s
  | o :: os => (s.releaseOp p c o).bind (fun t => t.releaseOps p c os)

/-! ## The commit -/

/-- A locked-tier transfer whose data have landed: for the commit it is complete, though its token is to come (R219). -/
def Xfer.landed (t : Xfer) : Bool := !t.free && t.kind != .iload && decide (t.rows ≤ t.row)

/-- Every instruction that the context issued before its C.COMMIT has completed: M instructions and RXQ and Shale transfers
with their tokens in their queues, locked-tier transfers with their landing, D.SENDs with their hand-off (R184, R219). -/
def State.quiet (s : State) (p c : Nat) : Bool :=
  let e := s.engine p
  let x := s.ctx p c
  x.mPend.isNone && (match e.mLoad with | some (o, _) => o.ctx != c | none => true) &&
  e.flights.all (fun f => f.op.ctx != c) && e.mDone.all (fun o => o.ctx != c) && e.vchk.all (fun k => k.ctx != c) &&
  x.xfers.all Xfer.landed && x.shaleOut == [] && x.cmpPend == [] && x.sumHeld == [] &&
  !s.stuck (.m p c) && !s.stuck (.rxq p c) && !s.stuck (.shale p c)

/-- The segment of a context commits now. (DEDUCED, log entry 19.) -/
def State.commits (s : State) (p c : Nat) : Bool :=
  let x := s.ctx p c
  x.commit.isSome && s.holds? p c && s.quiet p c && (x.rep == .idle || x.rep == .running) && !x.stalled && !x.dbgHalt

/-- The switches of the admission batches whose tokens the segment popped (R343). -/
def State.batchSwitches (s : State) (p c : Nat) : State :=
  (s.ctx p c).hostPopped.foldl (fun s t => match t with
    | .batch (some n) => s.switchEpoch (s.ctx p c).part n
    | _ => s) s

/-- The completions held for the segment are released (R447). -/
def State.ackHeld (s : State) (p c : Nat) : State :=
  (s.ctx p c).hostPopped.foldl (fun s t => match t with
    | .ack r i => s.complete r i 0x00 0
    | _ => s) s

/-- The chunks that the segment took from receive queues leave their rings (R511). -/
def State.freeChunks (s : State) (p c : Nat) : State :=
  (s.ctx p c).taken.foldl (fun s (q, n) =>
    match s.recvTarget (s.recvHalf q) with
    | some (p', c', o) => s.sandStore p' c' (o + 40) (leBytes 8 (rdRd (s.sandBytes p' c' o 64) + n))
    | none => s) s

/-- What the module records for the segment that begins, and what it clears (R219, R223, R237, R505). The transfers that have
landed, and the tokens that full queues keep, belong to no later segment. (DEDUCED, log entry 28.) -/
def Ctx.record (x : Ctx) (held : List HRange) : Ctx :=
  let landed := x.xfers.map (fun t => { t with ordinal := none })
  { x with
    xfers := landed, savedX := landed, savedHeld := x.heldTok
    saved := x.cur, savedQ := x.queue, savedSel := x.sel, popped := [], hostPopped := [], netPopped := []
    digs := [], seqOps := [], qa := [], qaDup := [], nfc := 0, hranges := held, commit := none
    outNext := 0, outDone := [], suppress := [], hchunk := [], vchunk := [], taken := [], journal := []
    audit := 0, auditOrd := 0, run := 1, rep := .idle, engFails := 0, repFault := none, sameAddr := 0, migFrom := none
    segNo := x.segNo + 1 }

/-- A log entry of the replay controller: a record of class 0x17 with its outcome (R29, R532). -/
def State.replayLog (s : State) (p c outcome flags : Nat) : State :=
  let r := s.ctxRec p c 0x17 []
  s.sendRec blkReplay { r with run := outcome, flags := r.flags ||| flags }

/-- An engine is classified suspect, in the given state of ENG_HEALTH; one that was suspect already only changes its state
(R519, R521, R522). -/
def State.suspect (s : State) (p st : Nat) : State :=
  let old := s.fld (Reg.engHealth p) 2 0
  if old = 2 ∨ old = 3 then s.setFld (Reg.engHealth p) 2 0 st
  else
    let s := (s.bump Reg.rplSuspect 1).setFld (Reg.engHealth p) 2 0 st
    s.sendRec blkReplay { cls := 0x17, phys := some p, le := s.leOf p, run := 3 }

/-- A replay's run has passed: the segment's one fault of an engine class, after which it passes on the same engine, was
transient; one that passes on a spare makes the first engine suspect, to be probed (R519, R521). (DEDUCED, log entry 35.) -/
def State.replayPassed (s : State) (p c : Nat) : State :=
  let x := s.ctx p c
  if x.rep ≠ .running then s
  else match x.migFrom with
    | some p0 => s.suspect p0 3
    | none => if x.engFails = 1 then (s.bump Reg.rplTransient 1).replayLog p c 2 0 else s

/-- The registers of an engine window that belong to its context places: shares, watchdogs, flags and slice entries. The
counters of the window stay with the physical engine (R17). -/
def contextRegs (p : Nat) : List Nat :=
  (List.range 4).flatMap (fun c => [Reg.arrTstat p c, Reg.vregShare p c, Reg.vecFlags p c,
    Reg.sumqStat p c, Reg.imemShare p c, Reg.tokwd p c, Reg.ccShare p c, Reg.sandShare p c, Reg.siltShare p c]) ++
  (List.range 8).map (Reg.sliceEnt p)

/-- Those registers of engine p given to engine q. -/
def State.copyRegs (s : State) (p q : Nat) : State :=
  ((contextRegs p).zip (contextRegs q)).foldl (fun s (a, b) => s.setReg b (s.reg a)) s

/-- The audited segment has ended with this commit: the original's results wait for the shadow's (R528). -/
def State.auditCommit (s : State) (p c : Nat) : State :=
  match s.audit with
  | some a =>
    let x := s.ctx p c
    if a.p = p ∧ a.c = c ∧ a.begun = true ∧ a.orig.isNone = true then
      { s with audit := some { a with orig := some (x.digs, x.audit, x.cur.stepNo), popped := x.popped } }
    else s
  | none => s

/-- The context of a shadow: the original as its commit leaves it, with the tokens of its own and none from elsewhere, stopped until
the partition goes on (R526, R527). -/
def Ctx.shade (x : Ctx) : Ctx :=
  { x with
    shadow := true, stalled := true, queue := [(0, x.tokens 0), (2, x.tokens 2)], popped := [], heldTok := [], xfers := []
    shaleOut := [], netTags := [], netPopped := [], hostTags := [], hostPopped := [], stream := none, ringStream := none, iq := [] }

/-- The audited segment begins with this commit: the context's partition stalls, and the shares and the commit state are copied to
the spare, whose memories take those of the engine whole (R526). -/
def State.auditBegin (s : State) (p c : Nat) : State :=
  match s.audit with
  | some a =>
    if a.p = p ∧ a.c = c ∧ a.begun = false ∧ (s.ctx p c).st = .running then
      let e := s.engine p
      let s := (s.copyRegs p a.spare).setEngine a.spare { e with
        ctx := [(c, (e.at c).shade)], holder := some c, slice := none, last := none, switch := none, flights := [], mDone := [], vchk := []
        mLoad := none, shadow := none, migrate := none, auditCtx := 0, probeRung := 0, retireDue := false, kept := none }
      let s := { s with audit := some { a with begun := true } }
      (s.residents (s.ctx p c).part).foldl (fun s (p', c') => s.modCtx p' c' (fun x => { x with stalled := true })) s
    else s
  | none => s

/-- The shadow's segment commits: its accumulators and its audit digest wait for the comparison, and nothing else of the commit
takes place (R527, R528). -/
def State.shadowCommit (s : State) (p c : Nat) : State :=
  match s.audit with
  | some a =>
    let x := s.ctx p c
    { s with audit := some { a with shade := some (x.digs, x.audit) } }.modCtx p c (fun x => { x with commit := none, st := .waiting })
  | none => s

/-- XARRFL and XVECFL join what a commit records (R237). -/
def State.noteFlags (s : State) (p c : Nat) : State :=
  s.modCur p c (fun r => { r with arrfl := s.reg (Reg.arrTstat p c), vecfl := s.reg (Reg.vecFlags p c) })

/-- The held-range list of a commit: none named, or the one at HDESC. -/
def State.commitList (s : State) (p c : Nat) (r : CommitReq) : Nat ⊕ List HRange :=
  match r.hdesc with | some off => s.heldList p c off | none => .inr []

/-- What an operation reads of Loam, and how much: an ADMIT the request's record, every other its entry (R339). -/
def State.opReads (s : State) (p c : Nat) (o : SeqOp) : Nat × Nat :=
  let q := (s.ctx p c).part
  match seqKind o.op, s.nextRequest q with
  | some .admitSeq, some (_, a) => (a, 64)
  | _, _ => (s.seqEntry q o.entry.toNat, 32)

/-- What the commit reads beside the context's state: the held list in Sand, with `err`, and what its operations read of Loam,
with `table`, whose unit counts the operations (R283, R308). -/
def State.commitReads (s : State) (p c : Nat) (r : CommitReq) (err table : ReadErr) (eff : State → State) : State :=
  let x := s.ctx p c
  let list := fun (s : State) (eff : State → State) => match r.hdesc with
    | some off => s.sramRead p c 0 (sramAt 0 off (16 + 16 * dfld (s.sandBytes p c off 1) 0 1)) err id eff
    | none => eff s
  let ops := fun (s : State) (eff : State → State) =>
    if x.seqOps = [] then eff s
    else
      let k := match table with | .uncorrectable k _ => k % x.seqOps.length | _ => 0
      let (a, n) := (x.seqOps.map (s.opReads p c)).getD k (0, 1)
      s.tierRead p c 2 a n
        (match table with | .uncorrectable _ also => .uncorrectable 0 also | e => e) eff
  list s (fun s => ops s eff)

/-- The commit itself: the digest entries, the batches' switches, the operations, the completions, the chunks, the audit and
the record; or the fault of a piece that finds no slot. -/
def State.commitNow (s : State) (p c : Nat) (r : CommitReq) (held : List HRange) : State :=
  let x := s.ctx p c
  match (s.digestLog p c).bind (fun t => (t.batchSwitches p c).releaseOps p c x.seqOps) with
  | none => s.fault p c fSlot 4 r.pc
  | some t =>
    let t := (t.ackHeld p c).freeChunks p c
    let t := t.bump (Reg.redNfcnt p c) x.nfc.toNat
    let t := ((t.replayPassed p c).auditCommit p c).noteFlags p c
    let t := t.modCtx p c (·.record held)
    match r.ends with
    | none => t.auditBegin p c
    | some code =>
      let t := match t.audit with | some a => if a.begun then t else t.dropAudit p c | none => t
      (t.modCtx p c (fun x => { x with st := .ended })).event x.part 0x0002
        (leBytes 4 ((t.leOf p).getD 0xFF) ++ leBytes 4 c ++ leBytes 4 code.toNat)

/-- SEGMENT_COMMIT: the context's segment commits. A bad held list, or a piece of its log entries or operations that finds
no slot, is a fault at the C.COMMIT, and nothing of the segment is released. (DEDUCED, log entry 25, DEDUCED, log entry
35.) -/
def execSegmentCommit (p : PhysE) (c : Place) (err table : ReadErr) (s : State) : Out :=
  .next (
    match (s.ctx p c).commit with
    | none => s
    | some r =>
      if s.commits p c = false then s
      else if (s.ctx p c).shadow then s.shadowCommit p c
      else s.commitReads p c r err table (fun s =>
        match s.commitList p c r with
        | .inl code => s.fault p c code 4 r.pc
        | .inr held => s.commitNow p c r held))

end Sys2Proof.Machine
end

