-- ==== Sys2Proof/Machine/Replay.lean ====
section
/-!
DEFINITION. Replay, migration, engine health and audit (R504 to R530).
-/

namespace Sys2Proof.Machine

/-! ## Restoration (R505 to R507) -/

/-- The copies of the region once the active one is restored (R223). -/
def Ctx.activate (x : Ctx) (b : Bool) : Ctx :=
  let idle := fun (st : CopySt) => if st = .active then CopySt.ready else st
  if b then { x with copyA := idle x.copyA, copyB := .active } else { x with copyA := .active, copyB := idle x.copyB }

/-- The token queues that a replay returns to: LOCAL, CORE and SHALE as they stood at the commit, with the tokens that waited
before them, the others with what was popped put back at their heads (R506). (DEDUCED, log entry 28.) -/
def Ctx.restoreQueues (x : Ctx) : Ctx :=
  let q := fun (k : Nat) => if k = 0 ∨ k = 2 ∨ k = 5 then Tab.get [] x.savedQ k else Tab.get [] x.popped k ++ x.tokens k
  { x with
    queue := (List.range 7).map (fun k => (k, q k)), popped := []
    heldTok := (List.range 7).map (fun k => (k, Tab.get [] (if k = 0 ∨ k = 2 ∨ k = 5 then x.savedHeld else x.heldTok) k))
    hostTags := x.hostPopped ++ x.hostTags, hostPopped := []
    netTags := x.netPopped ++ x.netTags, netPopped := [], provHeld := [] }

/-- The context at the state of its last commit, with the landed transfers whose tokens were to come then; its completed
outbound transfers are suppressed in the run that follows (R219, R223, R237, R505, R509). (DEDUCED, log entry 21, DEDUCED, log
entry 28.) -/
def Ctx.restore (x : Ctx) : Ctx :=
  { x.restoreQueues.activate x.saved.bankB with
    cur := x.saved, sel := x.savedSel, xfers := x.savedX, suppress := x.outDone, outNext := 0, vchunk := x.hchunk, taken := [], journal := []
    gi := 0, oldV := [], oldP := none, ccWait := 0, held := false, audit := 0, auditOrd := 0 }

/-- The context's recorded block is the resident block. -/
def Engine.blockIs (e : Engine) (c : Nat) (r : BlockRef) : Bool :=
  match e.block with | some l => l.ctx == c && l.ref == r | none => false

/-- The recorded block of a context that holds the engine is loaded again when another block is resident; LOAD_CORNER_COMPARE
ends the load. A context that is absent reloads at its entry (R112, R415, R416, R507). -/
def State.reload (s : State) (p c : Nat) : State :=
  match (s.ctx p c).cur.block with
  | none => s
  | some r =>
    if (s.engine p).blockIs c r = true ∨ (s.engine p).holder ≠ some c then s
    else
      let x := s.ctx p c
      let d := s.sandBytes p c r.ld 64
      let o : MOp :=
        { kind := .loadw, ctx := c, word := BitVec.ofNat 64 (r.ld / 64 * 2 ^ 30), desc := d, rows := 0, pc := x.cur.pc
          bankB := x.cur.bankB, mib := x.cur.mib, step := x.cur.stepNo }
      s.modEngine p (fun e => { e with mLoad := some (o, ⟨s.readBlock p c d, c, r⟩), reloading := true })

/-- XARRFL and XVECFL as the commit recorded them (R237). -/
def State.restoreFlags (s : State) (p c : Nat) : State :=
  let r := (s.ctx p c).saved
  (s.setReg (Reg.arrTstat p c) r.arrfl).setReg (Reg.vecFlags p c) r.vecfl

/-! ## Engines (R519 to R523) -/

/-- The unassigned spares, in ascending physical index; a retired engine is none (R525). (DESIGN CHOICE, log entry 36.) -/
def State.spareList (s : State) : List Nat :=
  (List.range 52).filter (fun p => (s.reg Reg.spareSet).getLsbD p && s.fld (Reg.engHealth p) 2 0 != 4)

/-- The spare that would take over engine p: an unassigned one of its die that no migration has taken (R519). (DESIGN
CHOICE, log entry 36.) -/
def State.spareFor (s : State) (p : Nat) : Option Nat :=
  s.spareList.find? (fun q => dieOf q == dieOf p && (List.range 52).all (fun r => (s.engine r).migrate != some q))

/-- An unrecoverable halt (R513). (DEDUCED, log entry 35.) -/
def State.unrecoverable (s : State) (p c : Nat) : State :=
  ((s.replayLog p c 6 0).halt p c).bump Reg.rplUnrecov 1

/-- The clock rungs that engine p caused end (R525). -/
def State.endClockRungs (s : State) (p : Nat) : State := { s with crungBy := s.crungBy.filter (fun q => q != p) }

/-- What the window of engine p shows from now on: its contexts and its registers as they stand (R596). -/
def State.keepWindow (s : State) (p : Nat) : State :=
  s.modEngine p (fun e => { e with kept := some (e.ctx, s.regs.filter (fun r => windowOf r.1 == some p)), retireDue := false })

/-- Engine p is retired: its contexts halt, no engine holds its number, and its window keeps what it shows (R523, R596). -/
def State.retire (s : State) (p : Nat) : State :=
  let n := s.leOf p
  let s := s.sendRec blkReplay { cls := 0x17, phys := some p, le := n, run := 5 }
  let s := (List.range 4).foldl (fun s c => if (s.ctx p c).resident then s.halt p c else s) s
  let s := (((s.bump Reg.rplRetired 1).setFld (Reg.engHealth p) 2 0 4).endClockRungs p).keepWindow p
  match n with
  | some n => s.freeLe n
  | none => s

/-- A migration of engine p to a spare is decided (R519, R520); an audit that used the spare is dropped. -/
def State.startMigration (s : State) (p q : Nat) : State :=
  let s := match s.audit with
    | some a => if a.spare = q then s.dropAudit a.p a.c else s
    | none => s
  s.modEngine p (fun e => { e with migrate := some q })

/-- The next rung of a suspect engine in service is its retirement (R522). -/
def State.lastRung (s : State) (p : Nat) : Bool :=
  decide (4 ≤ s.fld (Reg.engHealth p) 5 3) && (s.flag Reg.rplPolicy 0 || decide (4 ≤ s.fld Reg.rplPolicy 3 1))

/-- The next rung of a suspect engine in service, or its retirement after the last, which waits for Gauntlet's firmware to run
(R29, R522). -/
def State.nextRung (s : State) (p : Nat) : State :=
  let rec_ := fun (s : State) => s.sendRec blkReplay { cls := 0x17, phys := some p, le := s.leOf p, run := 4 }
  let v := s.fld (Reg.engHealth p) 5 3
  let k := s.fld Reg.rplPolicy 3 1
  if v < 4 then rec_ (s.setFld (Reg.engHealth p) 5 3 (v + 1))
  else if s.flag Reg.rplPolicy 0 = false ∧ k < 4 then
    rec_ { s.setFld Reg.rplPolicy 3 1 (k + 1) with crungBy := s.crungBy ++ [p] }
  else if s.gaunt.restarting then s.modEngine p (fun e => { e with retireDue := true })
  else s.retire p

/-- The placement of the run after an engine-class fault: the same engine once, then a spare of the die, then the rungs
in service; a fault on the spare belongs to no engine (R519, R522). `r` counts the segment's failures of an engine class. -/
def State.placeRun (s : State) (p c r : Nat) : State :=
  if r ≤ 1 then s
  else match (s.ctx p c).migFrom with
    | some p0 =>
      let s := if s.fld (Reg.engHealth p0) 2 0 = 2 then s.setFld (Reg.engHealth p0) 2 0 3
        else (s.setFld (Reg.engHealth p0) 2 0 1).orReg Reg.spareSet (2 ^ p0)
      s.unrecoverable p c
    | none =>
      match s.spareFor p with
      | some q => s.startMigration p q
      | none => (s.suspect p 2).nextRung p

/-- The placement of the run after a tier-class fault: the third failure of one address ends the segment, the second marks
what failed (R512). -/
def State.placeTier (s : State) (p c : Nat) : State :=
  let x := s.ctx p c
  if 3 ≤ x.sameAddr then s.unrecoverable p c
  else if x.sameAddr = 2 then
    (match x.repFault with
      | some { addr := some a, .. } => s.markRepair p c a
      | _ => s)
  else s

/-- A transfer to a LOST half, which takes nothing any more (R394). -/
def State.lostSend (s : State) (t : Xfer) : Bool := t.kind == .send && (s.sendHalf (dfld t.desc 48 4)).sstate == 3

/-- RESTORATION_COMPLETE: the transfers that had begun are done and the units are flushed; the context is at its commit
state, with its recorded block, and its next run is placed (R506, R507, R509, R512, R515, R519). Where that retires the
engine it waits for Gauntlet's firmware to run (R29). (DEDUCED, log entry 35.) -/
def execRestorationComplete (p : PhysE) (c : Place) (s : State) : Out :=
  .next (
    let x := s.ctx p c
    let cls := match x.repFault with | some f => f.cls | none => 0
    let engineClass := decide (2 ≤ cls) && decide (cls ≤ 8)
    let fails := x.engFails + engineClass.toNat
    let retires := engineClass && decide (1 < fails) && x.migFrom.isNone && (s.spareFor p).isNone && s.lastRung p
    if x.rep ≠ .restoring ∨ x.xfers.any (fun t => t.dead && !s.lostSend t) = true ∨ (s.engine p).mLoad.isSome ∨
        (retires && s.gaunt.restarting) = true then s
    else
      let prov := s.unconfirmed p c
      let s := (s.retract p c).replayLog p c 1 (if prov then 4 else 0)
      let s := (((s.journalBack p c).restoreFlags p c).modCtx p c
        (fun x => { x.restore with rep := .waiting, run := x.run + 1, engFails := fails })).reload p c
      if engineClass then s.placeRun p c fails else s.placeTier p c)

/-- REPLAY_FIRST_ISSUE: the replay's first group may issue, once the recorded block is resident (R507). -/
def execReplayFirstIssue (p : PhysE) (c : Place) (s : State) : Out :=
  .next (
    let x := s.ctx p c
    if x.rep = .waiting ∧ s.holds? p c = true ∧ (s.engine p).migrate = none ∧ (s.engine p).reloading = false then
      (s.modCtx p c (fun x => { x with rep := .running })).bump Reg.rplRuns 1
    else s)

/-- PARTITION_STALL_END: the last replay, migration or copy of the partition has caught up, and every stopped context
re-enters (R508), and with them a shadow that has been copied (R526). -/
def execPartitionStallEnd (q : PartId) (s : State) : Out :=
  .next (
    let rs := s.residents q
    if rs.any (fun (p, c) => (s.ctx p c).rep == .restoring || (s.ctx p c).rep == .waiting || (s.engine p).migrate.isSome ||
        (s.ctx p c).going) then s
    else
      let s := rs.foldl (fun s (p, c) => s.modCtx p c (fun x => { x with stalls := false, stalled := false })) s
      match s.audit with
      | some a => if (s.ctx a.spare a.c).shadow && (s.ctx a.spare a.c).part == q then
          s.modCtx a.spare a.c (fun x => { x with stalled := false }) else s
      | none => s)

/-- A context that migrates has stopped: it is not running, or a stall or its replay holds it (R520). -/
def Ctx.still (x : Ctx) : Bool := x.rep != .restoring && (x.st != .running || x.stalled || x.rep == .waiting)

/-- MIGRATION_REENTRY: every context of the engine has stopped and its state has been copied to the spare, which takes its
logical number; a context that replays there goes on with its run (R32, R520). What the engine keeps of the copied bytes keeps
its last owners (R480). An audit of the engine is dropped (R528). An engine that no replay moved is probed (R521, R524). -/
def execMigrationReentry (p : PhysE) (s : State) : Out :=
  .next (
    let e := s.engine p
    match e.migrate with
    | none => s
    | some q =>
      if (List.range 4).all (fun c => (e.at c).still) = false then s
      else
        let n := s.leOf p
        let replays := fun (x : Ctx) => x.stalls && x.rep != .idle
        let moving := (List.range 4).any (fun c => replays (e.at c))
        let mark := fun (x : Ctx) => if replays x then { x with migFrom := some p.val, stalled := false } else x
        let s := match s.audit with | some a => if a.p = p.val then s.dropAudit a.p a.c else s | none => s
        let s := s.sendRec blkReplay { cls := 0x17, phys := some q, le := n, run := 7 }
        let s := (s.copyRegs p q).setEngine q { e with migrate := none, ctx := e.ctx.map (fun (c, x) => (c, mark x)) }
        let s := s.setEngine p { sand := e.sand, silt := e.silt, imemA := e.imemA, imemB := e.imemB, ccI := e.ccI, ccD := e.ccD,
                                 vreg := e.vreg, owners := e.owners }
        let s := (s.setReg Reg.spareSet (s.reg Reg.spareSet &&& ~~~ BitVec.ofNat 64 (2 ^ q))).setFld (Reg.engHealth q) 2 0 0
        let s := s.endClockRungs p
        let s := if moving then s else s.suspect p 3
        match n with
        | some n => s.setReg (Reg.leMap n) (BitVec.ofNat 64 (q + 2 ^ 8 * dieOf q + 2 ^ 9))
        | none => s)

/-- An unassigned spare of the die takes the engine's logical number; without one no engine holds the number. (DESIGN CHOICE,
log entry 128.) -/
def State.replaceEngine (s : State) (p : Nat) : State :=
  match s.leOf p with
  | none => s
  | some n =>
    match s.spareFor p with
    | some q =>
      let s := (s.setReg (Reg.leMap n) (BitVec.ofNat 64 (q + 2 ^ 8 * dieOf q + 2 ^ 9))).setReg Reg.spareSet
        (s.reg Reg.spareSet &&& ~~~ BitVec.ofNat 64 (2 ^ q))
      let s := s.setFld (Reg.engHealth q) 2 0 0
      s.sendRec blkReplay { cls := 0x17, phys := some q, le := some n, run := 7 }
    | none => s.freeLe n

/-- An engine that a self-test or its audits make suspect: with contexts it migrates, or stays in service as suspect when
its die has no spare; without, it leaves service and is probed (R519, R521, R524). -/
def State.makeSuspect (s : State) (p : Nat) : State :=
  if (List.range 4).any (fun c => (s.ctx p c).resident) then
    let s := s.suspect p 2
    match s.spareFor p with
    | some q => s.startMigration p q
    | none => s
  else
    let s := (s.suspect p 3).replaceEngine p
    s.setReg Reg.spareSet (s.reg Reg.spareSet &&& ~~~ BitVec.ofNat 64 (2 ^ p))

/-- ENGINE_PROBE: the self-test of a probed engine at its next voltage rung has ended; Gauntlet runs it. One that passes is an
unassigned spare at that rung (R29, R521).
(DEDUCED, log entry 38.) -/
def execEngineProbe (p : PhysE) (passed : Bool) (s : State) : Out :=
  .next (
    if s.fld (Reg.engHealth p) 2 0 ≠ 3 ∨ s.gaunt.restarting = true then s
    else
      let rung := (s.engine p).probeRung + 1
      let s := s.setFld (Reg.engHealth p) 5 3 rung
      let s := s.sendRec blkReplay { cls := 0x17, phys := some p.val, le := s.leOf p, run := 4 }
      if passed then
        let s := s.modEngine p (fun e => { e with probeRung := 0 })
        let s := match s.leOf p with | some n => s.freeLe n | none => s
        (s.setFld (Reg.engHealth p) 2 0 1).orReg Reg.spareSet (2 ^ p.val)
      else if 4 ≤ rung then (s.modEngine p (fun e => { e with probeRung := 0 })).retire p
      else s.modEngine p (fun e => { e with probeRung := rung }))

/-! ## Audit (R526 to R529) -/

/-- A context that AUDIT_CTL names. -/
def State.audited (s : State) (p c : Nat) : Bool :=
  (s.ctx p c).resident && bit (s.fld Reg.auditCtl 8 1) (s.ctx p c).part

/-- The place that an audit of a logical engine takes: the first audited one from the engine's turn on. -/
def State.auditPlace (s : State) (n : Nat) : Option (Nat × Nat) :=
  match s.physOf n with
  | none => none
  | some p =>
    let k := (s.engine p).auditCtx
    (((List.range 4).map (fun i => (k + i) % 4)).find? (fun c => s.audited p c)).map (fun c => (p, c))

/-- The engine and place of the next audit, from logical number n on (R526). -/
def State.auditFrom (s : State) (n : Nat) : Option (Nat × Nat × Nat) :=
  (((List.range 48).map (fun i => (n + i) % 48)).filterMap (fun m => (s.auditPlace m).map (fun (p, c) => (m, p, c)))).head?

/-- NEXTLE and NEXTCTX. -/
def State.setNextAudit (s : State) (n : Nat) : State :=
  match s.auditFrom n with
  | some (m, _, c) => (s.setFld Reg.auditStat 7 2 m).setFld Reg.auditStat 9 8 c
  | none => s

/-- AUDIT_START: an audit falls due; it takes the next engine and place of the rotation, or it is late (R526). (DESIGN
CHOICE, log entry 36, DEDUCED, log entry 37.) -/
def execAuditStart (le : Fin 48) (c : Place) (s : State) : Out :=
  .next (
    match s.spareList with
    | [] => s
    | q :: _ =>
      if s.flag Reg.auditCtl 0 = false then s
      else match s.audit with
        | some _ => s.setFld Reg.auditStat 1 1 1
        | none =>
          match s.auditFrom (s.fld Reg.auditStat 7 2) with
          | some (n, p, k) => if n = le ∧ k = c then
              { s with audit := some { le := n, p := p, c := k, spare := q } }.setNextAudit n else s
          | none => s)

/-- Every accumulator of one run is one of the other's (R528). -/
def digsAgree (a b : List DigAcc) : Bool := a.all b.contains && b.all a.contains

/-- AUDIT_COMPARE: both runs have committed, and their accumulators and audit digests are compared (R528, R529). `upset` is the
difference that an uncovered fault of the engine has made in the original's outbound data (R530). (DEDUCED, log entry 37.) -/
def execAuditCompare (upset : W64) (s : State) : Out :=
  .next (
    match s.audit with
    | some { le := n, p := p, c := c, spare := q, begun := b, orig := some (digs, sum, step), popped := pop, shade := some (shade, dig) } =>
      let own := sum ^^^ upset
      let agree := digsAgree digs shade
      let s := ({ s with audit := none }.endShadow ⟨n, p, c, q, b, none, pop, none⟩).modEngine p (fun e => { e with auditCtx := (c + 1) % 4 })
      if agree && dig == own then
        (({ s with auditBad := s.auditBad.filter (fun k => k != p) }.bump Reg.auditRuns 1).setFld Reg.auditStat 10 10 0).setNextAudit ((n + 1) % 48)
      else
        let again := s.auditBad.contains p
        let s := { s with auditBad := if again then s.auditBad.filter (fun k => k != p) else s.auditBad ++ [p] }
        let s := (s.bump Reg.auditMismatch 1).sendRec blkReplay
          { cls := 0x16, part := some (s.ctx p c).part, phys := some p, le := some n, ctx := some c, run := 1, step := step,
            detail := leBytes 8 own.toNat ++ leBytes 8 dig.toNat }
        let s := (s.setFld Reg.auditStat 10 10 1).setNextAudit n
        if again then s.makeSuspect p else s
    | _ => s)

end Sys2Proof.Machine
end

