-- ==== Sys2Proof/Machine/Slices.lean ====
section
/-!
DEFINITION. Period boundaries (R289, R299, R476, R496, R508), slices and switches (R410 to R421), and what befalls a
partition as a whole: its enabling and disabling (R474, R479), its reset (R425), its clearing between owners (R480) and
its unsealing (R485).
-/

namespace Sys2Proof.Machine

/-! ## Partitions beside their registers -/

/-- What a partition holds beside its registers. -/
def State.partx (s : State) (q : Nat) : PartX := Tab.get {} s.parts q
/-- That changed. -/
def State.modPartx (s : State) (q : Nat) (f : PartX → PartX) : State := { s with parts := s.parts.set q (f (s.partx q)) }
/-- PART_CTL_q.RESETTING. -/
def State.resetting (s : State) (q : Nat) : Bool := s.flag (Reg.partCtl q) 2
/-- PART_CTL_q.SEALED (R481). -/
def State.sealedPart (s : State) (q : Nat) : Bool := s.flag (Reg.partCtl q) 3

/-- Fresh keys in both XTS slots of a partition: generation 0 is current and no rotation runs (R474). (DEDUCED, log entry
60.) -/
def State.freshKeys (s : State) (q : Nat) : State :=
  let s := { s with
    keys := (s.keys.set (2 * q) (drawKeys s.fresh 2)).set (2 * q + 1) (drawKeys (s.fresh + 2) 2)
    rot := s.rot.del q, fresh := s.fresh + 4 }
  s.setReg (Reg.rotStat q) 0

/-- Both XTS slots of a partition zeroed (R474). -/
def State.zeroKeys (s : State) (q : Nat) : State :=
  { s with keys := (s.keys.del (2 * q)).del (2 * q + 1), rot := s.rot.del q }.setReg (Reg.rotStat q) 0

/-- A clearing of a partition begins: RESETTING reads 1, and CLEARING with it for all but a plain reset (R425, R479,
R486). -/
def State.startClear (s : State) (q : Nat) (k : ClearKind) : State :=
  let s := (s.modPartx q (fun x => { x with clearing := some k })).setFld (Reg.partCtl q) 2 2 1
  if k = .reset then s else s.setFld (Reg.sealStat q) 1 1 1

/-- A clearing of a partition has ended. -/
def State.endClear (s : State) (q : Nat) : State :=
  ((s.modPartx q (fun x => { x with clearing := none })).setFld (Reg.partCtl q) 2 2 0).setFld (Reg.sealStat q) 1 1 0

/-- SEALED set or cleared (R481, R485, R486). -/
def State.setSealed (s : State) (q : Nat) (b : Bool) : State :=
  (s.setFld (Reg.partCtl q) 3 3 b.toNat).setFld (Reg.sealStat q) 0 0 b.toNat

/-- Every Loam granule of a partition zeroed (R479). -/
def State.zeroLoam (s : State) (q : Nat) : State :=
  s.loamZero (s.fld (Reg.partMem q) 9 0) (s.fld (Reg.partMem q) 19 10)

/-! ## Unloading (R411) -/

/-- A staged library is installed once no context is resident and no self-test runs (R469). (DESIGN CHOICE, log entry 7.) -/
def State.installLib (s : State) : State :=
  match s.libStaged with
  | some l => if s.anyResident = false ∧ s.flag Reg.npstStat 0 = false then { s with lib := l, libStaged := none } else s
  | none => s

/-- A context stops for good, as at a switch to an idle slice: no further group issues, a pending M instruction does not
begin, and what has begun runs to completion (R414). Its segment's outputs are discarded (R411, R425). -/
def State.stopCtx (s : State) (p c : Nat) : State :=
  let s := (s.dropAudit p c).modEngine p (fun e => { e with holder := if e.holder = some c then none else e.holder })
  s.modCtx p c (fun x => { x.discard with
    st := (if x.st = CtxSt.running then CtxSt.waiting else x.st), going := true, rep := .idle, held := false, stalls := false })

/-- What the context had begun is done: its transfers have landed or been handed off, but for those that a LOST half takes no
more, and its load and its passes have ended (R120, R394, R414). -/
def State.drainedCtx (s : State) (p c : Nat) : Bool :=
  (s.ctx p c).xfers.all (fun t => !t.dead || t.landed || s.lostSend t) && (s.engine p).flights.all (fun f => f.op.ctx != c) &&
  (match (s.engine p).mLoad with | some (o, _) => o.ctx != c | none => true)

/-- A STREAM that has not reached its context when the context goes completes with BOUND, or with RESET in a partition
reset (R425, R438). -/
def State.dropStream (s : State) (p c reason : Nat) : State :=
  match (s.ctx p c).ringStream with
  | some r => s.complete r.ring r.idx (if reason = 3 then 0x0E else 0x04) (BitVec.ofNat 64 (s.ctxAddr ((s.leOf p).getD 63) c))
  | none => s

/-- The place of a stopped context is freed; the completions held for it are written as DISCARDED (R411, R447). (DEDUCED,
log entry 52.) -/
def State.freeCtx (s : State) (p c reason : Nat) : State :=
  ((((s.dropStream p c reason).discardHeld p c reason).modEngine p (·.discard c)).setCtx p c {}).installLib

/-! ## Engine units and their last owners (R480) -/

/-- The keys of the owner table: Sand units of 4 KiB, Silt rows, groups of eight vector registers, 4 KiB units of the
instruction region, and units of the control core's data and instruction memories. -/
def ownSand (i : Nat) : Nat := i
def ownSilt (r : Nat) : Nat := 4096 + r
def ownVreg (g : Nat) : Nat := 8192 + g
def ownImem (u : Nat) : Nat := 8300 + u
def ownCcD (u : Nat) : Nat := 8400 + u
def ownCcI (u : Nat) : Nat := 8500 + u

/-- The words of a table outside n entries from lo. -/
def Tab.clear {α : Type} (t : Tab α) (lo n : Nat) : Tab α := t.filter (fun kv => !(decide (lo ≤ kv.1) && decide (kv.1 < lo + n)))

/-- One unit of an engine zeroed, by its key. -/
def Engine.zeroUnit (e : Engine) (k : Nat) : Engine :=
  if k < 4096 then { e with sand := e.sand.clear (4096 * k) 4096 }
  else if k < 8192 then { e with silt := e.silt.clear (3072 * (k - 4096)) 3072 }
  else if k < 8300 then { e with vreg := Tab.clear e.vreg (8 * (k - 8192)) 8 }
  else if k < 8400 then
    { e with imemA := Tab.clear e.imemA (512 * (k - 8300)) 512, imemB := Tab.clear e.imemB (512 * (k - 8300)) 512 }
  else if k < 8500 then { e with ccD := e.ccD.clear (4096 * (k - 8400)) 4096 }
  else { e with ccI := e.ccI.clear (2048 * (k - 8500)) 2048 }

/-- Every unit of every engine that a partition owned last, zeroed (R485). -/
def State.zeroUnits (s : State) (q : Nat) : State :=
  { s with eng := s.eng.map (fun (p, e) =>
      (p, (e.owners.filter (fun o => o.2 == q)).foldl (fun e o => e.zeroUnit o.1) e)) }

/-! ## Rotation (R475 to R478) -/

/-- The partition's Clay granules in ascending order: its range, and those that back its Shale granules (R476). -/
def State.clayList (s : State) (q : Nat) : List Nat :=
  let base := s.fld (Reg.partMem q) 27 20
  let count := s.fld (Reg.partMem q) 36 28
  let backing := (List.range 2048).filterMap (fun g =>
    let m := s.shaleMap g
    if bit m 0 && bit m 1 && bits m 15 13 == q then some (bits m 12 3) else none)
  (List.range 256).filter (fun g => (decide (base ≤ g) && decide (g < base + count)) || backing.contains g)

/-- How many Clay granules the partition holds. -/
def State.clayGranules (s : State) (q : Nat) : Nat := (s.clayList q).length

/-- The partition's CXL pages. -/
def State.cxlPages (s : State) (q : Nat) : Nat := 2 ^ 20 * (s.cxlGranules q).length

/-- PAGES_LEFT (R478). -/
def Rot.left (r : Rot) : Nat := 32 * (r.chunks - r.i / 32) + (r.cxl - r.ptr)

/-- A rotation at a new point; when no page is left it ends, and the old generation's slot is zeroed. -/
def State.setRot (s : State) (q : Nat) (r : Rot) : State :=
  let gen := s.fld (Reg.rotStat q) 1 1
  let live := decide (0 < r.left)
  let s := s.setReg (Reg.rotStat q) (BitVec.ofNat 64
    (live.toNat + 2 * gen + 4 * (decide (32 * r.chunks ≤ r.i)).toNat + 8 * (decide (r.cxl ≤ r.ptr)).toNat + 16 * r.left))
  if live then { s with rot := s.rot.set q r }
  else { s with rot := s.rot.del q, keys := s.keys.del (2 * q + (1 - gen)) }

/-- A rotation starts, unless one of the partition is active or a Clay sweep of another runs and the partition holds Clay
(R475). (DEDUCED, log entry 60.) -/
def State.startRotation (s : State) (q : Nat) : Option State :=
  let c := s.clayGranules q
  let sweep := s.rot.any (fun (k, r) => k != q && decide (r.i < 32 * r.chunks))
  if (s.rot.any (fun (k, _) => k == q)) || (sweep && decide (0 < c)) then none
  else
    let gen := 1 - s.fld (Reg.rotStat q) 1 1
    let s := { s with keys := s.keys.set (2 * q + gen) (drawKeys s.fresh 2), fresh := s.fresh + 2 }
    some ((s.setFld (Reg.rotStat q) 1 1 gen).setRot q { i := 0, chunks := 32768 * c, cxl := s.cxlPages q, ptr := 0 })

/-- The sectors of Clay that a sweep's patrol serves in period i: on every channel, sector i mod 32 of chunk floor(i / 32) of
the partition's granules (R476). -/
def State.sweepSectors (s : State) (q i : Nat) : List Nat :=
  let k := i / 32
  match (s.clayList q)[k / 32768]? with
  | some g => (List.range 64).map (fun n => g * 2 ^ 32 + (k % 32768 * 64 + n) * 2048 + i % 32 * 64)
  | none => []

/-- A partition's Clay sweep runs. -/
def State.sweeping (s : State) (q : Nat) : Option Rot :=
  match s.rot.find? (fun (k, _) => k == q) with
  | some (_, r) => if r.i < 32 * r.chunks then some r else none
  | none => none

/-- One period of the Clay sweep of a partition: each channel reads its sector and writes it back under the current generation
(R476). -/
def State.sweepStep (s : State) (q : Nat) : State :=
  match s.sweeping q with
  | some r =>
    let s := (s.sweepSectors q r.i).foldl (fun s a => s.clayPut q a (s.clayGet q a 64)) s
    s.setRot q { r with i := r.i + 1 }
  | none => s

/-- The Shale offset of a partition's i-th CXL page, in ascending Shale offset (R477). -/
def State.cxlPage (s : State) (q i : Nat) : Nat := ((s.cxlGranules q)[i / 2 ^ 20]?).getD 0 * 2 ^ 32 + i % 2 ^ 20 * 4096

/-- CXL_SWEEP_PAGE: a page is read under the old generation, the pointer passes it, and it is written back under the new one
(R473, R477). -/
def execCxlSweepPage (q : PartId) (s : State) : Out :=
  .next (match s.rot.find? (fun (k, _) => k == q.val) with
    | some (_, r) =>
      if r.ptr < r.cxl then
        let a := s.cxlPage q r.ptr
        (s.setRot q { r with ptr := r.ptr + 1 }).shaleStore a (s.shaleBytes a 4096)
      else s
    | none => s)

/-! ## Period boundaries -/

/-- At a boundary the contexts of a partition that resets stop; where a context replays, the partition's other contexts do,
one whose own replay has ended among them, and where an engine migrates every one of its contexts (R425, R508, R520). -/
def State.periodStops (s : State) (q : Nat) : State :=
  let rs := s.residents q
  match (s.partx q).clearing with
  | some .reset | some (.unsealReset _) => rs.foldl (fun s (p, c) => s.stopCtx p c) s
  | _ =>
    if rs.any (fun (p, c) => (s.ctx p c).stalls || (s.engine p).migrate.isSome) then
      rs.foldl (fun s (p, c) => s.modCtx p c (fun x =>
        if (x.rep = .idle ∨ x.rep = .running) ∧ (x.stalls = false ∨ (s.engine p).migrate.isSome = true) then { x with stalled := true } else x)) s
    else s

/-- The contexts on the engines of the set that GO took stop (R555). -/
def State.engsetStops (s : State) : State :=
  if s.flag Reg.engsetRst 53 then
    (List.range 52).foldl (fun s p =>
      if s.engSet.getLsbD p then
        (List.range 4).foldl (fun s c => if (s.ctx p c).resident then s.stopCtx p c else s) s
      else s) s
  else s

/-- A context enters after a debug resume or step: a resume starts a control core that EBREAK has stopped as well (R227,
R496). (DEDUCED, log entry 85.) -/
def Ctx.debugEnter (x : Ctx) : Ctx :=
  match x.dbgGo with
  | some 0 => { x with dbgGo := none, dbgHalt := false, dbgSteps := 0, ccHalt := false }
  | some n => { x with dbgGo := none, dbgHalt := false, dbgSteps := n }
  | none => x

/-- A context at a period boundary, where a requested debug halt takes effect. A resume or step that the period before did
not serve enters in the period that begins here (R496). (DEDUCED, log entry 85.) -/
def Ctx.debugBoundary (x : Ctx) : Ctx :=
  if x.dbgReq then
    { x with dbgReq := false, dbgHalt := true, dbgSteps := 0, dbgGo := none, dbgPhase := if x.dbgHalt then x.dbgPhase else 0 }
  else x.debugEnter

/-- A resume (0) or a step of n cc asked for when the period counter holds cc: a context enters at the first cc whose counter
equals its own time modulo 6,000, in this period if that value is still to come (R496). (DEDUCED, log entry 85.) -/
def Ctx.debugAsk (x : Ctx) (n cc : Nat) : Ctx :=
  let x := { x with dbgReq := false, dbgGo := some n }
  if x.dbgHalt ∧ cc < x.dbgPhase then x.debugEnter else x

/-- What operator debug has asked for takes effect (R496). -/
def State.debugStops (s : State) : State :=
  { s with eng := s.eng.map (fun (p, e) => (p, { e with ctx := e.ctx.map (fun (c, x) => (c, x.debugBoundary)) })) }

/-- The refresh block's scrub of one sector of Loam, or of Clay: a counter, and a record with the address when the error
is uncorrectable (R299, R308). -/
def State.scrubbed (s : State) (err : ReadErr) (clay : Bool) (addr : Nat) : State :=
  match err with
  | .ok | .linkCrc _ => s
  | .corrected => s.bump (if clay then Reg.clayCor else Reg.loamCor) 1
  | .uncorrectable .. =>
    (s.bump (if clay then Reg.clayUnc else Reg.loamUnc) 1).sendRec blkMem
      { cls := if clay then 0x0B else 0x0A, detail := leBytes 8 addr }

/-- The patrol reads the sector of an address at this boundary: while a Clay sweep runs, only the sectors that the sweep
serves, and the ordinary patrol of Clay pauses (R476). -/
def State.patrols (s : State) (clay : Bool) (addr : Nat) : Bool :=
  match (List.range 8).filterMap (fun q => (s.sweeping q).map (fun r => s.sweepSectors q r.i)) with
  | [] => true
  | ss => !clay || ss.any (fun l => l.contains (addr / 64 * 64))

/-- PERIOD_BOUNDARY: the period counter wraps. The refresh blocks run with the given scrub result, each Clay sweep moves on,
and what waits for a boundary to stop or to go on does. (DEDUCED, log entry 89.) -/
def execPeriodBoundary (scrub : ReadErr) (clay : Bool) (addr : BitVec 44) (s : State) : Out :=
  .next (
    let s := if s.patrols clay addr.toNat then s.scrubbed scrub clay addr.toNat else s
    let s := (List.range 8).foldl (fun s q => s.sweepStep q) s
    let s := (List.range 8).foldl (fun s q => s.periodStops q) s
    s.engsetStops.debugStops)

/-! ## Slices (R412 to R421) -/

/-- Fields of a SLICE_ENT_k value. -/
def seValid (v : Nat) : Bool := bit v 0
def seCtx (v : Nat) : Nat := bits v 2 1
def seRunout (v : Nat) : Bool := bit v 3
def seIdle (v : Nat) : Bool := bit v 4
def seStart (v : Nat) : Nat := bits v 21 5

/-- Entry k of an engine's slice table. -/
def State.sliceEnt (s : State) (p k : Nat) : Nat := (s.reg (Reg.sliceEnt p k)).toNat

/-- Slicing is on (R409). -/
def State.slicing (s : State) : Bool := s.flag Reg.sliceCfg 0
/-- PERIOD in ns. -/
def State.slicePeriod (s : State) : Nat := 1000 * s.fld Reg.sliceCfg 17 1

/-- The trigger of a START in the present period (R420). -/
def State.triggerAt (s : State) (start : Nat) : Nat :=
  s.sched.a + s.sched.d + start * 1000 * (s.slicePeriod - s.sched.s) / s.slicePeriod

/-- A period ends: the lag is reduced by what was shortened and raised by the overruns; a lag of a whole period is an
overrun (R420, R421). -/
def State.nextSlicePeriod (s : State) : State :=
  let x := s.sched
  let per := s.slicePeriod
  let lag := s.fld Reg.sliceStat 39 0 - x.s + x.d
  let late := decide (per ≤ lag)
  let lag := if late then lag - per else lag
  let s := s.setFld Reg.sliceStat 39 0 lag
  let s := { s with
    sched := { a := x.a + (per - x.s) + x.d, s := min lag (per / 8), d := 0, best := 0 }
    eng := s.eng.map (fun (p, e) => (p, { e with last := none })) }
  if late then
    (List.range 8).foldl (fun s q => if s.residents q = [] then s else s.event q 0x0006 (leBytes 8 lag))
      (s.setFld Reg.sliceStat 40 40 1)
  else s

/-- Slice k of an engine runs its context: it is not idle, and the context is READY or WAITING (R413). -/
def State.sliceRuns (s : State) (p k : Nat) : Bool :=
  let v := s.sliceEnt p k
  let st := (s.ctx p (seCtx v)).st
  !seIdle v && (st == .ready || st == .waiting)

/-- Slice k of an engine is triggered at device time t: the context that holds the engine goes on when the slice names it; a
switch that has not entered is replaced, and one that has stopped ends when the later slice runs nothing; or a switch begins
(R410, R413, R414, R421). -/
def State.triggerSlice (s : State) (p k t : Nat) : State :=
  let e := s.engine p
  let new := s.sliceEnt p k
  match e.switch with
  | some w =>
    s.setEngine p (
      if w.stopped = true ∧ s.sliceRuns p k = false then { e with last := some k, slice := some k, switch := none }
      else { e with last := some k, switch := some { w with slice := k, trigger := t } })
  | none =>
    if seIdle new = false ∧ e.holder = some (seCtx new) then s.setEngine p { e with last := some k, slice := some k }
    else
      let s := match e.holder with | some c => s.modCtx p c (fun x => { x with waited := false }) | none => s
      s.modEngine p (fun e => { e with
        last := some k
        switch := some { slice := k, trigger := t, since := t, stopped := false
                         seg := match e.holder with | some c => (e.at c).segNo | none => 0 } })

/-- Slice k of an engine is due at device time `now` and has not been triggered in this period. -/
def State.sliceDue (s : State) (p k now : Nat) : Bool :=
  let v := s.sliceEnt p k
  seValid v && decide (s.triggerAt (seStart v) ≤ now) &&
  (match (s.engine p).last with | some j => decide (seStart (s.sliceEnt p j) < seStart v) | none => true)

/-- SLICE_TRIGGER: device time reaches the trigger of slice k on the engines that hold it (R420); the schedule's next
period begins when its first trigger has come. (DEDUCED, log entry 61.) -/
def execSliceTrigger (k : Fin 8) (now : W64) (s : State) : Out :=
  .next (
    let s := s.at_ now
    if s.slicing = false ∨ s.slicePeriod = 0 then s
    else
      let x := s.sched
      let s := if x.a + (s.slicePeriod - x.s) + x.d ≤ now.toNat then s.nextSlicePeriod else s
      let due := (List.range 52).filter (fun p => s.sliceDue p k now.toNat)
      if due = [] ∨ now.toNat < s.sched.a then s
      else
        let s := { s with sched := { s.sched with best := 0 } }
        due.foldl (fun s p => s.triggerSlice p k (s.triggerAt (seStart (s.sliceEnt p k)))) s)

/-- A run-out goes on: the outgoing slice may run out, its context runs, and none of the events of R419 has come since the
switch's first trigger. -/
def State.runsOut (s : State) (p : Nat) (w : Switch) : Bool :=
  let e := s.engine p
  match e.slice, e.holder with
  | some j, some c =>
    let x := e.at c
    seRunout (s.sliceEnt p j) && x.st == .running && x.segNo == w.seg && !x.waited && !s.atWaitPoint p c &&
      decide (s.time.toNat < w.since + 1000 * s.fld Reg.sliceCfg 35 18)
  | _, _ => false

/-- A pre-emption waits for a replay of the outgoing context: until the replay has begun, and from then on for a tile boundary
(R138, R510). -/
def State.replayKeeps (s : State) (p : Nat) : Bool :=
  let e := s.engine p
  match e.holder with
  | some c =>
    (match (e.at c).rep with
      | .idle => false
      | .restoring | .waiting => true
      | .running => e.mLoad.isSome || e.flights != [])
  | none => false

/-- SWITCH_DEADLINE: the outgoing context stops issuing and loses the engine; a slice that is idle, or whose context is
FREE, HALTED or ENDED, has no entry (R138, R413, R414, R417). -/
def execSwitchDeadline (p : PhysE) (s : State) : Out :=
  .next (
    let e := s.engine p
    match e.switch with
    | none => s
    | some w =>
      if w.stopped = true ∨ s.runsOut p w = true ∨ s.replayKeeps p = true then s
      else
        let s := match e.holder with
          | some c => s.modCtx p c (fun x => { x with st := (if x.st = CtxSt.running then CtxSt.waiting else x.st), held := false })
          | none => s
        let enters := s.sliceRuns p w.slice
        s.modEngine p (fun e => { e with
          holder := none
          slice := if enters then e.slice else some w.slice
          switch := if enters then some { w with stopped := true } else none }))

/-- The engine's units are done with the outgoing context's begun operations (R414, R415). -/
def Engine.idleUnits (e : Engine) : Bool :=
  e.mLoad.isNone && e.flights == [] && (List.range 4).all (fun c => (e.at c).rep != .restoring)

/-- Periods of the core clock from a trigger to an entry, less the two that a switch takes at most (R419). -/
def State.overrun (s : State) (trigger now : Nat) : Nat :=
  let mhz := s.fld Reg.lockedClk 11 0
  (ceilDiv ((now - trigger) * mhz) 6000000 - 2) * 6000000 / mhz

/-- A switch's overrun in the schedule (R420). -/
def State.lateSwitch (s : State) (o : Nat) : State :=
  if o = 0 then s
  else
    let x := s.sched
    { s with sched := { x with d := x.d + (o - x.best), best := max x.best o } }.bump Reg.sliceLate 1

/-- The context takes the engine, with its recorded block unless a load of its own is pending (R415, R417). -/
def State.enter (s : State) (p c : Nat) : State :=
  let t := (s.modEngine p (fun e => { e with holder := some c })).modCtx p c (fun x => { x with st := .running })
  if (s.ctx p c).mPend.any (fun o => o.kind == .loadw) then t else t.reload p c

/-- CONTEXT_ENTRY: the incoming context of a switch enters its engine; while slicing is off, the engine's one context does
(R410, R417). (DEDUCED, log entry 61, DEDUCED, log entry 62.) -/
def execContextEntry (p : PhysE) (c : Place) (now : W64) (s : State) : Out :=
  .next (
    let s := s.at_ now
    let e := s.engine p
    let x := e.at c
    let able := (x.st == .ready || x.st == .waiting) && !x.going && !s.resetting x.part && e.idleUnits
    match e.switch with
    | some w =>
      if able = true ∧ w.stopped = true ∧ seCtx (s.sliceEnt p w.slice) = c.val ∧ seIdle (s.sliceEnt p w.slice) = false then
        ((s.modEngine p (fun e => { e with switch := none, slice := some w.slice })).enter p c).lateSwitch
          (s.overrun w.trigger now.toNat)
      else s
    | none => if able = true ∧ s.slicing = false ∧ e.holder = none then s.enter p c else s)

/-! ## Zeroing, resets and unsealing -/

/-- An unsealed partition's secrets are destroyed: its debug and image keys, its GCM keys, its device sets and its VF's
IDE keys (R485). -/
def State.destroySecrets (s : State) (q : Nat) : State :=
  let gcm := (s.gcmTag.filter (fun t => t.2.part == q)).map (·.1)
  let ide := 24 + 4 * (q + 2)
  let dead := fun (k : Nat) => gcm.contains k || (decide (ide ≤ k) && decide (k < ide + 4))
  { s with
    keys := s.keys.filter (fun kv => !dead kv.1)
    gcmTag := s.gcmTag.filter (fun t => t.2.part != q)
    setKeys := s.setKeys.filter (fun k => k.part != some q)
    ideOn := s.ideOn.filter (fun k => k / 2 != q + 2) }.modPartx q (fun x => { x with dxk := 0, imgKey := 0 })

/-- The epoch slots of a partition become FREE (R357, R425). -/
def State.freeEpochs (s : State) (q : Nat) : State :=
  (List.range 4).foldl (fun s n =>
    if s.fld (Reg.epsStat n) 2 0 ≠ 0 ∧ s.fld (Reg.epsStat n) 5 3 = q then
      let s := if s.fld (Reg.epsStat n) 2 0 = 1 then s.endKey n else s
      (s.setFld (Reg.epsStat n) 2 0 0).setFld (Reg.epsStat n) 27 8 0
    else s) s

/-- The zeroing of a partition's Loam (R479). Its epoch slots become FREE, so that no slot that is READY, CURRENT or DRAINING
loses its weights (R361). (DESIGN CHOICE, log entry 130.) -/
def State.zeroAll (s : State) (q : Nat) : State := (s.freeEpochs q).zeroLoam q

/-- LOAM_ZEROING_COMPLETE: the partition's Loam is zeroed. What the zeroing belongs to ends with it: an enabling, a seal,
or an unsealing (R479, R481, R485). (DEDUCED, log entry 60.) -/
def execLoamZeroingComplete (q : PartId) (s : State) : Out :=
  .next (match (s.partx q).clearing with
    | some .enable => (s.zeroAll q).endClear q
    | some .seal => ((s.zeroAll q).endClear q).setSealed q true
    | some (.unsealZero forced) =>
      let s := ((((s.zeroAll q).zeroUnits q).destroySecrets q).endClear q).setSealed q false
      (s.setFld (Reg.sealStat q) 2 2 0).modPartx q (fun x => { x with tdi := if forced then .error else .unlocked })
    | _ => s)

/-- The Tilth contexts of a range: both halves CLOSED, with what they held discarded (R425). -/
def State.closeTilth (s : State) (base count : Nat) : State :=
  let out := fun (k : Nat) => !(decide (base ≤ k) && decide (k < base + count))
  { s with
    send := s.send.filter (fun h => out h.1), recv := s.recv.filter (fun h => out h.1)
    exch := s.exch.filter (fun x => out x.1) }

/-- The rings of a range: their pending descriptors complete with RESET (R425). -/
def State.resetRings (s : State) (base count : Nat) : State :=
  let hit := fun (k : Nat) => decide (base ≤ k) && decide (k < base + count)
  { s with
    hvpRx := s.hvpRx.filter (fun b => !hit b.ring)
    hvpTx := s.hvpTx.map (fun (e, l) => (e, l.map (fun o => o.filter (fun t => !hit t.1))))
    rings := s.rings.map (fun (k, g) =>
      if hit k then (k, { g with fetched := g.fetched.map (fun d =>
        if d.status = none then { d with started := true, ran := true, status := some (0x0E, 0) } else d) }) else (k, g)) }

/-- The effects of a completed partition reset (R425, R466). -/
def State.resetPart (s : State) (q : Nat) : State :=
  let s := (s.residents q).foldl (fun s (p, c) => s.freeCtx p c 3) s
  let s := s.closeTilth (s.fld (Reg.partTilth q) 19 0) (s.fld (Reg.partTilth q) 40 20)
  let s := s.resetRings (s.fld (Reg.partRing q) 11 0) (s.fld (Reg.partRing q) 24 12)
  let s := (s.freeEpochs q).setReg (Reg.dglLost q) 0
  let s := (((s.setReg (Reg.rollOperr q) 0).setReg (Reg.dglHead q) 0).setReg (Reg.dglTail q) 0).setFld (Reg.dglCtl q) 0 0 0
  s.modPartx q (fun x => { x with resets := x.resets + 1 })

/-- PARTITION_RESET_COMPLETE: once the partition's contexts have stopped and what they had begun is done, the reset has its
effects and completes; an unsealing goes on from it to erase Clay and Shale and to zero Loam (R425, R485). (DEDUCED, log
entry 59.) -/
def execPartitionResetComplete (q : PartId) (s : State) : Out :=
  .next (
    let stopped := (s.residents q).foldl (fun s (p, c) => s.stopCtx p c) s
    let done := (s.residents q).all (fun (p, c) => stopped.drainedCtx p c)
    match (s.partx q).clearing with
    | some .reset => if done then (stopped.resetPart q).endClear q else stopped
    | some .enableReset => if done then (stopped.resetPart q).startClear q .enable else stopped
    | some (.unsealReset forced) =>
      if done then ((stopped.resetPart q).freshKeys q).startClear q (.unsealZero forced) else stopped
    | _ => s)

end Sys2Proof.Machine
end

