-- ==== Sys2Proof/Machine/Links.lean ====
section
/-!
DEFINITION. The ports of the module and the link map: the widths that a port comes up in (R366, R368), LINK_STAT and NBR, and
what a change of the map sends (R552 to R554).
-/

namespace Sys2Proof.Machine

/-- BOOT_STAT.STAGE. -/
def State.stage (s : State) : Nat := s.fld Reg.bootStat 3 0

/-! ## The link map (R552 to R554) -/

/-- Port n is up. -/
def State.portUp (s : State) (n : Nat) : Bool := s.flag (Reg.linkStat n) 0

/-- A planned neighbour of a port in a plan: its module, its port and its sub-port. -/
def nbrMod (v : Nat) : Nat := bits v 16 0
def nbrPort (v : Nat) : Nat := bits v 20 17
def nbrSub (v : Nat) : Nat := bits v 21 21

/-- The plan in which the module has its place. -/
def State.placedPlan (s : State) : Option Plan :=
  if s.stage < 5 ∨ s.flag Reg.bootStat 7 = true then none else s.store.plan

/-- MATCH of a port: 0 without a plan for it, 3 while the planned neighbour is not heard, and else as the neighbour compares
(NBR_n). -/
def State.matchCode (s : State) (n : Nat) : Nat :=
  match s.placedPlan with
  | none => 0
  | some p =>
    match p.neighbours.find? (fun e => e.1 == n) with
    | none => 0
    | some (_, v) =>
      let r := (s.reg (Reg.nbr n)).toNat
      if bit r 23 = false then 3
      else if bit r 17 = true ∧ bits r 16 0 = nbrMod v ∧ bits r 21 18 = nbrPort v ∧ bits r 22 22 = nbrSub v then 1
      else 2

/-- MATCH of a port set anew. -/
def State.setMatch (s : State) (n : Nat) : State := s.setFld (Reg.nbr n) 25 24 (s.matchCode n)

/-- PORTS_PENDING: after READY, a port that is not disabled is not up (R554). -/
def State.setPending (s : State) : State :=
  if s.stage < 7 ∨ s.stage = 15 then s
  else s.setFld Reg.bootStat 17 17
    ((List.range 16).any (fun n => s.fld (Reg.portCfg n) 1 0 != 3 && !s.portUp n)).toNat

/-- LINK_STAT_n and NBR_n of every port, as a message carries them. -/
def State.linkMap (s : State) : Bytes :=
  (List.range 16).flatMap (fun n => leBytes 4 (s.reg (Reg.linkStat n)).toNat ++ leBytes 8 (s.reg (Reg.nbr n)).toNat)

/-- The planned members of this module's group, lowest identifier first (R569). -/
def State.group_ (s : State) : List Nat :=
  match s.placedPlan with
  | none => []
  | some p =>
    let g := s.ownId / 2 ^ p.gshift.toNat
    (List.range (2 ^ p.gshift.toNat)).filterMap (fun i =>
      let id := g * 2 ^ p.gshift.toNat + i
      if p.places.any (fun e => e.2 == id) then some id else none)

/-- The group's leader and deputy. -/
def State.leader (s : State) : Option Nat := s.group_.head?
def State.deputy (s : State) : Option Nat := (s.group_.drop 1).head?
/-- This module leads its group. -/
def State.leads (s : State) : Bool := s.leader == some s.ownId

/-- A change of the link map after READY: an event on event ring 8, and in a planned start the map to the leader, or to the
fabric manager (R552). (DEDUCED, log entry 76.) -/
def State.linkEvent (s : State) (n : Nat) : State :=
  if s.stage < 7 ∨ s.stage = 15 then s
  else
    let s := s.event 8 0x0008 (leBytes 4 n ++ leBytes 4 (s.reg (Reg.linkStat n)).toNat)
    if s.store.mrec.mgr then s.emit (.mgmt (.links (if s.leads then none else s.leader) s.linkMap)) else s

/-- NBR_n takes a value with its MATCH; a change after READY is a change of the link map (R552), and a half whose path
leaves by a port that proves miscabled fails over (R393, R553). -/
def State.setNeighbour (s : State) (n : Nat) (v : W64) : State :=
  let t := (s.setReg (Reg.nbr n) v).setMatch n
  if t.reg (Reg.nbr n) = s.reg (Reg.nbr n) then s else (t.linkEvent n).failDown

/-- MATCH of every port under a plan that has just been stored (R552, R568). -/
def State.matchAll (s : State) : State := (List.range 16).foldl (fun s n => s.setNeighbour n (s.reg (Reg.nbr n))) s

/-- What LINK_STAT shows of a port: WIDTH0, WIDTH1 and DEGRADED. -/
structure LinkFields where
  width0 : Nat
  width1 : Nat
  degraded : Bool
  deriving DecidableEq, Repr

/-- The port or one of its sub-ports is up. -/
def LinkFields.up (l : LinkFields) : Bool := l.width0 != 0 || l.width1 != 0

/-- The width of a 400 Gb/s sub-port on its two lanes (R368). -/
def subWidth (narrow lo hi : Bool) : Nat := if lo && hi then 2 else if narrow && (lo || hi) then 1 else 0

/-- The lanes that a port uses of those that trained: all that MODE selects, or fewer when the narrower mode is allowed and
offered, to each sub-port by its own partner (R366, R368). -/
def linkWidths (mode : Nat) (narrow narrow1 : Bool) (g : BitVec 4) : LinkFields :=
  let l := fun (i : Nat) => g.getLsbD i
  match mode with
  | 0 =>
    if l 0 && l 1 && l 2 && l 3 then ⟨3, 0, false⟩
    else if narrow = false ∨ g = 0 then ⟨0, 0, false⟩
    else if (l 0 && l 1) || (l 2 && l 3) then ⟨2, 0, true⟩
    else ⟨1, 0, true⟩
  | 1 =>
    let a := subWidth narrow (l 0) (l 1)
    let b := subWidth narrow1 (l 2) (l 3)
    ⟨a, b, a == 1 || b == 1⟩
  | 2 => ⟨(l 0).toNat, 0, false⟩
  | _ => ⟨0, 0, false⟩

/-- The lanes of a mode (R366). -/
def modeLanes (mode : Nat) : BitVec 4 := match mode with | 0 | 1 => 15 | 2 => 1 | _ => 0

/-- What training finds on a port in its present mode. -/
def State.linkFields (s : State) (n : Nat) (l : LinkState) : LinkFields :=
  linkWidths (s.fld (Reg.portCfg n) 1 0) (s.flag (Reg.portCfg n) 2 && l.narrow) (s.flag (Reg.portCfg n) 2 && l.narrow1) l.good

/-- LINK_STAT_n takes a port's state; CHANGED sets when any other field changes. A half whose path leaves by an egress that goes
down fails over at once (R393). -/
def State.setLink (s : State) (n : Nat) (l : LinkState) : State :=
  let old := (s.reg (Reg.linkStat n)).toNat
  let f := s.linkFields n l
  let good := (l.good &&& modeLanes (s.fld (Reg.portCfg n) 1 0)).toNat
  let new := (f.width0 != 0).toNat + f.width0 * 2 + f.width1 * 8 + good * 32 + f.degraded.toNat * 512
  if old % 1024 = new then s.setPending
  else
    let t := ((s.setReg (Reg.linkStat n) (BitVec.ofNat 64 (new + 1024))).linkEvent n).setPending
    if (s.egressUp n 0 && !t.egressUp n 0) || (s.egressUp n 1 && !t.egressUp n 1) then t.failDown else t

end Sys2Proof.Machine
end

