-- ==== Sys2Proof/Machine/Setup.lean ====
section
/-!
DEFINITION. Setup-register accesses: what a register reads (R16 to R18, R451, R592), when a write is refused (R21 and the
rules that name it), and what an accepted write does (R593 to R596).
-/

namespace Sys2Proof.Machine

/-! ## Views: registers that show other state -/

/-- The codes of a copy's state (CU_STAT). -/
def CopySt.code : CopySt → Nat
  | .empty => 0 | .loading => 1 | .ready => 2 | .active => 3
/-- The codes of CTX_STAT_c.STATE. -/
def CtxSt.code : CtxSt → Nat
  | .free => 0 | .ready => 1 | .running => 2 | .waiting => 3 | .halted => 4 | .ended => 5

/-- A bit vector's number of ones. -/
def ones (w x : Nat) : Nat := ((List.range w).filter (fun i => bit x i)).length

/-- A ring. -/
def State.ring (s : State) (r : Nat) : Ring := Tab.get {} s.rings r
/-- A ring changed. -/
def State.modRing (s : State) (r : Nat) (f : Ring → Ring) : State := { s with rings := s.rings.set r (f (s.ring r)) }

/-- A key slot is in use (R458). -/
def State.keyInUse (s : State) (k : Nat) : Bool :=
  if k < 16 then
    let q := k / 2
    s.partOn q && (k % 2 == s.fld (Reg.rotStat q) 1 1 || s.rot.any (fun r => r.1 == q))
  else if k < 24 then
    (List.range 4).any (fun n => s.epState n == 1 && (Tab.get {} s.eps n).key == k)
  else s.ideOn.contains ((k - 24) / 2)

/-- A 64-bit map of the slots that meet a test. -/
def keyMap (f : Nat → Bool) : Nat := (List.range 64).foldl (fun a k => a + (f k).toNat * 2 ^ k) 0

/-- What a register reads. -/
def State.view (s : State) (r : RegAt) : Nat :=
  let b := r.row.base
  let v := (s.reg r.off).toNat
  let x := s.ctx r.i r.j
  let g := s.ring (s.fld Reg.ringSel 11 0)
  if b = Reg.partCtl 0 then v % 16 + (s.residents r.i).length * 16
  else if b = Reg.ctxStat 0 0 then (if x.resident then x.st.code + x.part * 8 else 0) + x.cur.block.isSome.toNat * 64
  else if b = Reg.cuStat 0 0 then
    x.cur.pc % 2 ^ 13 + x.cur.bankB.toNat * 2 ^ 13 + x.copyA.code * 2 ^ 14 + x.copyB.code * 2 ^ 16 +
      x.cur.loops.length * 2 ^ 18 + (x.held || (x.commit.isSome && s.counted r.i r.j)).toNat * 2 ^ 21 + x.fault % 32 * 2 ^ 24 + x.fpc % 2 ^ 13 * 2 ^ 32 +
      x.fbankB.toNat * 2 ^ 45 + x.fclass % 8 * 2 ^ 46
  else if b = Reg.ccStat 0 0 then
    x.cur.ccpc % 2 ^ 15 + x.ccWait % 8 * 2 ^ 16 + x.journal.length * 2 ^ 20 + x.ccFpc % 2 ^ 15 * 2 ^ 32
  else if b = Reg.tokqStat 0 0 then (List.range 7).foldl (fun a n => a + (x.tokens n).length * 2 ^ (6 * n)) 0
  else if b = Reg.sumqStat 0 0 then v / 64 % 2 * 64 + x.cur.sumq.length
  else if b = Reg.ringSqb then g.sqb.toNat
  else if b = Reg.ringCqb then g.cqb.toNat
  else if b = Reg.ringCfg then g.cfg.toNat % 2 ^ 33 + (s.ringPart (s.fld Reg.ringSel 11 0)).getD 0 * 2 ^ 33
  else if b = Reg.ringStat then
    g.head + g.tail * 2 ^ 16 + g.cqtail * 2 ^ 32 + g.err.toNat * 2 ^ 48 + g.phase.toNat * 2 ^ 49
  else if b = Reg.keyslotStat then keyMap (fun k => s.keys.any (fun e => e.1 == k))
  else if b = Reg.keyslotUse then keyMap s.keyInUse
  else if b = Reg.modIdent then
    v - bits v 46 38 * 2 ^ 38 + ((List.range 48).filter (fun n => (s.physOf n).isSome)).length * 2 ^ 38 +
      ones 52 (s.reg Reg.spareSet).toNat * 2 ^ 44
  else if b = Reg.numprof then
    v % 2 ^ 16 + s.lib.minor % 256 * 2 ^ 16 + s.lib.major % 256 * 2 ^ 24 + bits v 33 32 * 2 ^ 32 + s.strict.toNat * 2 ^ 34
  else if b = Reg.npstStat then
    let l := s.npstLib.getD s.lib
    v % 2 ^ 16 + l.minor % 256 * 2 ^ 16 + l.major % 256 * 2 ^ 24
  else if b = Reg.auditStat then v - v % 2 + (s.spareList == []).toNat
  else if b = Reg.ptpTime then s.time.toNat
  else v

/-- The Gauntlet domain's registers. -/
def gauntletRegs : List Nat :=
  [Reg.bootStat, Reg.moduleId, Reg.mbxCtl, Reg.mbxStat, Reg.keyslotStat, Reg.keyslotUse, Reg.rplPolicy, Reg.errCfg, Reg.errLost,
   Reg.lockedClk] ++ (List.range 16).map Reg.nbr ++ (List.range 8).map Reg.sealStat ++ (List.range 8).map Reg.rotStat ++
  (List.range 52).map Reg.engHealth

/-- The state in which the window of a retired engine shows what it was when the engine was retired (R596). -/
def State.asKept (s : State) (p : Nat) : State :=
  match (s.engine p).kept with
  | some (cs, rs) =>
    { s.modEngine p (fun e => { e with ctx := cs }) with regs := s.regs.filter (fun r => windowOf r.1 != some p) ++ rs }
  | none => s

/-- What a read of a whole register returns: during a restart of Gauntlet its registers read as when it began, the window of an
engine disabled at manufacture reads 0, and that of a retired engine as it was then (R594, R596). -/
def State.readReg (s : State) (r : RegAt) : Nat :=
  if s.gaunt.restarting && gauntletRegs.contains r.off then (Tab.get 0 s.gaunt.frozen r.off).toNat
  else match windowOf r.off with
    | some p =>
      let health := s.fld (Reg.engHealth p) 2 0
      if health = 5 then 0 else if health = 4 then (s.asKept p).view r else s.view r
    | none => s.view r

/-- Byte k of the MSI-X table or of the PBA of a function. -/
def State.msixByte (s : State) (f : Nat) (pba : Bool) (k : Nat) : Nat :=
  if pba then (List.range 8).foldl (fun a i => a + (s.msixPend.contains (f, 8 * k + i)).toNat * 2 ^ i) 0
  else (Tab.get (if k / 4 % 4 = 3 then 1 else 0) s.msixTab (2 ^ 16 * f + k / 4)).toNat / 2 ^ (8 * (k % 4)) % 256

/-- A read of n bytes of PF0's BAR0: a register, a half of a 64-bit register, a mailbox buffer or the MSI-X structures;
0 for any other size, alignment or offset (R427, R470, R590, R591). -/
def State.readBar0 (s : State) (off n : Nat) : Nat :=
  if n ≠ 4 ∧ n ≠ 8 then 0
  else if off % n ≠ 0 then 0
  else if 0xC1000 ≤ off ∧ off < 0xC2000 then leNat (Mem.bytes s.gaunt.mbxReq (off - 0xC1000) n)
  else if 0xC2000 ≤ off ∧ off < 0xC3000 then Bytes.num s.gaunt.mbxRsp (off - 0xC2000) n
  else if 0x1D000 ≤ off ∧ off < 0x1D040 then (List.range n).foldl (fun a i => a + s.msixByte 0 true (off - 0x1D000 + i) * 256 ^ i) 0
  else if 0x1E000 ≤ off ∧ off < 0x20000 then (List.range n).foldl (fun a i => a + s.msixByte 0 false (off - 0x1E000 + i) * 256 ^ i) 0
  else match regAt off with
    | none => 0
    | some r =>
      if r.row.size < n then 0
      else s.readReg r / 2 ^ (8 * r.byte) % 2 ^ (8 * n)

/-- A read of four bytes of an enabled VF's BAR0: its MSI-X table at 0, its PBA at 0x2000, and 0 elsewhere (R427, R448). -/
def State.readVf (s : State) (f off : Nat) : Nat :=
  let from_ := fun (pba : Bool) (k : Nat) => (List.range 4).foldl (fun a i => a + s.msixByte f pba (k + i) * 256 ^ i) 0
  if off % 4 ≠ 0 then 0
  else if off < 0x400 then from_ false off
  else if 0x2000 ≤ off ∧ off < 0x2008 then from_ true (off - 0x2000)
  else 0

/-- HALF_READ_LATCH: a 32-bit read of a function's BAR0. On PF0 a read of the low half of a 64-bit register latches the high
half for the function, and a read of the high half returns what is latched and clears the latch (R592). An enabled VF has its
MSI-X structures there, and no setup registers (R427). (DEDUCED, log entry 93, DEDUCED, log entry 94.) -/
def execHalfReadLatch (f : Func) (off : BitVec 26) (s : State) : Out :=
  .next (
    if s.boot.hostDown = true then s
    else if f.val ≠ 0 then
      (if (s.partx (f.val - 1)).vf then s.emit (.readData f (BitVec.ofNat 32 (s.readVf f.val off.toNat))) else s)
    else match regAt off.toNat with
      | none => s.emit (.readData f (BitVec.ofNat 32 (s.readBar0 off.toNat 4)))
      | some r =>
        if r.row.wide = false then s.emit (.readData f (BitVec.ofNat 32 (s.readBar0 off.toNat 4)))
        else
          let key := 2 ^ 26 * f.val + r.off
          if r.byte = 0 then
            { s with latch := s.latch.set key (BitVec.ofNat 32 (s.readReg r / 2 ^ 32)) }.emit
              (.readData f (BitVec.ofNat 32 (s.readReg r)))
          else if r.byte = 4 then
            { s with latch := s.latch.del key }.emit (.readData f (Tab.get (BitVec.ofNat 32 (s.readReg r / 2 ^ 32)) s.latch key))
          else s.emit (.readData f 0))

/-! ## Refusals -/

/-- A refused write: a record of class "setup refused" (R21). (DEDUCED, log entry 39.) -/
def State.refuseSetup (s : State) : State := s.sendRec blkSetup { cls := 0x01 }

/-- A partition whose PF0 writes R429 closes: its TDI is LOCKED or RUN, or it is sealed (R482). -/
def State.tdiClosed (s : State) (q : Nat) : Bool :=
  s.sealedPart q || (s.partx q).tdi == .locked || (s.partx q).tdi == .run

/-- A Tilth context of a range has a half that is not CLOSED. -/
def State.tilthOpen (s : State) (base count : Nat) : Bool :=
  let inr := fun (k : Nat) => decide (base ≤ k) && decide (k < base + count)
  s.send.any (fun h => inr h.1 && h.2.sstate != 0) || s.recv.any (fun h => inr h.1 && h.2.rstate != 0)

/-- Any Tilth context of the module is not CLOSED. -/
def State.anyTilth (s : State) : Bool := s.tilthOpen 0 (2 ^ 20)

/-- Two ranges of granules, contexts or rings share a member. -/
def rangesMeet (a n b m : Nat) : Bool := decide (0 < n) && decide (0 < m) && decide (a < b + m) && decide (b < a + n)

/-- A planned start is under way: JOB_READY has not come (R543, R566, R572). -/
def State.planning (s : State) : Bool := s.store.mrec.mgr && decide (s.fld Reg.bootStat 3 0 ≠ 9)

/-- A resource range of partition q overlaps that of another enabled partition (R407). -/
def State.partOverlap (s : State) (q : Nat) (reg : Nat → Nat) (bh bl ch cl : Nat) : Bool :=
  (List.range 8).any (fun r => r != q && s.partOn r &&
    rangesMeet (s.fld (reg q) bh bl) (s.fld (reg q) ch cl) (s.fld (reg r) bh bl) (s.fld (reg r) ch cl))

/-- A write of EN = 1 to PART_CTL_q is refused (R407). -/
def State.enableRefused (s : State) (q : Nat) : Bool :=
  let m := (s.reg (Reg.partMem q)).toNat
  let w := (s.reg (Reg.partWin q)).toNat
  let t := (s.reg (Reg.partTilth q)).toNat
  s.resetting q || decide (576 < bits m 9 0 + bits m 19 10) || decide (256 < bits m 27 20 + bits m 36 28) ||
  decide (2 ^ 20 < bits t 19 0 + bits t 40 20) ||
  decide (4096 < s.fld (Reg.partRing q) 11 0 + s.fld (Reg.partRing q) 24 12) ||
  s.partOverlap q Reg.partMem 9 0 19 10 || s.partOverlap q Reg.partMem 27 20 36 28 ||
  s.partOverlap q Reg.partTilth 19 0 40 20 || s.partOverlap q Reg.partRing 11 0 24 12 ||
  (decide (0 < bits m 19 10) && decide (bits w 28 16 < bits w 12 0 + 101)) ||
  (s.planning && rangesMeet (bits t 19 0) (bits t 40 20) 0xFFF00 256)

/-- A write to PART_CTL_q is refused (R407). -/
def State.partCtlRefused (s : State) (q v : Nat) : Bool :=
  if bit v 0 then s.enableRefused q
  else bit v 1 || s.residents q != [] || s.tilthOpen (s.fld (Reg.partTilth q) 19 0) (s.fld (Reg.partTilth q) 40 20)

/-- A write to PART_WIN_q is refused (R298, R429, R482). -/
def State.partWinRefused (s : State) (q v : Nat) : Bool :=
  let a := bits v 12 0
  let e := bits v 28 16
  let loam := s.fld (Reg.partMem q) 19 10
  let clay := s.fld (Reg.partMem q) 36 28
  s.tdiClosed q || s.residents q != [] || decide (e < a) || decide (6000 < e) ||
  (decide (a < e) && decide (a < (if 0 < clay then 300 else 96))) ||
  (List.range 8).any (fun r => r != q &&
    rangesMeet a (e - a) (s.fld (Reg.partWin r) 12 0) (s.fld (Reg.partWin r) 28 16 - s.fld (Reg.partWin r) 12 0)) ||
  (s.partOn q && decide (0 < loam) && decide (e < a + 101))

/-- A share overlaps that of another resident context of the engine. -/
def State.shareMeets (s : State) (p c : Nat) (share : Nat → Nat → Nat × Nat) (base n : Nat) : Bool :=
  (List.range 4).any (fun k => k != c && (s.ctx p k).resident && rangesMeet base n (share p k).1 (share p k).2)

/-- The slice tables allow slicing: on every engine the valid entries rise strictly from START 0 and each slice lasts at
least 20 µs (R412). -/
def State.slicesOk (s : State) (period : Nat) : Bool :=
  (List.range 52).all (fun p =>
    let starts := ((List.range 8).map (s.sliceEnt p)).filterMap (fun v => if seValid v then some (seStart v) else none)
    starts == [] || (starts.head? == some 0 &&
      (starts.zip (starts.drop 1 ++ [period])).all (fun (a, b) => decide (a + 20 ≤ b))))

/-- A write to SLICE_CFG is refused (R412): PERIOD and RUNMAX stay while EN = 1. -/
def State.sliceCfgRefused (s : State) (v : Nat) : Bool :=
  let old := (s.reg Reg.sliceCfg).toNat
  (bit old 0 && bits v 35 1 != bits old 35 1) ||
  (if bit v 0 then !s.slicesOk (bits v 17 1)
   else (List.range 52).any (fun p => decide (1 < ((List.range 4).filter (fun c => (s.ctx p c).resident)).length)))

/-- A pool of n pages of 64 KiB from page b lies in a partition's Loam or Clay. -/
def State.poolOk (s : State) (q tier b n : Nat) : Bool := n == 0 || s.owns q tier (b * 65536) (n * 65536)

/-- The KV pools of a partition lie outside its granules, or LPE exceeds PPE (R345). -/
def State.kvRefused (s : State) (q kv kvn : Nat) : Bool :=
  let n := s.fld (Reg.rollSeqt q) 56 40
  let ppe := bits kvn 11 0
  let lpe := bits kvn 23 12
  decide (ppe < lpe) || !s.poolOk q 2 (bits kv 23 0) (n * lpe) || !s.poolOk q 3 (bits kv 47 24) (n * (ppe - lpe))

/-- The digest log that a base and size describe lies in the partition's Loam (R66). With LOG2N outside 7 to 20 the spec names no
log; 32 × 2^LOG2N bytes are tested all the same. (DESIGN CHOICE, log entry 105.) -/
def State.logOk (s : State) (q : Nat) : Bool :=
  s.ownsLoam q (s.fld (Reg.dglBase q) 43 12 * 4096) (32 * 2 ^ s.fld (Reg.dglSize q) 4 0)

/-- A write to RELAY_A_k or RELAY_B_k is refused (R365, R482). -/
def State.relayRefused (s : State) (k : Nat) (newSlot : Option Nat) : Bool :=
  let a := (s.reg (Reg.relayA k)).toNat
  let owned := fun (n : Nat) => s.epState n != 0 && s.sealedPart (s.fld (Reg.epsStat n) 5 3)
  (bit a 0 && s.epState (bits a 3 2) == 1) || owned (bits a 3 2) || (match newSlot with | some n => owned n | none => false)

/-- A write to SHALE_MAP_g is refused (R307, R482). -/
def State.shaleRefused (s : State) (g v : Nat) : Bool :=
  let old := s.shaleMap g
  let gran := bits v 12 3
  let q := bits v 15 13
  let cap := if bit v 2 then s.boot.cxlCap.2 else s.boot.cxlCap.1
  let other := (List.range 8).any (fun r => r != q && s.partOn r &&
    decide (s.fld (Reg.partMem r) 27 20 ≤ gran) && decide (gran < s.fld (Reg.partMem r) 27 20 + s.fld (Reg.partMem r) 36 28))
  let taken := (List.range 2048).any (fun h => h != g &&
    (let m := s.shaleMap h
     bit m 0 && bits m 12 3 == gran && (if bit v 1 then bit m 1 else !bit m 1 && bit m 2 == bit v 2)))
  (bit old 0 && s.residents (bits old 15 13) != []) || s.residents q != [] || s.sealedPart (bits old 15 13) || s.sealedPart q ||
  (bit v 0 && ((if bit v 1 then decide (256 ≤ gran) || other else decide (cap ≤ gran)) || taken))

/-- An entry of a table is partition q's: on a Loam or Clay channel one in its window, in a fabric table one of its contexts, or
of a P-die writer whose run, 48 cc ahead of its data, meets the window (R296 to R298, R301). -/
def State.slotOf (s : State) (q chan : Nat) (w : W32) : Bool :=
  let a := s.fld (Reg.partWin q) 12 0
  let e := s.fld (Reg.partWin q) 28 16
  if chan < 832 then decide (a ≤ slStart w) && decide (slStart w < e)
  else if slLe w < 48 then
    (match s.physOf (slLe w) with
      | some p => (s.ctx p (slCtx w)).resident && (s.ctx p (slCtx w)).part == q
      | none => false)
  else overlaps (slStart w + 48) 96 a (e - a)

/-- Two copies of a table differ in partition q's entries (R297). -/
def State.slotsDiffer (s : State) (q : Nat) : Bool :=
  let mine := fun (copy chan : Nat) => (validSlots (s.slotTable copy chan)).filter (s.slotOf q chan)
  (List.range 838).any (fun chan => mine 0 chan != mine 1 chan)

/-- A write to SLOT_CTL is refused (R297). -/
def State.slotCtlRefused (s : State) (v : Nat) : Bool :=
  bit v 0 && (s.flag Reg.slotCtl 1 || (List.range 8).any (fun q => s.residents q != [] && s.slotsDiffer q))

/-- A write to SW_CTL is refused (R379). -/
def State.swCtlRefused (s : State) (v : Nat) : Bool :=
  bit v 0 && (s.flag Reg.swCtl 1 || (bits v 5 3 != s.gshift && s.anyTilth))

/-- A Loam row whose mode a write changes holds a granule of a partition with a resident context (R287). -/
def State.rowmodeRefused (s : State) (v : Nat) : Bool :=
  let old := (s.reg Reg.loamRowmode).toNat
  (List.range 48).any (fun r => bit v r != bit old r && (List.range 8).any (fun q =>
    s.partOn q && s.residents q != [] && rangesMeet (12 * r) 12 (s.fld (Reg.partMem q) 9 0) (s.fld (Reg.partMem q) 19 10)))

/-- A ring area fails R430, or the ring's number or size does (R431). -/
def State.ringEnableRefused (s : State) (r v : Nat) : Bool :=
  let n := bits v 7 3
  let g := s.ring r
  decide (n < 6) || decide (16 < n) ||
  (match s.ringPart r with
    | none => true
    | some q => !s.inWindow (some q) false g.sqb.toNat (64 * 2 ^ n) || !s.inWindow (some q) true g.cqb.toNat (16 * 2 ^ n))

/-- The partition of the selected ring closes its registers to PF0 (R429). -/
def State.ringClosed (s : State) (r : Nat) : Bool := match s.ringPart r with | some q => s.tdiClosed q | none => false

/-- A write to RING_CFG is refused (R429, R431). -/
def State.ringCfgRefused (s : State) (r v : Nat) : Bool :=
  let g := s.ring r
  s.ringClosed r ||
  (if bit v 0 then g.cfg.getLsbD 0 || s.ringEnableRefused r v else g.fetched != [])

/-- A write to EVR_CFG_e is refused (R429, R430); a size outside the field's 6 to 16 makes no ring. -/
def State.evrCfgRefused (s : State) (e v : Nat) : Bool :=
  (decide (e < 8) && s.tdiClosed e) ||
  (bit v 0 && (s.flag (Reg.evrCfg e) 0 || decide (bits v 5 1 < 6) || decide (16 < bits v 5 1) ||
    !s.inWindow (if e = 8 then none else some e) true (s.reg (Reg.evrBase e)).toNat (32 * 2 ^ bits v 5 1)))

/-- A write to ENGSET_RST is refused (R555). -/
def State.engsetRefused (s : State) (v : Nat) : Bool :=
  bit v 52 && (bits v 51 0 == 0 || s.flag Reg.engsetRst 53 || s.flag Reg.npstStat 0 || bits v 51 0 != s.fld Reg.engsetRst 51 0)

/-- Writes to the registers of partitions, rollouts, relays and Shale that their rules refuse. -/
def State.partRegRefused (s : State) (b i v : Nat) : Option Bool :=
  if b = Reg.partCtl 0 then some (s.partCtlRefused i v)
  else if b = Reg.partEng 0 ∨ b = Reg.partMem 0 ∨ b = Reg.partTilth 0 ∨ b = Reg.partRing 0 then some (s.partOn i || s.tdiClosed i)
  else if b = Reg.partWin 0 then some (s.partWinRefused i v)
  else if b = Reg.rollSeqt 0 then
    some (s.sealedPart i || s.residents i != [] || decide (65536 < bits v 56 40) ||
      !(bits v 56 40 == 0 || s.ownsLoam i (bits v 39 16 * 65536) (128 * bits v 56 40)))
  else if b = Reg.rollAdm 0 then some (s.sealedPart i || s.residents i != [] || bits v 31 16 == 0)
  else if b = Reg.rollReq 0 then some (s.sealedPart i || s.residents i != [])
  else if b = Reg.rollKv 0 then some (s.sealedPart i || s.residents i != [] || s.kvRefused i v (s.reg (Reg.rollKvn i)).toNat)
  else if b = Reg.rollKvn 0 then some (s.sealedPart i || s.residents i != [] || s.kvRefused i (s.reg (Reg.rollKv i)).toNat v)
  else if b = Reg.dglBase 0 ∨ b = Reg.dglSize 0 then some (s.sealedPart i || s.residents i != [])
  else if b = Reg.dglCtl 0 then some (s.sealedPart i || s.residents i != [] || (bit v 0 && !s.logOk i))
  else if b = Reg.dglTail 0 then some (s.sealedPart i)
  else if b = Reg.relayA 0 then some (s.relayRefused i (some (bits v 3 2)))
  else if b = Reg.relayB 0 then some (s.relayRefused i none)
  else if b = Reg.shaleMap 0 then some (s.shaleRefused i v)
  else none

/-- Writes to the registers of an engine's window that their rules refuse. -/
def State.engRegRefused (s : State) (b p c v : Nat) : Option Bool :=
  let res := (s.ctx p c).resident
  if b = Reg.vregShare 0 0 then
    some (res || bits v 5 0 % 8 != 0 || bits v 14 8 % 8 != 0 || decide (64 < bits v 5 0 + bits v 14 8) ||
      s.shareMeets p c s.vregShare (bits v 5 0) (bits v 14 8))
  else if b = Reg.imemShare 0 0 then
    some (res || decide (16 < bits v 3 0 + bits v 8 4) || s.shareMeets p c s.imemShare (512 * bits v 3 0) (512 * bits v 8 4) ||
      (bit v 10 && !s.fuse.steppingC0))
  else if b = Reg.tokwd 0 0 then some (res || bits v 15 0 == 0 || bits v 31 16 == 0)
  else if b = Reg.ccShare 0 0 then
    some (res || decide (16 < bits v 3 0 + bits v 8 4) || decide (16 < bits v 12 9 + bits v 17 13) ||
      s.shareMeets p c s.ccDShare (4096 * bits v 3 0) (4096 * bits v 8 4) ||
      s.shareMeets p c s.ccIShare (2048 * bits v 12 9) (2048 * bits v 17 13))
  else if b = Reg.sandShare 0 0 then
    some (res || decide (3072 < bits v 11 0 + bits v 23 12) || s.shareMeets p c s.sandShare (4096 * bits v 11 0) (4096 * bits v 23 12))
  else if b = Reg.siltShare 0 0 then
    some (res || decide (4096 < bits v 12 0 + bits v 25 13) || s.shareMeets p c s.siltShare (bits v 12 0) (bits v 25 13))
  else if b = Reg.sliceEnt 0 0 then some s.slicing
  else if b = Reg.arrInj 0 then some (decide (256 < bits v 11 3) || decide (256 < bits v 20 12))
  else if b = Reg.vecInj 0 then some (bits v 2 1 == 3)
  else none

/-- Writes to the module's other registers that their rules refuse. -/
def State.modRegRefused (s : State) (gauntlet : Bool) (b i v : Nat) : Bool :=
  let sel := s.fld Reg.ringSel 11 0
  if b = Reg.detCtl then
    bit v 0 != s.strict && (s.flag Reg.detCtl 1 || s.anyResident || bit v 1)
  else if b = Reg.npstCtl then bit v 0 && (s.anyResident || s.flag Reg.npstStat 0 || bit v 2)
  else if b = Reg.engsetRst then s.engsetRefused v
  else if b = Reg.ringSqb ∨ b = Reg.ringCqb then s.ringClosed sel || (s.ring sel).cfg.getLsbD 0
  else if b = Reg.ringCfg then s.ringCfgRefused sel v
  else if b = Reg.ringStat then s.ringClosed sel
  else if b = Reg.evrBase 0 then (decide (i < 8) && s.tdiClosed i) || s.flag (Reg.evrCfg i) 0
  else if b = Reg.evrCfg 0 then s.evrCfgRefused i v
  else if b = Reg.evrStat 0 ∨ b = Reg.evrLost 0 then decide (i < 8) && s.tdiClosed i
  else if b = Reg.sliceCfg then s.sliceCfgRefused v
  else if b = Reg.loamRowmode then s.rowmodeRefused v
  else if b = Reg.slotCtl then s.slotCtlRefused v
  else if b = Reg.portCfg 0 then
    s.anyResident || bits v 4 3 == 3 || (!gauntlet && bits v 13 8 != s.fld (Reg.portCfg i) 13 8)
  else if b = Reg.tilthCfg then s.anyTilth || decide (bits v 15 0 < 1024) || bits v 15 0 == 319 || bits v 15 0 == 320
  else if b = Reg.tilthPrefix then s.anyTilth
  else if b = Reg.swCtl then s.swCtlRefused v
  else if b = Reg.mbxCtl then bit v 0 && s.flag Reg.mbxStat 0
  else if b = Reg.errCfg then (List.range 8).any (fun q => s.sealedPart q && bit v q != s.flag Reg.errCfg q)
  else if b = Reg.auditCtl then
    if s.flag Reg.auditCtl 0 then
      bit v 0 || bits v 8 1 != s.fld Reg.auditCtl 8 1 || bits v 41 10 != s.fld Reg.auditCtl 41 10
    else bit v 0 && bits v 41 10 == 0
  else false

/-- A write to a listed register is refused by the rule that defines the register; `gauntlet` says that Gauntlet writes (R369).
(DEDUCED, log entry 42, DEDUCED, log entry 43.) -/
def State.regRefused (s : State) (gauntlet : Bool) (r : RegAt) (v : Nat) : Bool :=
  let b := r.row.base
  match s.partRegRefused b r.i v with
  | some x => x
  | none => match s.engRegRefused b r.i r.j v with
    | some x => x
    | none => s.modRegRefused gauntlet b r.i v

/-! ## Effects -/

/-- A register takes the written fields by their access codes (R16 to R18). -/
def State.plainWrite (s : State) (r : RegAt) (v : Nat) : State :=
  s.setReg r.off (BitVec.ofNat 64 (writeFields r.row.fields (s.reg r.off).toNat v))

/-- PART_CTL_q written: an enabling loads fresh keys and starts the clearing of R479, a disabling zeroes the keys, and RESET
starts a reset, of a partition that the same write enables as well (R425, R474). -/
def State.writePartCtl (s : State) (q v : Nat) : State :=
  let on := s.partOn q
  if bit v 0 then
    if on then (if bit v 1 then s.startClear q .reset else s)
    else ((s.setFld (Reg.partCtl q) 0 0 1).freshKeys q).startClear q (if bit v 1 then .enableReset else .enable)
  else if on then (s.setFld (Reg.partCtl q) 0 0 0).zeroKeys q
  else s

/-- NPST_CTL written: START begins a self-test on the engines that hold logical numbers, and on the spares when SPARES = 1;
ABORT asks a running one to stop (R101, R102, R104). -/
def State.writeNpst (s : State) (v : Nat) : State :=
  let s := s.setFld Reg.npstCtl 1 1 (bit v 1).toNat
  if bit v 0 then
    let engines := (List.range 52).foldl (fun (m : BitVec 52) p =>
      if (s.leOf p).isSome || (bit v 1 && s.flag Reg.spareSet p) then m ||| BitVec.ofNat 52 (2 ^ p) else m) 0
    { ((s.setFld Reg.npstStat 0 0 1).setFld Reg.npstStat 3 2 0) with
      npstAbort := false, npstEng := engines, npstLib := some s.lib }
  else if bit v 2 && s.flag Reg.npstStat 0 then { s with npstAbort := true }
  else s

/-- SLICE_CFG written: EN going to 1 begins the schedule at SLICE_BASE, and EN going to 0 drops the switches under way
(R412, R420). -/
def State.writeSliceCfg (s : State) (r : RegAt) (v : Nat) : State :=
  let on := s.slicing
  let s := s.plainWrite r v
  let clear := fun (e : Engine) => { e with slice := none, last := none, switch := none }
  if bit v 0 = on then s
  else
    let s := { s with eng := s.eng.map (fun (p, e) => (p, clear e)) }
    if bit v 0 then { s with sched := { a := (s.reg Reg.sliceBase).toNat } }.setFld Reg.sliceStat 39 0 0 else s

/-- RING_CFG written for the selected ring: EN going to 1 starts it anew (R431). -/
def State.writeRingCfg (s : State) (r v : Nat) : State :=
  s.modRing r (fun g =>
    let cfg : W64 := BitVec.ofNat 64 (v % 2 ^ 33)
    if bit v 0 && !g.cfg.getLsbD 0 then
      { sqb := g.sqb, cqb := g.cqb, cfg := cfg, phase := true, err := g.err }
    else { g with cfg := cfg })

/-- ENGSET_RST written: GO takes the engines of MASK for the reset, stops and discards what the engines of the set do for replay
and audit, and abandons the migrations it touches (R537, R555, R556). -/
def State.startEngset (s : State) (mask : Nat) : State :=
  let s := { (s.setFld Reg.engsetRst 53 53 1).setFld Reg.engsetRst 54 54 0 with engSet := BitVec.ofNat 52 mask }
  let hit := fun (p : Nat) => bit mask p
  let parts := (List.range 8).filter (fun q => (s.residents q).any (fun (p, _) => hit p))
  let s := { s with engParts := parts }
  let s := match s.audit with
    | some a => if hit a.spare then s.dropAudit a.p a.c else s
    | none => s
  (List.range 52).foldl (fun s p =>
    match (s.engine p).migrate with
    | none => s
    | some q =>
      if hit p then s.modEngine p (fun e => { e with migrate := none })
      else if hit q then ((s.modEngine p (fun e => { e with migrate := none })).suspect p 2).nextRung p
      else s) s

/-- The contents of a Loam row are lost when its mode changes (R287). -/
def State.writeRowmode (s : State) (r : RegAt) (v : Nat) : State :=
  let old := (s.reg Reg.loamRowmode).toNat
  let s := s.plainWrite r v
  let lost := (List.range 576).filter (fun g => bit v (g / 12) != bit old (g / 12))
  { s with loamEra := lost.foldl (fun t g => t.set g (s.fresh + 1)) s.loamEra, fresh := s.fresh + 1 }

/-- The request codes of the mailbox (R471). -/
def mbxKnown (code : Nat) : Bool := decide (1 ≤ code) && decide (code ≤ 6)

/-- The mailbox's response: its result and its bytes; BUSY clears and DONE sets (R470). -/
def State.mbxAnswer (s : State) (result : Nat) (rsp : Bytes) : State :=
  { (((s.setFld Reg.mbxStat 0 0 0).setFld Reg.mbxStat 1 1 1).setFld Reg.mbxStat 15 8 result) with
    gaunt := { s.gaunt with mbxRsp := rsp } }

/-- A response of the mailbox: its code, its length and its payload (R470). -/
def mbxResponse (code : Nat) (payload : Bytes) : Bytes := leBytes 2 code ++ leBytes 2 payload.length ++ payload

/-- GO: the request in MBX_REQ is submitted; one whose code the mailbox does not serve is answered MALFORMED (R471). -/
def State.mbxGo (s : State) : State :=
  let s := s.setFld Reg.mbxStat 0 0 1
  let code := leNat (Mem.bytes s.gaunt.mbxReq 0 2)
  if mbxKnown code then s else s.mbxAnswer 1 (mbxResponse code [])

/-- PORT_CFG_n: a port whose MODE changes goes down and trains anew in the mode selected (R366). (DEDUCED, log entry 127.) -/
def State.writePortCfg (s : State) (r : RegAt) (v : Nat) : State :=
  let t := s.plainWrite r v
  if t.fld (Reg.portCfg r.i) 1 0 = s.fld (Reg.portCfg r.i) 1 0 then t else t.setLink r.i ⟨0, false, false⟩

/-- An accepted write takes effect (R593). -/
def State.regWrite (s : State) (r : RegAt) (v : Nat) : State :=
  let b := r.row.base
  let sel := s.fld Reg.ringSel 11 0
  if b = Reg.partCtl 0 then s.writePartCtl r.i v
  else if b = Reg.npstCtl then s.writeNpst v
  else if b = Reg.sliceCfg then s.writeSliceCfg r v
  else if b = Reg.ringSqb then s.modRing sel (fun g => { g with sqb := BitVec.ofNat 64 (v / 4096 * 4096) })
  else if b = Reg.ringCqb then s.modRing sel (fun g => { g with cqb := BitVec.ofNat 64 (v / 4096 * 4096) })
  else if b = Reg.ringCfg then s.writeRingCfg sel v
  else if b = Reg.ringStat then s.modRing sel (fun g => { g with err := g.err && !bit v 48 })
  else if b = Reg.evrCfg 0 then
    let on := s.flag (Reg.evrCfg r.i) 0
    let s := s.plainWrite r v
    let er : EvRing := Tab.get {} s.ev r.i
    if bit v 0 && !on then
      { s with ev := s.ev.set r.i { er with used := 0 } }.setReg (Reg.evrStat r.i) (BitVec.ofNat 64 (2 ^ 16))
    else s
  else if b = Reg.slotCtl then (if bit v 0 then s.setFld Reg.slotCtl 1 1 1 else s)
  else if b = Reg.swCtl then
    let s := s.plainWrite r v
    if bit v 0 then { s.setFld Reg.swCtl 1 1 1 with swAt := s.time.toNat } else s
  else if b = Reg.engsetRst then (if bit v 52 then s.startEngset (bits v 51 0) else s.plainWrite r v)
  else if b = Reg.loamRowmode then s.writeRowmode r v
  else if b = Reg.mbxCtl then (if bit v 0 then s.mbxGo else s)
  else if b = Reg.portCfg 0 then s.writePortCfg r v
  else s.plainWrite r v

/-! ## The write path -/

/-- Who writes: software through PF0, a SETUP descriptor, the sequencers of a planned start, or Gauntlet (R369, R571, R595). -/
inductive Writer | host | setup | sequencer | gauntlet
  deriving DecidableEq, Repr

/-- The setup policy refuses writes to an offset (R21). -/
def State.policyRefuses (s : State) (off : Nat) : Bool :=
  s.gaunt.policy.refuse.any (fun (a, b) => decide (a ≤ off) && decide (off ≤ b))

/-- The registers that the sequencers set in a planned start, which stay closed to software until JOB_READY: partitions,
memory tiers, ports, switch and Tilth (R543, R571). -/
def State.planClosed (s : State) (off : Nat) : Bool := s.planning && decide (0x20000 ≤ off) && decide (off < 0xC0000)

/-- Offsets that a SETUP descriptor may not name: ring setup, host DMA windows and MSI-X (R443). -/
def setupClosed (off : Nat) : Bool := decide (0x10000 ≤ off) && decide (off < 0x20000)

/-- Writes are refused whatever the register: before READY, by the policy, to Gauntlet's registers during a restart, to what
a planned start closes, and by a SETUP descriptor to the ring block (R21, R443, R543, R571, R594). (DESIGN CHOICE, log
entry 9.) -/
def State.pathRefused (s : State) (w : Writer) (off : Nat) (gauntlet : Bool) : Bool :=
  let stage := s.fld Reg.bootStat 3 0
  decide (stage < 7) || stage == 15 || s.policyRefuses off || (gauntlet && s.gaunt.restarting) ||
  (w != .sequencer && w != .gauntlet && s.planClosed off) || (w == .setup && setupClosed off)

/-- A dword of a function's MSI-X table written; unmasking a vector that is pending sends it (R427, R448). -/
def State.msixWrite (s : State) (f k : Nat) (v : W32) : State :=
  let i := 2 ^ 16 * f + k
  let s := { s with msixTab := s.msixTab.set i (if k % 4 = 3 then v &&& 1 else v) }
  let vec := k / 4
  if k % 4 = 3 ∧ v.getLsbD 0 = false ∧ s.msixPend.contains (f, vec) then
    { s with msixPend := s.msixPend.filter (fun e => e != (f, vec)) }.emit (.msix f vec)
  else s

/-- A write of n bytes to PF0's BAR0: the new state, and whether the write was refused. The request buffer takes 4 and 8 bytes
anywhere in it, and the response buffer and the PBA keep what they hold (R470, R591). -/
def State.bar0Write (s : State) (w : Writer) (off n : Nat) (v : W64) : State × Bool :=
  let refused := (s.refuseSetup, true)
  let aligned := (n = 4 ∨ n = 8) ∧ off % n = 0
  if 0xC1000 ≤ off ∧ off < 0xC2000 then
    if s.pathRefused w off true = true ∨ (n ≠ 4 ∧ n ≠ 8) ∨ 0xC2000 < off + n then refused
    else ({ s with gaunt := { s.gaunt with mbxReq := s.gaunt.mbxReq.store (off - 0xC1000) (leBytes n v.toNat) } }, false)
  else if (0xC2000 ≤ off ∧ off < 0xC3000) ∨ (0x1D000 ≤ off ∧ off < 0x1D040) then
    (if s.pathRefused w off (decide (0xC2000 ≤ off)) = true ∨ ¬ aligned then refused else (s, false))
  else if 0x1E000 ≤ off ∧ off < 0x20000 then
    if s.pathRefused w off false = true ∨ ¬ aligned then refused
    else
      let k := (off - 0x1E000) / 4
      let s := s.msixWrite 0 k (BitVec.ofNat 32 v.toNat)
      (if n = 8 then s.msixWrite 0 (k + 1) (BitVec.ofNat 32 (v.toNat / 2 ^ 32)) else s, false)
  else match regAt off with
    | none => if w = .setup ∧ setupClosed off = true then refused else (s, false)
    | some r =>
      let health := match windowOf off with | some p => s.fld (Reg.engHealth p) 2 0 | none => 0
      if health = 5 then (s, false)
      else if s.pathRefused w off (gauntletRegs.contains r.off) = true ∨ n ≠ r.row.size ∨ r.byte ≠ 0 ∨ health = 4 then refused
      else if s.regRefused (w == .gauntlet) r v.toNat then refused
      else (s.regWrite r v.toNat, false)

/-- A BAR0 write of a function. The BAR0 of an enabled VF holds its MSI-X table and its PBA alone (R427, R428); nothing arrives
while the host link is down, and a write before READY is refused (R543). -/
def State.hostWrite (s : State) (f off n : Nat) (v : W64) : State :=
  if s.boot.hostDown then s
  else if f = 0 then (s.bar0Write .host off n v).1
  else if (s.partx (f - 1)).vf = true ∧ (s.fld Reg.bootStat 3 0 < 7 ∨ s.fld Reg.bootStat 3 0 = 15) then
    (if off < 0x400 ∨ (0x2000 ≤ off ∧ off < 0x2008) then s.refuseSetup else s)
  else if (s.partx (f - 1)).vf = true ∧ off < 0x400 ∧ (n = 4 ∨ n = 8) ∧ off % n = 0 then
    let s := s.msixWrite f (off / 4) (BitVec.ofNat 32 v.toNat)
    if n = 8 then s.msixWrite f (off / 4 + 1) (BitVec.ofNat 32 (v.toNat / 2 ^ 32)) else s
  else s

/-- A write of a whole register by software. (DESIGN CHOICE, log entry 40.) -/
def State.pf0 (s : State) (off n v : Nat) : State := s.hostWrite 0 off n (BitVec.ofNat 64 v)

/-! ## The rows -/

/-- REGISTER_WRITE: a BAR0 write of a function, or of Gauntlet, which alone changes PORT_CFG_n.TXCAP (R21, R369, R454). Gauntlet
writes no other register by this row. (DEDUCED, log entry 39, DESIGN CHOICE, log entry 40, DEDUCED, log entry 93.) -/
def execRegisterWrite (w : RegSrc) (off : BitVec 26) (bytes : Nat) (v : W64) (s : State) : Out :=
  .next (match w with
    | .func f => s.hostWrite f.val off.toNat bytes v
    | .gauntlet =>
      match regAt off.toNat with
      | some r =>
        if r.row.base = Reg.portCfg 0 ∧ s.boot.powered = true ∧ s.gaunt.restarting = false then (s.bar0Write .gauntlet off.toNat bytes v).1
        else s
      | none => s)

/-- PARTITION_ENABLE: PART_CTL_q.EN = 1 is written (R474). (DEDUCED, log entry 60.) -/
def execPartitionEnable (q : PartId) (s : State) : Out := .next (s.pf0 (Reg.partCtl q) 4 1)
/-- PARTITION_DISABLE: PART_CTL_q.EN = 0 is written (R474). -/
def execPartitionDisable (q : PartId) (s : State) : Out := .next (s.pf0 (Reg.partCtl q) 4 0)
/-- PARTITION_RESET: PART_CTL_q.RESET = 1 is written with EN as it stands (R425). (DEDUCED, log entry 59.) -/
def execPartitionReset (q : PartId) (s : State) : Out := .next (s.pf0 (Reg.partCtl q) 4 (2 + (s.partOn q).toNat))
/-- DET_CTL_STRICT_WRITE: DET_CTL is written (R48, R49). -/
def execDetCtlStrictWrite (strict lock : Bool) (s : State) : Out := .next (s.pf0 Reg.detCtl 4 (strict.toNat + 2 * lock.toNat))
/-- DET_CTL_LOCK_SET: LOCK = 1 is written with STRICT as it stands (R49). -/
def execDetCtlLockSet (s : State) : Out := .next (s.pf0 Reg.detCtl 4 (s.strict.toNat + 2))
/-- NPST_START: START = 1 is written (R102). -/
def execNpstStart (spares abort : Bool) (s : State) : Out := .next (s.pf0 Reg.npstCtl 4 (1 + 2 * spares.toNat + 4 * abort.toNat))
/-- NPST_ABORT: ABORT = 1 is written with SPARES as it stands (R104). -/
def execNpstAbort (s : State) : Out := .next (s.pf0 Reg.npstCtl 4 (4 + 2 * s.fld Reg.npstCtl 1 1))
/-- ARR_INJ_ARM: ARR_INJ of an engine is written (R141). -/
def execArrInjArm (p : PhysE) (v : W64) (s : State) : Out := .next (s.hostWrite 0 (Reg.arrInj p) 8 v)
/-- VEC_INJ_ARM: VEC_INJ of an engine is written (R176). -/
def execVecInjArm (p : PhysE) (v : W64) (s : State) : Out := .next (s.hostWrite 0 (Reg.vecInj p) 8 v)
/-- SLOT_SWITCH_REQUEST: SLOT_CTL.SWITCH = 1 is written (R297). -/
def execSlotSwitchRequest (s : State) : Out := .next (s.pf0 Reg.slotCtl 4 1)
/-- SW_SWITCH_REQUEST: SW_CTL.SWITCH = 1 is written with a GSHIFT (R379). -/
def execSwSwitchRequest (gshift : BitVec 3) (s : State) : Out := .next (s.pf0 Reg.swCtl 4 (1 + 8 * gshift.toNat))
/-- ENGSET_RESET: ENGSET_RST.GO = 1 is written with a MASK, by software, or by Gauntlet for the operator on the same path
(R555). -/
def execEngsetReset (w : RegSrc) (mask : BitVec 52) (s : State) : Out :=
  .next (match w with
    | .func f => s.hostWrite f.val Reg.engsetRst 8 (BitVec.ofNat 64 (mask.toNat + 2 ^ 52))
    | .gauntlet =>
      if s.boot.powered = true ∧ s.gaunt.restarting = false then
        (s.bar0Write .gauntlet Reg.engsetRst 8 (BitVec.ofNat 64 (mask.toNat + 2 ^ 52))).1
      else s)
/-- RING_ENABLE: RING_CFG of the selected ring is written with EN = 1 (R431). -/
def execRingEnable (v : W64) (s : State) : Out := .next (if v.getLsbD 0 then s.hostWrite 0 Reg.ringCfg 8 v else s)
/-- RING_DISABLE: RING_CFG of the selected ring is written with EN = 0 (R431). -/
def execRingDisable (v : W64) (s : State) : Out := .next (if v.getLsbD 0 then s else s.hostWrite 0 Reg.ringCfg 8 v)
/-- EVENT_RING_ENABLE: EVR_CFG_e is written with EN = 1 (R450). -/
def execEventRingEnable (e : Fin 9) (v : W32) (s : State) : Out :=
  .next (if v.getLsbD 0 then s.hostWrite 0 (Reg.evrCfg e) 4 (BitVec.ofNat 64 v.toNat) else s)

/-- SLOT_TABLE_SWAP: at the period boundary every controller and the DA schedule swap their copies, and the new inactive copy
starts as a copy of the new active one (R297). (DEDUCED, log entry 44.) -/
def execSlotTableSwap (s : State) : Out :=
  .next (
    if s.flag Reg.slotCtl 1 = false then s
    else
      let new := 1 - s.slotCopy
      let active := s.slots.filter (fun e => e.1 / 1024 == new)
      let s := (s.setFld Reg.slotCtl 1 1 0).setFld Reg.slotCtl 2 2 new
      { s with slots := active ++ active.map (fun (k, t) => (1024 * (1 - new) + k % 1024, t)) })

/-- The device time of the swap of the switch tables: the first multiple of 180,224 ns at least 1 µs after the request
(R379). -/
def State.swapTime (s : State) : Nat := ceilDiv (s.swAt + 1000) 180224 * 180224

/-- SWITCH_TABLE_SWAP: device time has reached the swap of the switch tables; a send half whose path the new tables no longer
hold valid fails over (R393). (DEDUCED, log entry 44.) -/
def execSwitchTableSwap (now : W64) (s : State) : Out :=
  .next (
    let s := s.at_ now
    if s.flag Reg.swCtl 1 = true ∧ s.swapTime ≤ now.toNat then
      ((s.setFld Reg.swCtl 1 1 0).setFld Reg.swCtl 2 2 (1 - s.swCopy)).failDown
    else s)

/-- The first mismatching record of a self-test: the lowest record index. -/
def firstFail : List TestFail → Option TestFail
  | [] => none
  | f :: t => match firstFail t with
    | none => some f
    | some g => some (if g.record.toNat < f.record.toNat then g else f)

/-- The mismatches of a self-test: their records, whose detail is the vector record's index and operation code, NPST_FAIL,
NPST_FIRST and FAIL, and the engines made suspect (R103, R524). (DEDUCED, log entry 45, DESIGN CHOICE, log entry 106.) -/
def State.testFails (s : State) (fails : List TestFail) : State :=
  let s := fails.foldl (fun s f => s.sendRec f.p
    { cls := 0x15, phys := some f.p.val, le := s.leOf f.p, detail := leBytes 4 f.record.toNat ++ leBytes 4 f.op.toNat }) s
  let ps := (List.range 52).filter (fun p => fails.any (fun f => f.p.val == p))
  let s := s.setReg Reg.npstFail (BitVec.ofNat 64 (ps.foldl (fun m p => m + 2 ^ p) 0))
  let s := s.setReg Reg.npstFirst (match firstFail fails with
    | some f => BitVec.ofNat 64 (f.record.toNat + f.p.val * 2 ^ 24 + f.op.toNat * 2 ^ 32)
    | none => 0)
  let s := s.setFld Reg.npstStat 2 2 (fails != []).toNat
  ps.foldl (fun s p => s.makeSuspect p) s

/-- SELF_TEST_END: the self-test ends, by completion or by the abort that was asked for (R103, R104); a staged library may be
installed (R469). (DEDUCED, log entry 45.) -/
def execSelfTestEnd (aborted : Bool) (fails : List TestFail) (s : State) : Out :=
  .next (
    if s.flag Reg.npstStat 0 = false ∨ (aborted = true ∧ s.npstAbort = false) then s
    else
      let s := (s.setFld Reg.npstStat 1 0 2).setFld Reg.npstStat 3 3 aborted.toNat
      ({ s with npstAbort := false }.testFails (fails.filter (fun f => s.npstEng.getLsbD f.p))).installLib)

/-- An engine after its reset: its memories, units and contexts are clear and its window is at its reset values (R555); a
retired one's window still shows what it was (R596). -/
def State.clearEngine (s : State) (p : Nat) : State :=
  { s with eng := (match (s.engine p).kept with | some k => s.eng.set p { kept := some k } | none => s.eng.del p)
           regs := s.regs.filter (fun e => windowOf e.1 != some p) }

/-- ENGSET_RESET_COMPLETE: the contexts of the set have been unloaded with their completions DISCARDED, the engines are
tested and zeroed, and the partitions' resets are counted (R555, R556). -/
def execEngsetResetComplete (failed : BitVec 52) (s : State) : Out :=
  .next (
    if s.flag Reg.engsetRst 53 = false then s
    else
      let ps := (List.range 52).filter (fun p => s.engSet.getLsbD p)
      let s := ps.foldl (fun s p => (List.range 4).foldl (fun s c =>
        if (s.ctx p c).resident then
          let q := (s.ctx p c).part
          let reset := (s.ctx p c).going && (match (s.partx q).clearing with
            | some .reset | some (.unsealReset _) => true
            | _ => false)
          (s.stopCtx p c).freeCtx p c (if reset then 3 else 2)
        else s) s) s
      let s := ps.foldl (fun s p => s.clearEngine p) s
      let s := s.engParts.foldl (fun s q => s.modPartx q (fun x => { x with resets := x.resets + 1 })) s
      let bad := ps.filter (fun p => failed.getLsbD p)
      let s := { ((s.setFld Reg.engsetRst 53 53 0).setFld Reg.engsetRst 54 54 (bad != []).toNat) with engParts := [], engSet := 0 }
      bad.foldl (fun s p => s.makeSuspect p) s)

end Sys2Proof.Machine
end

