-- ==== Sys2Proof/Machine/Rings.lean ====
section
/-!
DEFINITION. The host rings (chapter 14): doorbells, descriptor fetch and start, the ring commands, completions and their
interrupts. What a command reads from host memory comes with its row; what it writes there goes out as a message.
-/

namespace Sys2Proof.Machine

/-! ## What rings read from and write to the host -/

/-- What a ring's read of the host from an address on returns: the bytes, or the address of the request that failed. For a sealed
partition a completion outside its function's IDE stream fails (R446, R482). -/
def State.hostGot (s : State) (r addr : Nat) : HostRead → Nat ⊕ Bytes
  | .failed k => .inl (addr + k)
  | .got bs ide => if !ide && (match s.ringPart r with | some q => s.sealedPart q | none => false) then .inl addr else .inr bs

/-- The function on whose IDE stream a ring's writes travel (R482). -/
def State.ringIde (s : State) (r : Nat) : Option Nat := (s.ringPart r).bind s.ideOf

/-! ## Doorbells (R428, R433, R435, R598) -/

/-- A host range lies in a window of the ring's partition that grants the direction (R430); the internal ring reads what the module
keeps of its payloads (R571). (DESIGN CHOICE, log entry 140.) -/
def State.ringWindow (s : State) (r : Nat) (write : Bool) (addr len : Nat) : Bool :=
  r == intRing || match s.ringPart r with
  | some q => s.inWindow (some q) write addr len
  | none => false

/-- A ring error (R435): ERR sets, nothing more is fetched, and the ring's partition is told. The occasions: 1 a doorbell value,
2 a completion doorbell, 3 a failed fetch, 4 a failed completion write; their codes are free values. (DEDUCED, log entry 46.) -/
def State.ringError (s : State) (r cause : Nat) : State :=
  let s := s.modRing r (fun g => { g with err := true, stop := true })
  match s.ringPart r with
  | some q => s.event q 0x0007 (leBytes 4 r ++ leBytes 4 (Config.openDetail (0x0700 + cause)).toNat)
  | none => s

/-- The ring that a doorbell page of a function stands for: PF0's page of a ring whose partition has an enabled VF is
closed (R427, R428, R598). -/
def State.doorbellRing (s : State) (f page : Nat) : Option Nat :=
  if 4096 ≤ page ∨ s.boot.hostDown = true then none
  else if f = 0 then
    match s.ringPart page with
    | some q => if (s.partx q).vf then none else some page
    | none => some page
  else if s.partOn (f - 1) && (s.partx (f - 1)).vf && decide (page < s.fld (Reg.partRing (f - 1)) 24 12) then
    some (s.fld (Reg.partRing (f - 1)) 11 0 + page)
  else none

/-- Descriptors of a ring: 2^LOG2N. -/
def Ring.size (g : Ring) : Nat := 2 ^ bits g.cfg.toNat 7 3
/-- RING_CFG.EN. -/
def Ring.on (g : Ring) : Bool := g.cfg.getLsbD 0

/-- Entries that a consumed head h consumes, of n, with `have_` written and not consumed and the next one written at `next`:
none when h would consume one not yet written. A head that has not moved consumes all of a full ring. -/
def consumed (n next have_ h : Nat) : Option Nat :=
  let k := (h + 2 * n - (next + n - have_) % n) % n
  let k := if k = 0 ∧ have_ = n then n else k
  if k ≤ have_ then some k else none

/-- SUBMISSION_DOORBELL: TAIL becomes t (R433). A write that is not an aligned 32-bit one, as `word` says, is ignored (R598).
(DEDUCED, log entry 93.) -/
def execSubmissionDoorbell (f : Func) (page : BitVec 13) (word : Bool) (t : W32) (s : State) : Out :=
  .next (match (if word then s.doorbellRing f.val page.toNat else none) with
    | none => s
    | some r =>
      let g := s.ring r
      if g.on = false then s
      else if g.size ≤ t.toNat then s.ringError r 1
      else s.modRing r (fun g => { g with tail := t.toNat }))

/-- COMPLETION_DOORBELL: completion entries up to h − 1 are consumed (R433, R598). (DEDUCED, log entry 47.) -/
def execCompletionDoorbell (f : Func) (page : BitVec 13) (word : Bool) (h : W32) (s : State) : Out :=
  .next (match (if word then s.doorbellRing f.val page.toNat else none) with
    | none => s
    | some r =>
      let g := s.ring r
      if g.on = false then s
      else if g.size ≤ h.toNat then s.ringError r 1
      else match consumed g.size g.cqtail g.unread h.toNat with
        | none => s.ringError r 2
        | some k => s.modRing r (fun g => { g with unread := g.unread - k }))

/-- The event ring of a doorbell page. -/
def State.doorbellEvent (s : State) (f page : Nat) : Option Nat :=
  if page < 4096 ∨ 4104 < page ∨ s.boot.hostDown = true then none
  else if f = 0 then (if page < 4104 && (s.partx (page - 4096)).vf then none else some (page - 4096))
  else if page = 4096 && (s.partx (f - 1)).vf then some (f - 1) else none

/-- EVENT_RING_DOORBELL: event entries up to h − 1 are consumed (R433, R598); a head that is no entry's is ignored. (DEDUCED,
log entry 47.) -/
def execEventRingDoorbell (f : Func) (page : BitVec 13) (word : Bool) (h : W32) (s : State) : Out :=
  .next (match (if word then s.doorbellEvent f.val page.toNat else none) with
    | none => s
    | some e =>
      let n := 2 ^ s.fld (Reg.evrCfg e) 5 1
      let x : EvRing := Tab.get {} s.ev e
      if s.flag (Reg.evrCfg e) 0 = false ∨ n ≤ h.toNat then s
      else match consumed n (s.fld (Reg.evrStat e) 15 0) x.used h.toNat with
        | none => s
        | some k => { s with ev := s.ev.set e { x with used := x.used - k } })

/-! ## Fetch and start (R434 to R437) -/

/-- The host's bytes as n bytes. -/
def fitBytes (n : Nat) (bs : Bytes) : Bytes := (bs ++ List.replicate (n - bs.length) 0).take n

/-- The commands that the sequencers submit on the internal ring: SETUP, SLOT_LOAD, SWTAB_LOAD, TILTH_LOAD and EPOCH_LOAD (R571). -/
def internalOps : List Nat := [0x07, 0x08, 0x09, 0x0A, 0x0D]

/-- DESCRIPTOR_FETCH: descriptor HEAD is fetched while HEAD ≠ TAIL and the ring has room; a failed read is a ring error (R434,
R435, R482). On the internal ring the sequencers submit it (R571). -/
def execDescriptorFetch (r : RingId) (d : HostRead) (s : State) : Out :=
  .next (
    let r := r.toNat
    let g := s.ring r
    if g.on = false ∨ g.stop = true ∨ (r ≠ intRing ∧ g.head = g.tail) ∨ g.size ≤ g.fetched.length + g.unread then s
    else match s.hostGot r (g.sqb.toNat + 64 * g.head) d with
      | .inl _ => s.ringError r 3
      | .inr bs =>
        let d : Desc := { idx := g.head, raw := fitBytes 64 bs, seq := s.fresh }
        if r = intRing ∧ dfld d.raw 0 2 ∉ internalOps then s
        else if s.ringWindow r false (g.sqb.toNat + 64 * g.head) 64 then
          { s with fresh := s.fresh + 1 }.modRing r (fun g => { g with
            head := (g.head + 1) % g.size
            fetched := g.fetched ++ [d] })
        else s.ringError r 3)

/-- OPCODE of a descriptor. -/
def Desc.op (d : Desc) : Nat := dfld d.raw 0 2

/-- The bits that a command's format gives, as (highest, lowest) of the descriptor's 512 (R436, R439); every other bit is 0. -/
def formatBits (op : Nat) : List (Nat × Nat) :=
  [(15, 0), (16, 16), (63, 32)] ++ (match op with
    | 0x02 => [(127, 64), (191, 128), (255, 192), (256, 256)]
    | 0x03 => [(71, 64), (72, 72), (95, 80)]
    | 0x04 => [(71, 64), (191, 128), (223, 192)]
    | 0x05 => [(71, 64), (77, 72), (87, 80), (91, 88), (107, 96), (124, 112), (191, 128), (255, 192), (319, 256)]
    | 0x06 => [(71, 64)]
    | 0x07 => [(89, 64), (96, 96), (191, 128)]
    | 0x08 => [(73, 64), (191, 128), (207, 192)]
    | 0x09 => [(71, 64), (76, 72), (127, 96), (191, 128), (223, 192)]
    | 0x0A => [(83, 64), (97, 96), (249, 128), (380, 256)]
    | 0x0B => [(127, 64), (191, 128), (447, 192)]
    | 0x0C => [(75, 64), (82, 80)]
    | 0x0D => [(65, 64), (79, 72), (191, 128), (255, 192), (287, 256), (319, 288), (383, 320)]
    | 0x0E => [(65, 64)]
    | 0x0F => [(68, 64), (95, 80), (191, 128)]
    | 0x10 => [(191, 128), (207, 192)]
    | _ => [])

/-- The byte of the lowest nonzero bit that a format marks 0. -/
def badByte (d : Desc) : Option Nat :=
  let x := leNat d.raw
  ((List.range 512).find? (fun i => bit x i && (formatBits d.op).all (fun (hi, lo) => !(decide (lo ≤ i) && decide (i ≤ hi))))).map (· / 8)

/-- What the header of a descriptor makes it complete with at once: its status and detail (R436, R446). (DEDUCED, log
entry 48.) -/
def Ring.headerFails (g : Ring) (d : Desc) : Option (Nat × Nat) :=
  if d.op = 0 ∨ 0x10 < d.op then some (0x01, 0)
  else match badByte d with
    | some b => some (0x01, b)
    | none =>
      if (decide (7 ≤ d.op) && decide (d.op ≤ 9) && !g.cfg.getLsbD 1) || (decide (0x0F ≤ d.op) && !g.cfg.getLsbD 2) then some (0x11, 0)
      else none

/-- The next descriptor of a ring to start, when it may: COPY, STREAM and the frame commands without FENCE beside what runs,
unless a TOKEN waits for its queue; every other command once all before it have completed (R437, R441). (DEDUCED, log
entry 56.) -/
def Ring.startable (g : Ring) : Option Desc :=
  let before := g.fetched.takeWhile (·.started)
  match g.fetched.drop before.length with
  | [] => none
  | d :: _ =>
    let beside := (d.op == 0x02 || d.op == 0x04 || d.op == 0x0F || d.op == 0x10) && !bit (dfld d.raw 2 1) 0
    if (beside && before.all (fun e => e.op != 0x03 || e.ran || e.status.isSome)) || before.all (fun e => e.status.isSome) then some d
    else none

/-- A descriptor of a ring changed, by its ring index. -/
def State.modDesc (s : State) (r idx : Nat) (f : Desc → Desc) : State :=
  s.modRing r (fun g => { g with fetched := g.fetched.map (fun d => if d.idx = idx then f d else d) })

/-- A descriptor has run and completes with a status and a detail. -/
def State.finish (s : State) (r : Nat) (d : Desc) (status detail : Nat) : State :=
  (s.modDesc r d.idx (fun d => { d with ran := true })).complete r d.idx status (BitVec.ofNat 64 detail)

/-- DESCRIPTOR_START: the next descriptor starts; one whose header fails completes at once and does nothing. (DEDUCED, log
entry 48.) -/
def execDescriptorStart (r : RingId) (s : State) : Out :=
  .next (
    let r := r.toNat
    let g := s.ring r
    match g.startable with
    | none => s
    | some d =>
      let s := s.modDesc r d.idx (fun d => { d with started := true })
      match g.headerFails d with
      | none => s
      | some (status, detail) => s.finish r d status detail)

/-- The first started descriptor of a ring that carries an opcode and has not run. -/
def State.cmd (s : State) (r op : Nat) : Option Desc :=
  (s.ring r).fetched.find? (fun d => d.started && !d.ran && d.status.isNone && d.op == op)

/-- A ring command: run on its descriptor, when one is due. -/
def State.onCmd (s : State) (r op : Nat) (f : Desc → State) : State :=
  match s.cmd r op with
  | none => s
  | some d => f d

/-- The resident context of the ring's partition that byte 8 of a descriptor names: engine and place (R438, R441). -/
def State.target (s : State) (r b : Nat) : Option (Nat × Nat) :=
  match s.ringPart r, s.physOf (b % 64) with
  | some q, some p => if (s.ctx p (b / 64 % 4)).resident && (s.ctx p (b / 64 % 4)).part == q then some (p, b / 64 % 4) else none
  | _, _ => none

/-- The detail of BOUND for a command that names a context: its Sand address. -/
def State.targetAddr (s : State) (b : Nat) : Nat := s.ctxAddr (b % 64) (b / 64 % 4)

/-! ## NOP, COPY, TOKEN and STREAM -/

/-- NOP (R439). -/
def execNop (r : RingId) (s : State) : Out := .next (s.onCmd r.toNat 0x01 (fun d => s.finish r.toNat d 0 0))

/-- A byte range of a tier, cut where a Shale granule ends. -/
def granuleParts : Nat → Nat → Nat → List (Nat × Nat)
  | 0, _, _ => []
  | k + 1, off, n =>
    let m := min n (2 ^ 32 - off % 2 ^ 32)
    if n = 0 then [] else (off, m) :: granuleParts k (off + m) (n - m)

/-- The parts of a range, as one for each Shale granule. -/
def tierParts (tier off n : Nat) : List (Nat × Nat) := if tier = 4 then granuleParts 260 off n else [(off, n)]

/-- A range of a tier read. -/
def State.rangeRead (s : State) (tier off n : Nat) : Bytes := (tierParts tier off n).flatMap (fun (o, k) => s.tierBytes tier o k)

/-- A range of a tier written. -/
def State.rangeStore (s : State) (tier off : Nat) (bs : Bytes) : State :=
  (tierParts tier off bs.length).foldl (fun s (o, k) => s.tierStore tier o ((bs.drop (o - off)).take k)) s

/-- The first byte, from an offset, that a held range of a resident context covers (R440): for Sand and Silt of that context,
for the other tiers of any. -/
def State.heldByte (s : State) (tier off n : Nat) : Option Nat :=
  let base := if tier < 2 then gaLocal off else off
  let lists := if tier < 2 then
      (match s.physOf (gaLe off) with | some p => [(s.ctx p (gaCtx off)).hranges] | none => [])
    else (List.range 52).flatMap (fun p => (List.range 4).filterMap (fun c =>
      if (s.ctx p c).resident then some (s.ctx p c).hranges else none))
  let hits := (lists.flatMap id).filter (fun h => h.tier == tier && overlaps h.base h.len base n)
  match hits.map (fun h => max h.base base) with
  | [] => none
  | x :: xs => some (xs.foldl min x - base)

/-- The first check that a COPY fails: its status and detail (R430, R438 to R440). -/
def State.copyFails (s : State) (r : Nat) (d : Desc) : Option (Nat × Nat) :=
  let haddr := dfld d.raw 8 8
  let ga := dfld d.raw 16 8
  let n := dfld d.raw 24 8
  let up := bit (dfld d.raw 32 1) 0
  let tier := gaTier ga
  if tier = 5 then some (0x01, 16)
  else if n = 0 ∨ 2 ^ 40 < n then some (0x01, 24)
  else if s.ringWindow r up haddr n = false then some (0x02, haddr)
  else match s.ringPart r with
    | none => some (0x04, ga)
    | some q =>
      if (s.gaBad q ga).isSome || !s.gaRangeOk q tier (gaOff ga) n then some (0x04, ga)
      else if up then none
      else if (tier = 2 ∨ tier = 3) ∧ s.writerSlots q 61 tier = false then some (0x03, 7)
      else match s.heldByte tier (gaOff ga) n with
        | some k => some (0x05, ga + k)
        | none => none

/-- A read of a tier for a COPY meets an error (R308): a corrected one counts; an uncorrectable one counts, sends its record,
and the command completes with BOUND, which names the sector, and moves nothing. (DESIGN CHOICE, log entry 123.) -/
def State.hostRead (s : State) (r : Nat) (d : Desc) (tier off n : Nat) (err : ReadErr) (eff : State → State) : State :=
  match err with
  | .ok => eff s
  | .corrected => eff (s.bumpOpt (s.tierCounter (s.backing tier off).1 (s.backing tier off).2 false))
  | .linkCrc _ => (s.sendRec blkMem { cls := 0x0D, part := s.ringPart r }).finish r d 0x04 (s.ownId * 2 ^ 47 + tier * 2 ^ 44 + off)
  | .uncorrectable k _ =>
    let a := sectorAt tier off n k
    let (bt, ba) := s.backing tier a
    let cls := match bt with | 2 => 0x0A | 3 => 0x0B | 4 => 0x0C | _ => 0x08
    ((s.bumpOpt (s.tierCounter bt ba true)).sendRec blkMem { cls := cls, part := s.ringPart r, detail := s.sectorDetail bt ba }).finish
      r d 0x04 (s.ownId * 2 ^ 47 + tier * 2 ^ 44 + a)

/-- COPY: bytes move unchanged between host memory and a tier (R440); `data` is what the host read returned, and `err` what the
read of the tier meets, of the bytes themselves or of the sectors that a landing covers in part (R293). (DEDUCED, log entry 49,
DEDUCED, log entry 50.) -/
def execCopy (r : RingId) (data : HostRead) (err : ReadErr) (s : State) : Out :=
  .next (s.onCmd r.toNat 0x02 (fun d =>
    let haddr := dfld d.raw 8 8
    let ga := dfld d.raw 16 8
    let n := dfld d.raw 24 8
    match s.copyFails r.toNat d with
    | some (status, detail) => s.finish r.toNat d status detail
    | none =>
      let t := gaTier ga
      let o := gaOff ga
      if bit (dfld d.raw 32 1) 0 then s.hostRead r.toNat d t o n err (fun s =>
        (s.emit (.hostWrite (BitVec.ofNat 64 haddr) (s.rangeRead t o n) (s.ringIde r.toNat))).finish r.toNat d 0 0)
      else match s.hostGot r.toNat haddr data with
        | .inl a => s.finish r.toNat d 0x12 a
        | .inr bs =>
          let merges := (t == 2 || t == 3) && partSector (t == 2) o n
          s.hostRead r.toNat d t o n (if merges then err else .ok) (fun s =>
            (s.rangeStore t o (fitBytes n bs)).finish r.toNat d 0 0)))

/-- The HOST queue of a context takes a token at once (R184, R441). -/
def Ctx.hostRoom (x : Ctx) : Bool := decide ((x.tokens 4).length < 32) && (Tab.get [] x.heldTok 4 == [])

/-- A HOST token of ring r enters its queue with what it carries. -/
def State.hostToken (s : State) (r p c : Nat) (t : Tok) (tag : HostTag) : State :=
  (s.modCtx p c (fun x => { x with hostTags := x.hostTags ++ [tag] })).deliver p c (.ring r) t

/-- TOKEN: the token enters the target's HOST queue; a full queue holds it. With ACKSEG the completion waits for the commit
of the segment that pops it, and a context that has halted discards it (R441, R447). (DEDUCED, log entry 50.) -/
def execToken (r : RingId) (s : State) : Out :=
  .next (s.onCmd r.toNat 0x03 (fun d =>
    let b := dfld d.raw 8 1
    let t : Tok := BitVec.ofNat 16 (dfld d.raw 10 2)
    if tokClass t ≠ 4 then s.finish r.toNat d 0x01 10
    else match s.target r.toNat b with
      | none => s.finish r.toNat d 0x04 (s.targetAddr b)
      | some (p, c) =>
        if (s.ctx p c).hostRoom = false then s
        else if bit (dfld d.raw 9 1) 0 = false then (s.hostToken r.toNat p c t .plain).finish r.toNat d 0 0
        else if (s.ctx p c).st = .halted then (s.hostToken r.toNat p c t .plain).finish r.toNat d 0x0F 1
        else (s.hostToken r.toNat p c t (.ack r.toNat d.idx)).modDesc r.toNat d.idx (fun d => { d with ran := true })))

/-- STREAM: the bytes go to the target's instruction queue of 64 words as its next stream, and follow as it empties (R193, R195).
(DEDUCED, log entry 50.) -/
def execStream (r : RingId) (data : HostRead) (s : State) : Out :=
  .next (s.onCmd r.toNat 0x04 (fun d =>
    let b := dfld d.raw 8 1
    let haddr := dfld d.raw 16 8
    let n := dfld d.raw 24 4
    if n % 8 ≠ 0 ∨ n < 24 ∨ 65552 < n then s.finish r.toNat d 0x01 24
    else if s.ringWindow r.toNat false haddr n = false then s.finish r.toNat d 0x02 haddr
    else match s.target r.toNat b with
      | none => s.finish r.toNat d 0x04 (s.targetAddr b)
      | some (p, c) =>
        if s.flag (Reg.imemShare p c) 9 then s.finish r.toNat d 0x06 0
        else match s.hostGot r.toNat haddr data with
          | .inl a => s.finish r.toNat d 0x12 a
          | .inr bs =>
            if (s.ctx p c).ringStream.isSome || (s.ctx p c).stream.isSome then s
            else (s.modCtx p c (fun x => { x with
              ringStream := some ⟨r.toNat, d.idx, n, (fitBytes n bs).drop 512⟩, iq := (fitBytes n bs).take 512 })).modDesc r.toNat d.idx
              (fun d => { d with ran := true })))

/-! ## CTX_LOAD (R257 to R267, R409, R442, R480, R483) -/

/-- A section of an image (R259). -/
structure Sect where
  typ : Nat
  flags : Nat
  off : Nat
  len : Nat
  target : Nat
  rest : Nat
  deriving DecidableEq, Repr

/-- The section table of an image (R258, R259). -/
def xliSects (f : Bytes) : List Sect :=
  let t := f.drop (dfld f 28 4)
  (List.range (min 4096 (dfld f 24 4))).map (fun i =>
    { typ := dfld t (32 * i) 2, flags := dfld t (32 * i + 2) 2, off := dfld t (32 * i + 4) 8, len := dfld t (32 * i + 12) 8
      target := dfld t (32 * i + 20) 8, rest := dfld t (32 * i + 28) 4 })

/-- The bytes of a section. -/
def Sect.data (x : Sect) (f : Bytes) : Bytes := (f.drop x.off).take x.len

/-- Check 0x01: MAGIC, HDR_BYTES, IMAGE_BYTES, the trailer and the header bytes marked 0 (R257, R258, R266). (DEDUCED, log
entry 51.) -/
def xliFileOk (f : Bytes) (n : Nat) : Bool :=
  decide (304 ≤ n) && f.length == n && dfld f 0 4 == 0x31494C58 && dfld f 4 2 == 256 && dfld f 32 8 == n &&
  dfld f 53 3 == 0 && (f.drop 84).take 172 == List.replicate 172 0 && dfld f 8 8 / 2 ^ 35 == 0 && dfld f 60 4 / 2 ^ 18 == 0 &&
  f.drop (n - 48) == digestBytes (Config.sha384 (f.take (n - 48)))

/-- The NUMPROF fields in the order of their table. (DESIGN CHOICE, log entry 98.) -/
def npFields : List (Nat × Nat) := [(7, 0), (11, 8), (15, 12), (23, 16), (31, 24), (33, 32), (34, 34)]

/-- Check 0x03: the place of the first NUMPROF field that the image and the module differ in (R46). (DESIGN CHOICE, log
entry 98.) -/
def npDiffers (want have_ : Nat) : Option Nat :=
  (List.range 7).find? (fun i => match npFields.getD i (0, 0) with | (hi, lo) => bits want hi lo != bits have_ hi lo)

/-- Check 0x07: the shares of the header are ones the engine has, at the descriptor's bases (R143, R190, R229, R258,
R281). A field out of its range that none of the module's checks names refuses nothing. (DESIGN CHOICE, log entry 134.) -/
def xliFits (f d : Bytes) : Bool :=
  let v := dfld f 48 1
  let ok := fun (base n top : Nat) => decide (base + n ≤ top)
  let one := fun (n : Nat) => decide (1 ≤ n) && decide (n ≤ 16)
  decide (8 ≤ v) && v % 8 == 0 && dfld d 9 1 % 64 % 8 == 0 && ok (dfld d 9 1 % 64) v 64 &&
  one (dfld f 49 1) && ok (dfld d 10 1 % 16) (dfld f 49 1) 16 &&
  one (dfld f 50 1) && ok (dfld d 10 1 / 16) (dfld f 50 1) 16 &&
  one (dfld f 51 1) && ok (dfld d 11 1 % 16) (dfld f 51 1) 16 &&
  dfld f 40 4 % 4096 == 0 && ok (dfld d 12 2 % 4096) (dfld f 40 4 / 4096) 3072 &&
  dfld f 44 4 % 3072 == 0 && ok (dfld d 14 2 % 8192) (dfld f 44 4 / 3072) 4096

/-- A word of a byte string. -/
def wordAt (bs : Bytes) (i : Nat) : W64 := BitVec.ofNat 64 (leNat ((bs.drop i).take 8))

/-- What a load copies lies in the file and goes to its share: the control-core and Sand sections, and the binding block (R259,
R442). (DESIGN CHOICE, log entry 134.) -/
def copyOk (f : Bytes) : Bool :=
  let fits := fun (x : Sect) (share : Nat) => decide (x.off + x.len ≤ f.length - 48) && decide (x.target + x.len ≤ share)
  (xliSects f).all (fun x => match x.typ with
    | 2 => fits x (2048 * dfld f 51 1)
    | 3 => fits x (4096 * dfld f 50 1)
    | 4 => fits x (dfld f 40 4)
    | _ => true) && decide (dfld f 56 4 + 64 ≤ dfld f 40 4)

/-- Check 0x06 for a sealed partition: its signature section names the tenant's image key and verifies (R483). -/
def State.xliSigned (s : State) (q : Nat) (f : Bytes) : Bool :=
  match (xliSects f).filter (fun x => x.typ == 0x0008) with
  | [x] =>
    let b := x.data f
    let msg := f.take x.off ++ (f.drop (x.off + x.len)).take (f.length - 48 - (x.off + x.len))
    dfld b 0 1 == s.fld (Reg.sealStat q) 2 2 && (b.drop 1).take 7 == List.replicate 7 0 &&
      (b.drop 8).take 48 == digestBytes (s.partx q).imgKey &&
      Config.verify (dfld b 0 1) (s.partx q).imgKey (Config.sha384 msg) (b.drop 56)
  | _ => false

/-- The R266 code that a load's file fails with first, of those that the module applies, and the NUMPROF field for code 0x03 (R442,
R483). -/
def State.imageFails (s : State) (q : Nat) (f d : Bytes) (n : Nat) : Option Nat :=
  if xliFileOk f n = false then some 0x01
  else if dfld f 6 1 ≠ 1 then some 0x02
  else match npDiffers (dfld f 8 8) (match regAt Reg.numprof with | some r => s.readReg r | none => 0) with
    | some i => some (0x03 + Config.npField i % 256 * 256)
    | none =>
      if (dfld f 7 1 ≠ 1 ∧ dfld f 7 1 ≠ 2) ∨ (dfld f 7 1 = 2 ∧ s.fuse.steppingC0 = false) then some 0x04
      else if s.sealedPart q && !s.xliSigned q f then some 0x06
      else if xliFits f d = false then some 0x07
      else none

/-- The refusal cases of R409 that need no header: partition, engine, place, single. (DEDUCED, log entry 51.) -/
def State.loadCase (s : State) (r b : Nat) : Option Nat :=
  match s.ringPart r with
  | none => some 1
  | some q =>
    if s.resetting q then some 1
    else match s.physOf (b % 64) with
      | none => some 2
      | some p =>
        if (s.reg (Reg.partEng q)).getLsbD (b % 64) = false then some 2
        else if (s.ctx p (b / 64 % 4)).resident then some 3
        else if s.slicing = false ∧ (List.range 4).any (fun c => (s.ctx p c).resident) = true then some 5
        else none

/-- The share registers written from the header and the descriptor's bases (R267, R442). -/
def State.loadShares (s : State) (p c : Nat) (f d : Bytes) : State :=
  let w := fun (x : Nat) => BitVec.ofNat 64 x
  let s := s.setReg (Reg.vregShare p c) (w (dfld d 9 1 % 64 + dfld f 48 1 * 2 ^ 8))
  let s := s.setReg (Reg.imemShare p c)
    (w (dfld d 10 1 % 16 + dfld f 49 1 * 2 ^ 4 + dfld f 52 1 % 2 * 2 ^ 9 + (dfld f 7 1 - 1) * 2 ^ 10))
  let s := s.setReg (Reg.ccShare p c)
    (w (dfld d 10 1 / 16 + dfld f 50 1 * 2 ^ 4 + dfld d 11 1 % 16 * 2 ^ 9 + dfld f 51 1 * 2 ^ 13))
  let s := s.setReg (Reg.sandShare p c) (w (dfld d 12 2 % 4096 + dfld f 40 4 / 4096 * 2 ^ 12))
  let s := s.setReg (Reg.siltShare p c) (w (dfld d 14 2 % 8192 + dfld f 44 4 / 3072 * 2 ^ 13))
  s.setReg (Reg.tokwd p c) (w (dfld f 72 2 + dfld f 74 2 * 2 ^ 16))

/-- A share of the context overlaps that of another resident context (R409, case 4). -/
def State.sharesMeet (s : State) (p c : Nat) : Bool :=
  let meets := fun (share : Nat → Nat → Nat × Nat) => s.shareMeets p c share (share p c).1 (share p c).2
  meets s.vregShare || meets s.imemShare || meets s.ccDShare || meets s.ccIShare || meets s.sandShare || meets s.siltShare

/-- The keys of the owner table for the units of a context's shares (R480). -/
def State.shareUnits (s : State) (p c : Nat) : List Nat :=
  let of := fun (key : Nat → Nat) (unit : Nat) (x : Nat × Nat) => (List.range (x.2 / unit)).map (fun i => key (x.1 / unit + i))
  of ownSand 4096 (s.sandShare p c) ++ of ownSilt 1 (s.siltShare p c) ++ of ownVreg 8 (s.vregShare p c) ++
  of ownImem 512 (s.imemShare p c) ++ of ownCcD 4096 (s.ccDShare p c) ++ of ownCcI 2048 (s.ccIShare p c)

/-- The units of the new shares: those whose last owner is another partition are zeroed, and all are partition q's (R480). -/
def State.claimUnits (s : State) (p c q : Nat) : State :=
  s.modEngine p (fun e => (s.shareUnits p c).foldl (fun e k =>
    let e := if (match e.owners.find? (fun o => o.1 == k) with | some o => o.2 != q | none => false) then e.zeroUnit k else e
    { e with owners := e.owners.set k q }) e)

/-- The stream of code block 0. -/
def xliBlock0 (f : Bytes) : Bytes :=
  match (xliSects f).find? (fun x => x.typ == 1 && x.target == 0) with
  | some x => x.data f
  | none => []

/-- Code block 0 is a stream that makes copy A READY (R192 to R195). -/
def State.block0Ok (s : State) (p c : Nat) (bs : Bytes) : Option StreamIn :=
  let h := wordAt bs 0
  let count := wbits h 46 33
  let st : StreamIn :=
    { bankB := false, start := wbits h 32 20, count := count, iload := false, got := count
      crc := ((bs.drop 8).take (8 * count)).foldl (crcByte polyCrc32c) 0xFFFFFFFF }
  if wbits h 63 48 = 0xA5E1 ∧ wbits h 19 0 = 0 ∧ h.getLsbD 47 = false ∧
      s.sealFail p c st bs.length (wordAt bs (8 * (count + 1))) = 0 then some st else none

/-- The control-core and Sand sections, and the binding block at the start of the control core's data share and at BIND_SAND
(R263, R267). -/
def State.loadSects (s : State) (p c : Nat) (f bind : Bytes) : State :=
  let (di, dn) := s.ccDShare p c
  let s := s.modEngine p (fun e => { e with ccD := e.ccD.clear di dn })
  let s := (xliSects f).foldl (fun s x => match x.typ with
    | 2 => s.modEngine p (fun e => { e with ccI := e.ccI.store ((s.ccIShare p c).1 + x.target) (x.data f) })
    | 3 => s.modEngine p (fun e => { e with ccD := e.ccD.store (di + x.target) (x.data f) })
    | 4 => s.sandStore p c x.target (x.data f)
    | _ => s) s
  (s.modEngine p (fun e => { e with ccD := e.ccD.store di bind })).sandStore p c (dfld f 56 4) bind

/-- The context is READY, with copy A ACTIVE at the group that block-table entry 0 names and the held ranges of HELD0; a bad
entry or list is a program fault (R192, R271, R276). ARR_TSTAT_c and VEC_FLAGS_c stand as they are, and a replay of the first
segment restores them so (R237). -/
def State.startCtx (s : State) (p c q : Nat) (f : Bytes) : State :=
  let e := (s.imemWord p c 0).toNat
  let h0 := dfld f 60 4
  let held := if h0 = 0x3FFFF then .inr [] else s.heldList p c (64 * h0)
  let ok := decide (64 ≤ e) && decide (e < (s.imemShare p c).2)
  let cur : Rec := { pc := if ok then e else 0, arrfl := s.reg (Reg.arrTstat p c), vecfl := s.reg (Reg.vecFlags p c) }
  let s := s.setCtx p c { st := .ready, part := q, copyA := .active, cur := cur, saved := cur,
                          hranges := match held with | .inr l => l | .inl _ => [] }
  if ok = false then s.fault p c fMalformed 6 0
  else match held with
    | .inl code => s.fault p c code 6 0
    | .inr _ => s

/-- What a context load makes of the machine, or the status and detail it fails with (R442). (DEDUCED, log entry 51.) -/
def State.loadCtx (s : State) (r : Nat) (d : Desc) (f bind : Bytes) : State ⊕ Nat × Nat :=
  let b := dfld d.raw 8 1
  let c := b / 64 % 4
  match s.ringPart r, s.physOf (b % 64) with
  | some q, some p =>
    match s.imageFails q f d.raw (dfld d.raw 24 8) with
    | some code => .inr (0x10, code)
    | none =>
      let t := (s.setCtx p c {}).loadShares p c f d.raw
      if t.sharesMeet p c then .inr (0x03, 4)
      else if copyOk f = false then .inr (0x10, 0x05)
      else match t.block0Ok p c (xliBlock0 f) with
        | none => .inr (0x10, 0x05)
        | some st =>
          let t := (t.claimUnits p c q).loadSects p c f (fitBytes 64 bind)
          let t := t.loadWords p c false st.start (wordsOf (((xliBlock0 f).drop 8).take (8 * st.count)))
          .inl (t.startCtx p c q f)
  | _, _ => .inr (0x03, 1)

/-- CTX_LOAD: `file` and `bind` are what the host reads of the image and of the binding block returned. (DEDUCED, log
entry 51.) -/
def execCtxLoad (r : RingId) (file bind : HostRead) (s : State) : Out :=
  .next (s.onCmd r.toNat 0x05 (fun d =>
    let fa := dfld d.raw 16 8
    let fn := dfld d.raw 24 8
    let ba := dfld d.raw 32 8
    if s.ringPart r.toNat = none then s.finish r.toNat d 0x03 1
    else if 0 < fn ∧ s.ringWindow r.toNat false fa fn = false then s.finish r.toNat d 0x02 fa
    else if s.ringWindow r.toNat false ba 64 = false then s.finish r.toNat d 0x02 ba
    else if s.flag Reg.npstStat 0 then s.finish r.toNat d 0x0D 0
    else match s.loadCase r.toNat (dfld d.raw 8 1) with
      | some k => s.finish r.toNat d 0x03 k
      | none => match s.hostGot r.toNat fa file, s.hostGot r.toNat ba bind with
        | .inl a, _ => s.finish r.toNat d 0x12 a
        | _, .inl a => s.finish r.toNat d 0x12 a
        | .inr f, .inr b => match s.loadCtx r.toNat d f b with
          | .inr (status, detail) => s.finish r.toNat d status detail
          | .inl t => t.finish r.toNat d 0 0))

/-- CTX_UNLOAD: the context stops, and once what it had begun is done its place is freed (R411). (DEDUCED, log entry 52.) -/
def execCtxUnload (r : RingId) (s : State) : Out :=
  .next (s.onCmd r.toNat 0x06 (fun d =>
    let b := dfld d.raw 8 1
    match s.ringPart r.toNat, s.physOf (b % 64) with
    | none, _ => s.finish r.toNat d 0x03 1
    | some _, none => s.finish r.toNat d 0x03 2
    | some _, some _ => match s.target r.toNat b with
      | none => s.finish r.toNat d 0x03 3
      | some (p, c) =>
        let t := s.stopCtx p c
        if t.drainedCtx p c then (t.freeCtx p c 2).finish r.toNat d 0 0 else t))

/-! ## SETUP and the table loads -/

/-- SETUP: one BAR0 register is written under R21 (R443). (DEDUCED, log entry 41.) -/
def execSetup (r : RingId) (s : State) : Out :=
  .next (s.onCmd r.toNat 0x07 (fun d =>
    let w64 := bit (dfld d.raw 12 1) 0
    let v := dfld d.raw 16 8
    let (t, refused) := s.bar0Write (if r.toNat = intRing then .sequencer else .setup) (dfld d.raw 8 4) (if w64 then 8 else 4)
      (BitVec.ofNat 64 (if w64 then v else v % 2 ^ 32))
    t.finish r.toNat d (if refused then 0x03 else 0) (if refused then 6 else 0)))

/-- The die-to-die direction that a far Loam slot uses: out of the stack's die for a read, toward it for a write. -/
def farDie (chan : Nat) (w : W32) : Nat := if slWrite w then 1 - chan / 64 / 6 % 2 else chan / 64 / 6 % 2

/-- The users of the sub-lanes out of a die in one copy of the tables: group, first cc and length (R301). -/
def State.daUsers (s : State) (copy die : Nat) : List (Nat × Nat × Nat) :=
  (List.range 768).flatMap (fun ch => ((validSlots (s.slotTable copy ch)).filter (fun w => slFar w && farDie ch w == die)).map
    (fun w => (slSub w, slStart w, (slotSpan ch (slMode w)).1))) ++
  (validSlots (s.slotTable copy (chanDa die))).map (fun w => (slSub w, slStart w, 96))

/-- At most four users of a group, one for each of its sub-lanes, in every cc of a span (R301). -/
def subOk (users : List (Nat × Nat × Nat)) (g a n : Nat) : Bool :=
  let here := users.filter (fun (h, b, m) => h == g && overlaps a n b m)
  (here.map (fun (_, b, _) => max a b)).all (fun t =>
    decide ((here.filter (fun (_, b, m) => decide (b ≤ t) && decide (t < b + m))).length ≤ 4))

/-- A slot lies in the window of a partition that may own it (R298). -/
def State.slotOwned (s : State) (chan : Nat) (w : W32) : Bool :=
  (List.range 8).any (fun q => s.partOn q && s.inPartWin q chan w &&
    (decide (61 ≤ slLe w) || (s.reg (Reg.partEng q)).getLsbD (slLe w)))

/-- What the write slots of a P-die writer occupy of the DB table toward a die: the first cc, 48 before their data, and the
length (R296). -/
def State.dbUsers (s : State) (copy die : Nat) (le ctx : Nat) : List (Nat × Nat) :=
  ((List.range 768).filter (fun ch => ch / 64 / 6 % 2 == die)).flatMap (fun ch =>
    ((validSlots (s.slotTable copy ch)).filter (fun w => slLe w == le && slCtx w == ctx && slWrite w)).map
      (fun w => (slStart w - 48, (slotSpan ch (slMode w)).1)))

/-- The DB table toward a stack's die covers a P-die writer's slot, 48 cc ahead of its data: a run of its own covers it
whole, and in no cc do more of the writer's slots use the table than it has runs there (R296). -/
def State.dbCovers (s : State) (copy chan : Nat) (w : W32) : Bool :=
  let a := slStart w - 48
  let n := (slotSpan chan (slMode w)).1
  let die := chan / 64 / 6 % 2
  let runs := (validSlots (s.slotTable copy (835 + 2 * die))).filter (fun e => slLe e == slLe w && slCtx e == slCtx w)
  let users := s.dbUsers copy die (slLe w) (slCtx w)
  runs.any (fun e => decide (slStart e ≤ a) && decide (a + n ≤ slStart e + 96)) &&
  ((users.filter (fun (b, m) => overlaps a n b m)).map (fun (b, _) => max a b)).all (fun t =>
    decide ((users.filter (fun (b, m) => decide (b ≤ t) && decide (t < b + m))).length ≤
      (runs.filter (fun e => decide (slStart e ≤ t) && decide (t < slStart e + 96))).length))

/-- FAR and SUBLANE agree with the slot's engine and channel (R290, R296). -/
def State.slotFarOk (s : State) (chan : Nat) (w : W32) : Bool :=
  if chan < 768 ∧ slLe w < 48 then
    let far := match s.physOf (slLe w) with | some p => dieOf p != chan / 64 / 6 | none => false
    slFar w == far && (if far then decide (slSub w < 63) else slSub w == 0)
  else if chan < 832 then !slFar w && slSub w == 0
  else if chan < 834 then decide (slSub w < 63) && (decide (slLe w < 48) || (!slFar w && slSub w == 0))
  else !slFar w && (slSub w == 0 || decide (slLe w < 48) && decide (slSub w < 63))

/-- One entry of a new table, after what the entries before it occupy, breaks a rule of R295, R296 or R301; `s` holds the new
table in its inactive copy. -/
def State.slotBad (s : State) (copy chan from_ last : Nat) (w : W32) : Bool :=
  let (n, len) := slotSpan chan (slMode w)
  let fabric := decide (832 ≤ chan)
  slMode w == 3 || (fabric && slMode w != 0) || (decide (61 ≤ slLe w) && !slWrite w && !fabric) ||
  (decide (48 ≤ slLe w) && decide (slLe w ≤ 60)) ||
  decide (6000 < slStart w + len) || !s.slotFarOk chan w ||
  (if fabric then decide (slStart w < last) else decide (slStart w < from_) || !s.slotOwned chan w) ||
  (chan < 768 && decide (61 ≤ slLe w) && slWrite w && !s.dbCovers copy chan w) ||
  (chan < 768 && slFar w && !subOk (s.daUsers copy (farDie chan w)) (slSub w) (slStart w) n) ||
  (decide (chan = 832 ∨ chan = 833) && !subOk (s.daUsers copy (chan - 832)) (slSub w) (slStart w) n) ||
  (decide (834 ≤ chan) && !subOk ((validSlots (s.slotTable copy chan)).map (fun e => (slSub e, slStart e, 96))) (slSub w) (slStart w) n)

/-- The first failing entry of a table. -/
def State.firstBadSlot (s : State) (copy chan : Nat) : Nat → Nat → Nat → List W32 → Option Nat
  | _, _, _, [] => none
  | i, from_, last, w :: t =>
    if s.slotBad copy chan from_ last w then some i
    else s.firstBadSlot copy chan (i + 1) (slStart w + (slotSpan chan (slMode w)).2) (slStart w) t

/-- The refresh block of a channel ends here (R289). -/
def refreshEnd (chan : Nat) : Nat := if chan < 768 then 96 else if chan < 832 then 300 else 0

/-- SLOT_LOAD: the inactive copy of a channel's table is written, or the table is refused as a whole (R295). (DEDUCED, log
entry 53.) -/
def execSlotLoad (r : RingId) (data : HostRead) (s : State) : Out :=
  .next (s.onCmd r.toNat 0x08 (fun d =>
    let chan := dfld d.raw 8 2
    let haddr := dfld d.raw 16 8
    let n := dfld d.raw 24 2
    if 838 ≤ chan then s.finish r.toNat d 0x01 8
    else if n = 0 ∨ 1024 < n then s.finish r.toNat d 0x01 24
    else if s.ringWindow r.toNat false haddr (4 * n) = false then s.finish r.toNat d 0x02 haddr
    else match s.hostGot r.toNat haddr data with
      | .inl a => s.finish r.toNat d 0x12 a
      | .inr bs =>
        let copy := 1 - s.slotCopy
        let ws : List W32 := (List.range n).map (fun i => BitVec.ofNat 32 (dfld bs (4 * i) 4))
        let t := { s with slots := s.slots.set (1024 * copy + chan) ws }
        match t.firstBadSlot copy chan 0 (refreshEnd chan) 0 (validSlots ws) with
        | some i => s.finish r.toNat d 0x08 (chan + i * 2 ^ 32)
        | none => t.finish r.toNat d 0 0))

/-- Entry bytes and number of entries of a switch table (R376 to R378, R384, R439). -/
def swShape (table : Nat) : Nat × Nat :=
  match table with
  | 0 => (16, 128) | 1 => (16, 16384) | 2 => (1, 1024) | 3 => (4, 16) | _ => (512, 4096)

/-- A route entry in range: each valid path word names a sub-port its port has, and nothing marked 0 is set (R376). -/
def State.routeOk (s : State) (e : Bytes) : Bool :=
  dfld e 12 4 == 0 && (List.range 3).all (fun i =>
    let w := dfld e (4 * i) 4
    w / 2 ^ 26 == 0 && (!pwValid w || pwSub w == 0 || s.fld (Reg.portCfg (pwPort w)) 1 0 == 1))

/-- An entry of the P-die descriptor table in range: its result contexts, and either a REDUCE entry's fields or, in a BCAST
entry, no others (R398, R399, R401). -/
def pdEntryOk (e : Bytes) : Bool :=
  let zero := fun (o n : Nat) => dfld e o n == 0
  let nout := dfld e 28 1
  decide (1 ≤ nout) && decide (nout ≤ 64) && (List.range 64).all (fun i => decide (dfld e (64 + 4 * i) 4 < (if i < nout then 2 ^ 20 else 1))) &&
  zero 1 3 && zero 29 1 && zero 32 32 && zero 320 192 &&
  (zero 0 28 && zero 30 2 ||
    decide (dfld e 0 1 ≤ 1) && decide (1 ≤ dfld e 4 4) && decide (dfld e 8 4 + dfld e 4 4 ≤ 2 ^ 20) && decide (1 ≤ dfld e 12 4) &&
    decide (dfld e 12 4 ≤ 65535) && decide (1 ≤ dfld e 16 4) && decide (dfld e 16 4 ≤ 65536) &&
    decide (dfld e 20 4 + dfld e 24 4 ≤ 2 ^ 17))

/-- An entry of a switch table is out of range. -/
def State.swEntryBad (s : State) (table i : Nat) (e : Bytes) : Bool :=
  decide ((swShape table).2 ≤ i) || (match table with
    | 0 | 1 => !s.routeOk e
    | 2 => let v := dfld e 0 1; decide (20 < v) && v != 31
    | 3 => dfld e 0 4 % 256 != 0
    | _ => !pdEntryOk e)

/-- The key of an entry of a switch table in a copy. -/
def swEntryKey (copy table port sub i : Nat) : Nat :=
  swKey copy table (match table with | 2 => 2 * port + sub | 3 => port | _ => 0) i

/-- SWTAB_LOAD: entries of a switch table are written in the inactive copy, or the load is refused as a whole (R379).
(DEDUCED, log entry 53.) -/
def execSwtabLoad (r : RingId) (data : HostRead) (s : State) : Out :=
  .next (s.onCmd r.toNat 0x09 (fun d =>
    let table := dfld d.raw 8 1
    let port := dfld d.raw 9 1 % 16
    let sub := dfld d.raw 9 1 / 16 % 2
    let first := dfld d.raw 12 4
    let haddr := dfld d.raw 16 8
    let n := dfld d.raw 24 4
    let size := (swShape table).1
    let refuse := fun (i : Nat) => s.finish r.toNat d 0x08 (table + i * 2 ^ 32)
    if 4 < table then s.finish r.toNat d 0x01 8
    else if 0 < n ∧ s.ringWindow r.toNat false haddr (size * n) = false then s.finish r.toNat d 0x02 haddr
    else match (if n = 0 then .inr [] else s.hostGot r.toNat haddr data) with
      | .inl a => s.finish r.toNat d 0x12 a
      | .inr bs =>
        if (swShape table).2 < first + n then refuse (max first (swShape table).2)
        else
          let es := (List.range n).map (fun i => (first + i, fitBytes size (bs.drop (size * i))))
          match es.find? (fun e => s.swEntryBad table e.1 e.2) with
          | some e => refuse e.1
          | none =>
            let copy := 1 - s.swCopy
            let t := { s with swtab := es.foldl (fun m (e : Nat × Bytes) => m.set (swEntryKey copy table port sub e.1) e.2) s.swtab }
            let sum : Nat := ((List.range 16).map (fun k => dfld (Tab.get [] t.swtab (swKey copy 3 port k)) 0 4)).foldl (· + ·) 0
            if (table = 3 ∧ 512 * 1024 < sum) ∨ (table = 2 ∧ s.fld (Reg.portCfg port) 1 0 = 3) then refuse first
            else t.finish r.toNat d 0 0))

/-- A send half from its 16 bytes (R382). -/
def sendOf (v : Nat) : SendHalf :=
  { sstate := bits v 1 0, path := bits v 3 2, retries := bits v 7 4, dmod := bits v 24 8, dctx := bits v 44 25,
    npsn := bits v 68 45, infl := bits v 75 69, win := bits v 81 76, credit := bits v 97 82, hchunk := bits v 113 98,
    rate := bits v 119 114, provok := bit v 120, p96 := bit v 121 }

/-- A receive half from its 16 bytes (R382). (DEDUCED, log entry 54.) -/
def recvOf (v : Nat) : RecvHalf :=
  { rstate := bits v 1 0, kind := bits v 4 2, epsn := bits v 28 5, echunk := bits v 44 29, grant := bits v 60 45,
    pmod := bits v 77 61, pctx := bits v 97 78, target := bits v 123 98, ackpend := bit v 124, placed := bits v 44 29 }

/-- TILTH_LOAD: the halves that SEND and RECV name are written (R382). (DEDUCED, log entry 54.) -/
def execTilthLoad (r : RingId) (s : State) : Out :=
  .next (s.onCmd r.toNat 0x0A (fun d =>
    let x := dfld d.raw 8 4
    let send := bit (dfld d.raw 12 1) 0
    let recv := bit (dfld d.raw 12 1) 1
    let sh := sendOf (dfld d.raw 16 16)
    let rh := recvOf (dfld d.raw 32 16)
    let inRange := match s.ringPart r.toNat with
      | some q => decide (s.fld (Reg.partTilth q) 19 0 ≤ x) && decide (x < s.fld (Reg.partTilth q) 19 0 + s.fld (Reg.partTilth q) 40 20)
      | none => r.toNat == intRing
    let ss := (s.sendHalf x).sstate
    if recv = true ∧ (2 ≤ rh.rstate ∨ 6 ≤ rh.kind) then s.finish r.toNat d 0x01 32
    else if inRange = false ∨ (recv = true ∧ (s.recvHalf x).rstate ≠ 0) ∨ (send = true ∧ ss ≠ 0 ∧ ss ≠ 3) then
      s.finish r.toNat d 0x03 10
    else
      let s := if send then s.setSend x sh else s
      let s := if recv then s.setRecv x rh else s
      s.finish r.toNat d 0 0))

/-! ## Rollouts and epochs -/

/-- REQUEST: the request's record is written at its list slot (R340). (DESIGN CHOICE, log entry 55.) -/
def execRequest (r : RingId) (s : State) : Out :=
  .next (s.onCmd r.toNat 0x0B (fun d =>
    let seq : W64 := BitVec.ofNat 64 (dfld d.raw 8 8)
    match s.ringPart r.toNat with
    | none => s.finish r.toNat d 0x04 0
    | some q =>
      let n := s.fld (Reg.rollReq q) 44 40
      let slot := seq.toNat % 2 ^ n
      let at_ := s.fld (Reg.rollReq q) 39 12 * 4096 + 64 * slot
      let rs := Tab.get [] s.reqs q
      if n < 6 ∨ 16 < n then s.finish r.toNat d 0x03 (Config.openDetail 0x0B).toNat
      else if seq < s.reg (Reg.rollHead q) ∨ rs.any (fun x => x.seq == seq) = true then s.finish r.toNat d 0x0A 0
      else if rs.any (fun x => x.slot == slot) then s.finish r.toNat d 0x09 0
      else if s.ownsLoam q at_ 64 = false then s.finish r.toNat d 0x04 (s.ownId * 2 ^ 47 + 2 * 2 ^ 44 + at_)
      else
        let bytes := leBytes 8 seq.toNat ++ (d.raw.drop 16).take 8 ++ List.replicate 16 0 ++ (d.raw.drop 24).take 32
        let req : Req := ⟨seq, slot⟩
        ({ s with reqs := s.reqs.set q (rs ++ [req]) }.loamStore at_ bytes).finish r.toNat d 0 0))

/-- The admitting context of the ring's partition, as byte 8 of a TOKEN would name it (R342). -/
def State.admitter (s : State) (r : Nat) : Option (Nat × Nat) :=
  match s.ringPart r with
  | some q => s.target r (s.fld (Reg.rollAdm q) 7 0)
  | none => none

/-- ADMIT_BATCH: the batch waits for its token to enter; without an admitting context there is none to enter (R342). -/
def execAdmitBatch (r : RingId) (s : State) : Out :=
  .next (s.onCmd r.toNat 0x0C (fun d =>
    match s.admitter r.toNat with
    | none => s.finish r.toNat d 0x04
        (match s.ringPart r.toNat with | some q => s.targetAddr (s.fld (Reg.rollAdm q) 7 0) | none => 0)
    | some _ => s.modDesc r.toNat d.idx (fun d => { d with ran := true })))

/-- ADMIT_BATCH_TOKEN_ENTRY: the HOST token of a batch enters the admitting context's queue; one that names a switch slot waits
until that slot of the partition is READY, or CURRENT already (R342, R357). (DEDUCED, log entry 56.) -/
def execAdmitBatchTokenEntry (r : RingId) (s : State) : Out :=
  .next (
    let r := r.toNat
    match (s.ring r).fetched.find? (fun d => d.ran && d.status.isNone && d.op == 0x0C) with
    | none => s
    | some d =>
      let sw := bit (dfld d.raw 10 1) 0
      let slot := dfld d.raw 10 1 / 2 % 4
      match s.ringPart r, s.admitter r with
      | some q, some (p, c) =>
        if (s.ctx p c).hostRoom = false ∨
            (sw = true ∧ ((s.epState slot ≠ 2 ∧ s.epState slot ≠ 3) ∨ s.fld (Reg.epsStat slot) 5 3 ≠ q)) then s
        else (s.hostToken r p c (mkTok 4 (dfld d.raw 8 2)) (.batch (if sw then some slot else none))).finish r d 0 0
      | _, _ => s.finish r d 0x04 0)

/-- A Loam region meets that of an epoch slot that is READY, CURRENT or DRAINING (R361). -/
def State.epochMeets (s : State) (a n : Nat) : Bool := s.epochRegions.any (fun r => overlaps r.1 r.2 a n)

/-- EPOCH_LOAD: a FREE slot is LOADING, and READY at once when no chunk is expected (R358, R491); a region that a slot in use
has is refused (R361). (DEDUCED, log entry 122.) -/
def execEpochLoad (r : RingId) (s : State) : Out :=
  .next (s.onCmd r.toNat 0x0D (fun d =>
    let n := dfld d.raw 8 1
    let key := dfld d.raw 9 1
    let id : W64 := BitVec.ofNat 64 (dfld d.raw 16 8)
    let bundle : W64 := BitVec.ofNat 64 (dfld d.raw 24 8)
    let first := dfld d.raw 32 4
    let nexp := dfld d.raw 36 4
    let dest := dfld d.raw 40 8
    let owner := if r.toNat = intRing then (List.range 8).find? (fun q => s.ownsLoam q dest 1) else s.ringPart r.toNat
    match owner with
    | none => s.finish r.toNat d 0x03 8
    | some q =>
      let tagOk := s.gcmTag.any (fun t => t.1 == key && t.2.bundle == bundle && t.2.epoch == id && t.2.part == q)
      if dest % 65536 ≠ 0 then s.finish r.toNat d 0x01 40
      else if s.epState n ≠ 0 ∨ s.ownsLoam q dest (nexp * 65536) = false ∨ s.epochMeets dest (nexp * 65536) = true ∨ key < 16 ∨ 23 < key ∨
          s.keys.any (fun k => k.1 == key) = false ∨ tagOk = false then s.finish r.toNat d 0x03 8
      else
        let s := ((s.setFld (Reg.epsStat n) 2 0 1).setFld (Reg.epsStat n) 5 3 q).setFld (Reg.epsStat n) 27 8 0
        let s := (s.setReg (Reg.epsId n) id).setReg (Reg.epsProg n) (BitVec.ofNat 64 (nexp * 2 ^ 32))
        let s := { s with eps := s.eps.set n { bundle := bundle, first := first, dest := dest, key := key, got := [] } }
        (if nexp = 0 then s.epochReady n else s).finish r.toNat d 0 0))

/-- EPOCH_SWITCH: while STRICT = 0, a READY or CURRENT slot of the partition becomes CURRENT (R359). -/
def execEpochSwitch (r : RingId) (s : State) : Out :=
  .next (s.onCmd r.toNat 0x0E (fun d =>
    let n := dfld d.raw 8 1
    match s.ringPart r.toNat with
    | none => s.finish r.toNat d 0x03 9
    | some q =>
      if s.strict then s.finish r.toNat d 0x0B 0
      else if (s.epState n ≠ 2 ∧ s.epState n ≠ 3) ∨ s.fld (Reg.epsStat n) 5 3 ≠ q then s.finish r.toNat d 0x03 9
      else (s.switchEpoch q n).finish r.toNat d 0 0))

/-! ## Frames (R402, R449) -/

/-- Bytes that wait in the host virtual port's queue. -/
def State.hvpQueued (s : State) : Nat := ((List.range 32).map (fun e => queueBytes (s.egQueue e 20))).foldl (· + ·) 0

/-- FRAME_TX: a frame enters the host virtual port's queue for its egress; it completes when it has left (R402). A Tilth frame
is discarded and counted (R374). While the port or the module identifier is off, it waits. (DEDUCED, log entry 57.) -/
def execFrameTx (r : RingId) (data : HostRead) (s : State) : Out :=
  .next (s.onCmd r.toNat 0x0F (fun d =>
    let e := 2 * (dfld d.raw 8 1 % 16) + dfld d.raw 8 1 / 16 % 2
    let n := dfld d.raw 10 2
    let haddr := dfld d.raw 16 8
    if n < 60 ∨ 4196 < n then s.finish r.toNat d 0x01 10
    else if s.ringWindow r.toNat false haddr n = false then s.finish r.toNat d 0x02 haddr
    else if s.flag Reg.hvpCfg 0 = false ∨ s.idValid = false then s
    else match s.hostGot r.toNat haddr data with
      | .inl a => s.finish r.toNat d 0x12 a
      | .inr bs =>
        if (match udpPort (fitBytes n bs) with | some (q, _) => q == s.fld Reg.tilthCfg 15 0 | none => false) then
          (s.bump Reg.tilthBadhdr 1).finish r.toNat d 0 0
        else if 256 * 1024 < s.hvpQueued + n then s.finish r.toNat d 0x0C 0
        else
          let f := fitBytes n bs
          let s := s.enqueue e 20 (f.take 6 ++ s.srcMac 0x20 ++ f.drop 12)
          { s with hvpTx := s.hvpTx.set e (Tab.get [] s.hvpTx e ++ [some (r.toNat, d.idx)]) }.modDesc r.toNat d.idx
            (fun d => { d with ran := true })))

/-- A receive buffer in its place in the order of fetches. -/
def insertBuf (b : RxBuf) : List RxBuf → List RxBuf
  | [] => [b]
  | a :: t => if a.seq ≤ b.seq then a :: insertBuf b t else b :: a :: t

/-- FRAME_RX: a receive buffer is posted; it completes when a frame has landed in it (R449). -/
def execFrameRx (r : RingId) (s : State) : Out :=
  .next (s.onCmd r.toNat 0x10 (fun d =>
    let haddr := dfld d.raw 16 8
    let n := dfld d.raw 24 2
    if n < 4196 then s.finish r.toNat d 0x01 24
    else if s.ringWindow r.toNat true haddr n = false then s.finish r.toNat d 0x02 haddr
    else { s with hvpRx := insertBuf ⟨r.toNat, d.idx, BitVec.ofNat 64 haddr, n, d.seq⟩ s.hvpRx }.modDesc r.toNat d.idx
      (fun d => { d with ran := true })))

/-! ## Completions (R445, R448) -/

/-- COMPLETION_WRITE: the entry of the oldest fetched descriptor is written once it has completed; a write that fails is a
ring error and takes the entry's place. -/
def execCompletionWrite (r : RingId) (ok : Bool) (s : State) : Out :=
  .next (
    let r := r.toNat
    let g := s.ring r
    match g.fetched with
    | [] => s
    | d :: ds => match d.status with
      | none => s
      | some (status, detail) =>
        let addr := g.cqb.toNat + 16 * g.cqtail
        let entry := (d.raw.drop 4).take 4 ++ leBytes 2 d.idx ++ leBytes 1 status ++ leBytes 1 g.phase.toNat ++ leBytes 8 detail.toNat
        let t := s.modRing r (fun g => { g with
          fetched := ds
          cqtail := (g.cqtail + 1) % g.size
          phase := (if g.cqtail + 1 = g.size then !g.phase else g.phase)
          unread := g.unread + 1
          since := g.since + 1 })
        if r = intRing then s.modRing r (fun g => { g with fetched := ds })
        else if ok && s.ringWindow r true addr 16 then t.emit (.hostWrite (BitVec.ofNat 64 addr) entry (s.ringIde r)) else t.ringError r 4)

/-- MSIX_INTERRUPT: a completion ring sends its vector by its count or by its timer. (DEDUCED, log entry 58.) -/
def execMsixInterrupt (r : RingId) (timer : Bool) (s : State) : Out :=
  .next (
    let r := r.toNat
    let g := s.ring r
    let icnt := bits g.cfg.toNat 24 17
    let itime := bits g.cfg.toNat 32 25
    if (if timer then decide (0 < g.since) && itime != 0 else icnt != 0 && decide (icnt ≤ g.since)) then
      (s.modRing r (fun g => { g with since := 0 })).interrupt
        (match s.ringPart r with | some q => s.funcOf q | none => 0) (bits g.cfg.toNat 16 8)
    else s)

end Sys2Proof.Machine
end

