-- ==== Sys2Proof/Machine/HostLink.lean ====
section
/-!
DEFINITION. The links of the module that go up and down: the host link (R426 to R429, R541, R543), its functions, TDIs and
IDE key sets (R458), the CXL ports (R308), and the reference clocks (R581).
-/

namespace Sys2Proof.Machine

/-! ## TDIs and IDE -/

/-- A partition is being unsealed. -/
def PartX.unsealing (x : PartX) : Bool :=
  match x.clearing with
  | some (.unsealReset _) | some (.unsealZero _) => true
  | _ => false

/-- The unsealing of a partition that is sealed or about to be (R485). One that runs already goes on; `forced` decides where
the TDI ends. -/
def State.unsealPart (s : State) (q : Nat) (forced : Bool) : State :=
  let x := s.partx q
  match x.clearing with
  | some (.unsealReset f) => s.modPartx q (fun x => { x with clearing := some (.unsealReset (f || forced)) })
  | some (.unsealZero f) => s.modPartx q (fun x => { x with clearing := some (.unsealZero (f || forced)) })
  | some .seal => s.startClear q (.unsealReset forced)
  | _ => if s.sealedPart q then s.startClear q (.unsealReset forced) else s

/-- Every key set of every IDE stream ends, and its slots are zeroed (R458). -/
def State.dropIde (s : State) : State :=
  { s with ideOn := [], keys := s.keys.filter (fun kv => decide (kv.1 < 24)) }

/-! ## Host link reset (R541) -/

/-- A context after a host link reset: no completion is held for it, and a stream that the ring was bringing ends, with the
copy it was loading EMPTY (R541, R192). -/
def Ctx.dropHost (x : Ctx) : Ctx :=
  let plain := fun (t : HostTag) => match t with | .ack _ _ => HostTag.plain | t => t
  let x := { x with
    hostTags := x.hostTags.map plain, hostPopped := x.hostPopped.map plain
    ringStream := none, iq := if x.ringStream.isSome then [] else x.iq }
  match x.stream with
  | some t =>
    if t.iload then x
    else if t.bankB then { x with stream := none, copyB := .empty } else { x with stream := none, copyA := .empty }
  | none => x

/-- A host link reset: every descriptor that has not completed ends, the functions, MSI-X and the enables of every ring and
event ring are cleared, and each locked or running TDI moves to ERROR with its partition unsealed. Contexts, memory and
Tilth are kept (R539, R541). (PRESUMED, log entry 65.) -/
def State.hostLinkReset (s : State) : State :=
  let ring : Nat × Ring → Nat × Ring := fun k =>
    if k.1 = intRing then k else (k.1, { k.2 with cfg := k.2.cfg &&& ~~~ 1, fetched := [] })
  let engine : Nat × Engine → Nat × Engine := fun p => (p.1, { p.2 with ctx := p.2.ctx.map (fun c => (c.1, c.2.dropHost)) })
  let s : State := { s with
    rings := s.rings.map ring
    hvpRx := []
    hvpTx := s.hvpTx.map (fun e => (e.1, e.2.map (fun _ => none)))
    msixTab := []
    msixPend := []
    latch := []
    eng := s.eng.map engine }
  let s := (List.range 9).foldl (fun s e => s.setFld (Reg.evrCfg e) 0 0 0) s
  let s := (List.range 8).foldl (fun s q =>
    let locked := (s.partx q).tdi == .locked || (s.partx q).tdi == .run
    let s := s.modPartx q (fun x => { x with vf := false })
    if locked then (s.modPartx q (fun x => { x with tdi := .error })).unsealPart q true else s) s
  let s := s.dropIde
  { s with boot := { s.boot with hostDown := true } }

/-- HOST_LINK_RESET: PERST# is asserted on J2. (PRESUMED, log entry 65.) -/
def execHostLinkReset (s : State) : Out :=
  .next (let s := s.hostLinkReset; { s with boot := { s.boot with perst := true } })

/-- The host link stands unless the module is off, PERST# is asserted, PCIE_REFCLK is lost or the P-die has no supply (R578,
R581). -/
def State.retrainHost (s : State) : State :=
  { s with boot := { s.boot with hostDown :=
      !s.boot.powered || s.boot.perst || s.boot.lostRefs.contains .pcie || s.boot.railsOff.contains .vpdie } }

/-- PERST_RELEASE: PERST# is released, and the functions answer again (R543). (DESIGN CHOICE, log entry 8.) -/
def execPerstRelease (s : State) : Out :=
  .next ({ s with boot := { s.boot with perst := false } }.retrainHost)

/-- VF_ENABLE: the SR-IOV enable of VFk is written (R428). (DEDUCED, log entry 66.) -/
def execVfEnable (f : Func) (on : Bool) (s : State) : Out :=
  .next (if f.val = 0 ∨ s.boot.hostDown = true then s else s.modPartx (f.val - 1) (fun x => { x with vf := on }))

/-- Gauntlet can take a request: it has started and is not restarting (R468). -/
def State.gauntletUp (s : State) : Bool := s.boot.powered && !s.gaunt.restarting

/-- LOCK_INTERFACE_REQUEST: VFk's TDI moves from CONFIG_UNLOCKED to CONFIG_LOCKED. (DEDUCED, log entry 66.) -/
def execLockInterfaceRequest (f : Func) (s : State) : Out :=
  .next (
    let q := f.val - 1
    if f.val = 0 ∨ s.gauntletUp = false ∨ s.boot.hostDown = true ∨ (s.partx q).vf = false ∨ (s.partx q).tdi ≠ .unlocked then s
    else s.modPartx q (fun x => { x with tdi := .locked }))

/-- START_INTERFACE_REQUEST: a locked TDI moves to RUN. (DEDUCED, log entry 66.) -/
def execStartInterfaceRequest (f : Func) (s : State) : Out :=
  .next (
    let q := f.val - 1
    if f.val = 0 ∨ s.gauntletUp = false ∨ s.boot.hostDown = true ∨ (s.partx q).tdi ≠ .locked then s
    else s.modPartx q (fun x => { x with tdi := .run }))

/-- STOP_INTERFACE_REQUEST: VFk's partition is unsealed, and its TDI moves to CONFIG_UNLOCKED (R485). (DEDUCED, log entry
66.) -/
def execStopInterfaceRequest (f : Func) (s : State) : Out :=
  .next (
    let q := f.val - 1
    if f.val = 0 ∨ s.gauntletUp = false ∨ s.boot.hostDown = true ∨ (s.partx q).vf = false then s
    else
      let s := s.unsealPart q false
      if (s.partx q).unsealing then s else s.modPartx q (fun x => { x with tdi := .unlocked }))

/-- IDE_KEY_SET_ACTIVATE: a key set of a stream becomes active with the three sub-stream keys of each of its two directions, and
the stream's other set stops being in use and is zeroed (R457, R458). (DEDUCED, log entry 67.) -/
def execIdeKeySetActivate (strm : Fin 10) (set : Bool) (s : State) : Out :=
  .next (
    if s.gauntletUp = false ∨ s.boot.hostDown = true then s
    else
      let k := 2 * strm.val + set.toNat
      let other := 2 * strm.val + (1 - set.toNat)
      if s.ideOn.contains k then s
      else
        let load := fun (keys : Tab (List (BitVec 256))) (i n : Nat) =>
          if keys.any (fun e => e.1 == i) then keys else keys.set i (drawKeys (s.fresh + n) 3)
        let keys := load (load s.keys (24 + 2 * k) 0) (25 + 2 * k) 3
        let old := s.ideOn.contains other
        { s with
          keys := if old then (keys.del (24 + 2 * other)).del (25 + 2 * other) else keys
          ideOn := k :: s.ideOn.filter (fun j => j != other)
          fresh := s.fresh + 6 })

/-! ## CXL (R308) -/

/-- The first byte that a Shale transfer has outstanding at the device of a CXL port: none of a transfer whose requests have
not gone out, as of a D.PUT that is not handed off; one with ROWS = 0 sends none (R601). -/
def State.atCxl (s : State) (p c : Nat) (t : Xfer) (port : Bool) : Option Nat :=
  if t.shale = false ∨ (t.kind = .put ∧ t.row = 0 ∧ t.off = 0) then none
  else (s.shaleUnits p c t).find? (fun a => match s.shaleAt a with | .cxl n _ => n == port | .clay _ => false)

/-- A CXL port's link fails: every outstanding request there fails and is not completed, and its context meets one error of the
Shale class (R308, R504, R509). -/
def State.cxlFails (s : State) (port : Bool) : State :=
  (List.range 52).foldl (fun s p => (List.range 4).foldl (fun s c =>
    let x := s.ctx p c
    let lost := (x.xfers ++ x.shaleOut).filter (fun t => (s.atCxl p c t port).isSome)
    match lost.filterMap (fun t => s.atCxl p c t port) with
    | [] => s
    | a :: rest =>
      ((s.bump Reg.shalePoison rest.length).tierRead p c 4 a 1 (.uncorrectable 0 none) id).modCtx p c (fun x => { x with
        xfers := x.xfers.filter (fun t => !(lost.any (fun u => u.id == t.id)))
        outDone := x.outDone.filter (fun k => !(lost.any (fun u => u.ordinal == some k))) })) s) s

/-- CXL_LINK_FAILURE: the link of a CXL port fails. (DEDUCED, log entry 68.) -/
def execCxlLinkFailure (port : Bool) (s : State) : Out := .next (s.cxlFails port)

/-! ## Reference clocks (R581) -/

/-- The bit of REFCLK_STAT that records a loss. -/
def refBit : RefClk → Nat
  | .core => 0 | .eth => 1 | .pcie => 2 | .cxl0 => 3 | .cxl1 => 4

/-- HOLDOVER reads 1 while the core or the Ethernet PLLs hold over or slew back. -/
def State.setHoldover (s : State) : State :=
  s.setFld Reg.refclkStat 5 5
    (s.boot.lostRefs.contains .core || s.boot.lostRefs.contains .eth || s.boot.slewing != []).toNat

/-- REFCLK_LOSS: a reference is lost. The core and Ethernet PLLs hold over; the host link goes down as by a host link reset;
a CXL port's link fails. (PRESUMED, log entry 65.) -/
def execRefclkLoss (r : RefClk) (s : State) : Out :=
  .next (
    if s.boot.lostRefs.contains r then s
    else
      let s := { s with boot := { s.boot with lostRefs := r :: s.boot.lostRefs, slewing := s.boot.slewing.filter (fun x => x != r) } }
      let s := (s.setFld Reg.refclkStat (refBit r) (refBit r) 1).setHoldover
      match r with
      | .core | .eth => s
      | .pcie => s.hostLinkReset
      | .cxl0 => s.cxlFails false
      | .cxl1 => s.cxlFails true)

/-- REFCLK_RETURN: a lost reference returns. The core and Ethernet PLLs slew back to it; a link trains again. -/
def execRefclkReturn (r : RefClk) (s : State) : Out :=
  .next (
    if s.boot.lostRefs.contains r = false then s
    else
      let s := { s with boot := { s.boot with lostRefs := s.boot.lostRefs.filter (fun x => x != r) } }
      match r with
      | .core | .eth => { s with boot := { s.boot with slewing := r :: s.boot.slewing } }.setHoldover
      | .pcie => s.retrainHost
      | .cxl0 | .cxl1 => s)

/-- SLEW_BACK_COMPLETE: a PLL that was slewing back has reached its reference. -/
def execSlewBackComplete (r : RefClk) (s : State) : Out :=
  .next (
    if s.boot.slewing.contains r then
      { s with boot := { s.boot with slewing := s.boot.slewing.filter (fun x => x != r) } }.setHoldover
    else s)

end Sys2Proof.Machine
end

