-- ==== Sys2Proof/Machine/Store.lean ====
section
/-!
DEFINITION. The module store (R557 to R560): the contents of its areas, the two copies of each record, and batches.
-/

namespace Sys2Proof.Machine

/-! ## The secrets that the boot ROM derives (R456, R459) -/

/-- The pseudorandom key that UDS gives, from which the seeds of R459 are expanded. -/
def Fuses.prk (f : Fuses) : Bytes := hkdfExtract [] (leBytes 32 f.uds.toNat)

/-- The store key SEK. -/
def Fuses.sek (f : Fuses) : Bytes := hkdfExpand f.prk (ascii "SEK") 32

/-! ## Areas -/

/-- The areas whose records are kept in two copies. -/
def areas : List Area := [.fwA, .fwB, .selfTest, .ident, .sealed, .saved, .plan]

/-- What the retention bank keeps (R468). -/
def State.retention (s : State) : Retention :=
  { parts := (List.range 8).map (fun q => ((s.partx q).dxk, (s.partx q).imgKey)), rot := s.rot, tags := s.gcmTag }

/-- The contents of an area as Gauntlet holds them. -/
def State.area (s : State) : Area → AreaVal
  | .fwA => .image s.store.slotA
  | .fwB => .image s.store.slotB
  | .selfTest => .selfTest s.store.selfTest
  | .ident => .ident s.store.ident
  | .sealed => .sealed s.store.owner s.setKeys s.store.lastB s.store.health s.store.marks s.store.pages s.store.repairs s.store.soft
      s.retention
  | .saved => .saved s.store.saved
  | .plan => .plan s.store.mrec s.store.loc s.store.plan

/-- The contents of an area that no copy holds. -/
def emptyArea : Area → AreaVal
  | .fwA | .fwB => .image none
  | .selfTest => .selfTest 0
  | .ident => .ident []
  | .sealed => .sealed none [] false [] [] [] [] [] {}
  | .saved => .saved none
  | .plan => .plan {} none none

/-- Gauntlet takes the contents of an area. The copy of the retention bank serves no start: a module reset clears what it holds
(R539). (DESIGN CHOICE, log entry 72.) -/
def State.withArea (s : State) (a : Area) (v : AreaVal) : State :=
  match a, v with
  | .fwA, .image f => { s with store := { s.store with slotA := f } }
  | .fwB, .image f => { s with store := { s.store with slotB := f } }
  | .selfTest, .selfTest d => { s with store := { s.store with selfTest := d } }
  | .ident, .ident cs => { s with store := { s.store with ident := cs } }
  | .sealed, .sealed o sets b h m p r f _ =>
    { s with setKeys := sets, store := { s.store with
        owner := o, lastB := b, health := h, marks := m, pages := p, repairs := r, soft := f } }
  | .saved, .saved r => { s with store := { s.store with saved := r } }
  | .plan, .plan r l p => { s with store := { s.store with mrec := r, loc := l, plan := p } }
  | _, _ => s

/-! ## Copies (R558) -/

/-- Copy k of an area. -/
def State.copyOf (s : State) (a : Area) (k : Bool) : Option Copy :=
  (s.emmc.find? (fun e => e.1 == a && e.2.1 == k)).map (fun e => e.2.2)

/-- Copy k of an area set. -/
def State.setCopy (s : State) (a : Area) (k : Bool) (c : Copy) : State :=
  { s with emmc := (a, k, c) :: s.emmc.filter (fun e => !(e.1 == a && e.2.1 == k)) }

/-- The sequence number of a copy, 0 where there is none. -/
def State.copySeq (s : State) (a : Area) (k : Bool) : Nat := ((s.copyOf a k).map (fun c => c.seq.toNat)).getD 0

/-- A copy's check value agrees. -/
def Copy.valid (c : Copy) (sek : Bytes) (a : Area) : Bool := !c.torn && c.tag == areaTag sek a c.seq c.val

/-- What a read of an area takes: the valid copy with the higher sequence number. -/
def State.found (s : State) (a : Area) : AreaVal :=
  let ok := fun (k : Bool) => (s.copyOf a k).filter (fun c => c.valid s.fuse.sek a)
  match ok false, ok true with
  | some x, some y => if x.seq.toNat < y.seq.toNat then y.val else x.val
  | some x, none => x.val
  | none, some y => y.val
  | none, none => emptyArea a

/-- The copy that a record write goes to: that of the lower sequence number. -/
def State.copyTarget (s : State) (a : Area) : Bool := decide (s.copySeq a true < s.copySeq a false)

/-- A record write begins: until it ends the copy is not valid. -/
def State.beginCopy (s : State) (a : Area) (k : Bool) (v : AreaVal) : State :=
  s.setCopy a k (match s.copyOf a k with
    | some c => { c with torn := true }
    | none => { seq := 0, val := v, tag := 0, torn := true })

/-- A record write ends. -/
def State.endCopy (s : State) (a : Area) (k : Bool) (v : AreaVal) : State :=
  let seq := BitVec.ofNat 64 (max (s.copySeq a false) (s.copySeq a true) + 1)
  s.setCopy a k { seq := seq, val := v, tag := areaTag s.gaunt.sek a seq v }

/-! ## Logs (R557) -/

/-- An entry at the end of a ring of at most `cap` entries, which is overwritten oldest first. -/
def ringPush {α : Type} (cap : Nat) (l : List α) (x : α) : List α := (l ++ [x]).drop (l.length + 1 - cap)

/-- The entries that 512 MiB of records of 64 bytes, and 1 GiB of samples of 32 bytes, hold. (DESIGN CHOICE, log entry 72.) -/
def logCap : Nat := 2 ^ 23
def histCap : Nat := 2 ^ 25

/-- The logs as Gauntlet holds them, with what the next batch is to write. -/
def Store.logs (st : Store) : Logs := { log := st.log, losses := st.losses, hist := st.hist }

/-! ## Batches (R559, R560) -/

/-- What Gauntlet holds for the store brought up to date: the engines' health (R525) and the marked rows and pages (R308). An
entry of `health` is VRUNG, plus 8 for a retired engine. -/
def State.settle (s : State) : State :=
  { s with store := { s.store with
      health := ((List.range 52).map (fun p =>
        (p, s.fld (Reg.engHealth p) 5 3 + (if s.fld (Reg.engHealth p) 2 0 = 4 then 8 else 0)))).filter (fun e => e.2 != 0)
      marks := s.store.marks ++ s.repair.filter (fun r => !s.store.marks.contains r)
      pages := s.store.pages ++ s.clayMarks.filter (fun a => !s.store.pages.contains a) } }

/-- The areas to be written: those whose copies do not hold what Gauntlet holds. -/
def State.due (s : State) : List Area := areas.filter (fun a => s.found a != s.area a)

/-- The hold-up energy, in units of 10 mJ, is at least 1.5 × 9 W × (0.25 s + B / 8 MB/s). -/
def batchPasses (eavail b : Nat) : Bool := decide (1350 * (2000000 + b) ≤ eavail * 8000000)

/-- The largest batch that passes, of at most `size` bytes and 4 MiB: `size` itself, or whole units of 4 KiB. (DESIGN CHOICE,
log entry 72.) -/
def batchSize (eavail size : Nat) : Nat :=
  let want := min size 4194304
  if batchPasses eavail want then want else (eavail * 8000000 / 1350 - 2000000) / 4096 * 4096

/-- A batch of `size` bytes begins, out of `want`: the copies that it writes are not valid until their record is whole. -/
def State.beginBatch (s : State) (size want : Nat) : State :=
  let s := s.settle
  let writes := s.due.map (fun a => (a, s.copyTarget a, s.area a))
  let s := writes.foldl (fun s (w : Area × Bool × AreaVal) => s.beginCopy w.1 w.2.1 w.2.2) s
  { s with mgmt := { s.mgmt with batch := some ⟨size, writes, s.store.logs, decide (want ≤ size)⟩ } }

/-- The batch in progress ends; the records and the logs of one that wrote the rest of them are whole. -/
def State.endBatch (s : State) : State :=
  match s.mgmt.batch with
  | none => s
  | some b =>
    let s := if b.whole then
        { b.writes.foldl (fun s (w : Area × Bool × AreaVal) => s.endCopy w.1 w.2.1 w.2.2) s with logs := b.logs }
      else s
    { s with mgmt := { s.mgmt with batch := none } }

/-- STORE_BATCH_WRITE: Gauntlet starts a batch of what it has to write, as large as the energy allows; when not even a unit
of 4 KiB passes, it defers every write and reports that once. (DESIGN CHOICE, log entry 72.) -/
def execStoreBatchWrite (size : Nat) (s : State) : Out :=
  .next (
    if s.gauntletUp = false ∨ s.mgmt.off = true ∨ s.mgmt.batch ≠ none ∨ size = 0 then s
    else
      let e := s.fld Reg.holdupStat 15 0
      if batchPasses e (min size 4096) then (s.setFld Reg.holdupStat 16 16 0).beginBatch (batchSize e size) size
      else if s.flag Reg.holdupStat 16 then s
      else (s.setFld Reg.holdupStat 16 16 1).sendRec blkMgmt { cls := Config.storeDeferred })

/-- STORE_BATCH_COMPLETE: the batch in progress is written; SAFE answers an OFF_REQUEST that waited for it (R563). -/
def execStoreBatchComplete (s : State) : Out :=
  .next (
    if s.mgmt.batch = none then s
    else
      let s := s.endBatch
      if s.mgmt.off then s.emit .i3cSafe else s)

/-- OFF_REQUEST: Gauntlet starts no further batch and answers SAFE when none is in progress (R563). -/
def execOffRequest (s : State) : Out :=
  .next (
    if s.gauntletUp = false then s
    else
      let s := { s.setFld Reg.holdupStat 16 16 1 with mgmt := { s.mgmt with off := true } }
      if s.mgmt.batch = none then s.emit .i3cSafe else s)

/-- SAVED_SETTINGS_WRITE: after READY the settings are written when an item was trained in full, or a lane moved by more than one
tap step and 24 hours have passed since the last write (R549, R550). (DESIGN CHOICE, log entry 72.) -/
def execSavedSettingsWrite (s : State) : Out :=
  .next (
    let stage := s.fld Reg.bootStat 3 0
    let late := match s.store.saved with | some r => decide (r.savedAt.toNat + 86400000000000 ≤ s.time.toNat) | none => true
    if stage < 7 ∨ 9 < stage ∨ s.flag Reg.holdupStat 16 = true ∨ s.gaunt.restarting = true ∨
        (s.boot.full = false ∧ (s.boot.moved = false ∨ late = false))
    then s
    else
      let r : SavedRec := ⟨s.fuse.serial, s.fuse.steppingC0, (s.boot.running.map (fun f => f.seq)).getD 0, s.time, s.boot.items⟩
      { s with store := { s.store with saved := some r }, boot := { s.boot with full := false, moved := false } })

end Sys2Proof.Machine
end

