-- ==== Sys2Proof/Machine/Power.lean ====
section
/-!
DEFINITION. Power and telemetry: module resets (R539, R540, R560, R536), the readings and the limits that they set (R564, R576,
R586), and the core clock (R40, R41).
-/

namespace Sys2Proof.Machine

/-! ## Module resets -/

/-- ENG_HEALTH_p after a module reset: from the fuses and the module store. -/
def Store.healthRegs (st : Store) (f : Fuses) : Tab W64 :=
  (List.range 52).foldl (fun t p =>
    let h := Tab.get 0 st.health p
    if h = 0 ∨ f.good.getLsbD p = false then t
    else
      let state := if 8 ≤ h then 4 else if f.spares.getLsbD p then 1 else 0
      t.set (Reg.engHealth p) (BitVec.ofNat 64 (state + h % 8 * 8))) []

/-- A module reset: all module state is cleared; the module store and the fuses are kept, and Gauntlet finds in the store what
its copies and its logs hold: an engine that it has retired is no spare (R525, R539, R540, R557, R558). What is outside the
module stays as it is: its references, PERST#, the address straps, and the commands and messages of this model. (DEDUCED, log
entry 69.) -/
def State.moduleReset (s : State) : State :=
  let t : State := { State.reset with
    pending := s.pending, fuse := s.fuse, svn := s.svn, out := s.out, fresh := s.fresh, emmc := s.emmc
    store := { trip := s.store.trip, log := s.logs.log, losses := s.logs.losses, hist := s.logs.hist }, logs := s.logs
    boot := { perst := s.boot.perst, lostRefs := s.boot.lostRefs, thermtrip := s.boot.thermtrip
              straps := s.boot.straps } }
  let t := areas.foldl (fun t a => t.withArea a (s.found a)) t
  let retired := (List.range 52).filter (fun p => decide (8 ≤ Tab.get 0 t.store.health p))
  { t with regs := retired.foldl (fun r p => r.set Reg.spareSet
      (Tab.get (resetReg t.fuse Reg.spareSet) r Reg.spareSet &&& ~~~ BitVec.ofNat 64 (2 ^ p))) (t.store.healthRegs t.fuse) }

/-- A module reset of a module that runs: PWR_OK falls (R584). -/
def State.powerDown (s : State) : State := s.moduleReset.emit (.power false)

/-- MOD_RST: MOD_RST# is asserted for 1 ms or longer. A batch in progress is torn (R558). (DESIGN CHOICE, log entry 72.) -/
def execModRst (s : State) : Out := .next (if s.boot.powered then s.powerDown else s)

/-- I3C_RESET: the board controller's RESET message (R563). -/
def execI3cReset (s : State) : Out := .next (if s.boot.powered then s.powerDown else s)

/-- INPUT_POWER_LOSS: input power falls below 38 V. The batch in progress completes and the loss is logged from the hold-up
domain (R560). -/
def execInputPowerLoss (s : State) : Out :=
  .next (
    if s.boot.powered then
      let s := s.endBatch
      { s with logs := { s.logs with losses := ringPush logCap s.logs.losses s.time } }.powerDown
    else s)

/-- THERMAL_TRIP: a junction reaches 115 °C. Power is removed and THERMTRIP# latches; the store keeps the sensor and the
device time of the last telemetry sample, and the batch in progress completes from the hold-up domain (R536, R548, R560).
(DESIGN CHOICE, log entry 72.) -/
def execThermalTrip (sensor : Byte) (s : State) : Out :=
  .next (
    if s.boot.powered then
      let s := s.endBatch
      { s with
        store := { s.store with trip := some (sensor, s.bonnet.lastAt) }
        boot := { s.boot with thermtrip := true } }.powerDown
    else s)

/-- Every port goes down: none of its lanes trains. -/
def State.portsFall (s : State) : State := (List.range 16).foldl (fun s n => s.setLink n ⟨0, false, false⟩) s

/-- OVER_VOLTAGE_SHUTDOWN: the comparator of a rail shuts its regulator down (R536, R578). Engines without their core rail stop,
without the SerDes or the P-die rail every port is down, and without the P-die rail the host link is. (DESIGN CHOICE, log entry
139.) -/
def execOverVoltageShutdown (rail : Rail) (s : State) : Out :=
  .next (
    if s.boot.railsOff.contains rail then s
    else
      let s := { s with boot := { s.boot with railsOff := s.boot.railsOff ++ [rail] } }
      match rail with
      | .vserdes => s.portsFall
      | .vpdie => s.portsFall.hostLinkReset
      | .vcore0 | .vcore1 | .vhbm | .vhbmq | .vlp1 | .vlp2 | .vlpq | .v1p8 | .v3p3 => s)

/-! ## Bonnet (R26, R27, R40, R41, R576, R586) -/

/-- The greatest k: the floor is 750 MHz on both bins (R40). -/
def Fuses.kmax (f : Fuses) : Nat := (f.maxMhz - 750) / 25

/-- The present k. -/
def State.clockK (s : State) : Nat := (s.fuse.maxMhz - s.fld Reg.lockedClk 11 0) / 25

/-- The k that the limits ask for: the lowest frequency, which is the greatest k (R27). -/
def State.targetK (s : State) : Nat := min s.fuse.kmax (max (max s.bonnet.cap s.bonnet.therm) (s.fld Reg.rplPolicy 3 1))

/-- The limit bits of LOCKED_CLK and STEPPING follow the limits; a setting of THERM_LIMIT raises the I3C interrupt (R563). -/
def State.setLimits (s : State) : State :=
  let was := s.flag Reg.lockedClk 29
  let s := ((s.setFld Reg.lockedClk 28 28 (decide (0 < s.bonnet.cap)).toNat).setFld Reg.lockedClk 29 29
    (decide (0 < s.bonnet.therm)).toNat).setFld Reg.lockedClk 30 30 (decide (0 < s.fld Reg.rplPolicy 3 1)).toNat
  let s := s.setFld Reg.lockedClk 31 31 (s.clockK != s.targetK).toNat
  if decide (0 < s.bonnet.therm) && !was then s.emit .i3cInterrupt else s

/-- The core clock at k. -/
def State.setClock (s : State) (k : Nat) : State := s.setFld Reg.lockedClk 11 0 (s.fuse.maxMhz - 25 * k)

/-- The power of the load of a sample at another clock, times the clock of the sample: 250 W are fixed, the rest follows the
core clock (Example 18-1). Powers are in units of 0.1 W. (DESIGN CHOICE, log entry 71.) -/
def powerAt (pin mhz mhz' : Nat) : Nat := if pin ≤ 2500 then pin * mhz else 2500 * mhz + (pin - 2500) * mhz'

/-- At k the load of a sample taken at clock `mhz` stays within the power cap of the bin and the fused cap, and its current
within the current limit (R3, R536, R576). -/
def capHolds (f : Fuses) (x : Sample) (mhz k : Nat) : Bool :=
  let p := powerAt x.pin.toNat mhz (f.maxMhz - 25 * k)
  decide (p ≤ 10 * min (if f.binS then 2100 else 2600) f.pcap * mhz) &&
  decide (x.iin * p ≤ (if f.binS then 52500 else 65000) * x.pin.toNat * mhz)

/-- The k that the input limits ask for: that of the highest clock at which they hold, or the floor (R3, R576, Example
18-1). (DESIGN CHOICE, log entry 71.) -/
def capK (f : Fuses) (x : Sample) (mhz : Nat) : Nat :=
  ((List.range (f.kmax + 1)).find? (fun k => capHolds f x mhz k)).getD f.kmax

/-- A sensor has reached its setpoint (R586). -/
def sampleHot (x : Sample) : Bool :=
  decide (103 ≤ x.tj0.toNat) || decide (103 ≤ x.tj1.toNat) || decide (103 ≤ x.tjp.toNat) || decide (100 ≤ x.thbm.toNat) ||
  decide (100 ≤ x.tlp.toNat)

/-- Every sensor stands 3 °C below its setpoint. -/
def sampleCool (x : Sample) : Bool :=
  decide (x.tj0.toNat ≤ 100) && decide (x.tj1.toNat ≤ 100) && decide (x.tjp.toNat ≤ 100) && decide (x.thbm.toNat ≤ 97) &&
  decide (x.tlp.toNat ≤ 97)

/-- The registers that a sample sets: TEL_PWR, TEL_TEMP and HOLDUP_STAT (R564, R577). -/
def State.setReadings (s : State) (x : Sample) (pavg : Nat) : State :=
  let s := s.setReg Reg.telPwr (BitVec.ofNat 64 (x.pin.toNat + x.vin.toNat * 2 ^ 16 + pavg * 2 ^ 32))
  let s := s.setReg Reg.telTemp (BitVec.ofNat 64 (x.tj0.toNat + x.tj1.toNat * 2 ^ 8 + x.tjp.toNat * 2 ^ 16 +
    x.thbm.toNat * 2 ^ 24 + x.tlp.toNat * 2 ^ 32 + x.tin.toNat * 2 ^ 40 + x.tout.toNat * 2 ^ 52))
  let e := x.eavail.toNat
  let s := (s.setFld Reg.holdupStat 15 0 e).setFld Reg.holdupStat 17 17 (!batchPasses e 4194304).toNat
  if batchPasses e 4096 && !s.mgmt.off then s.setFld Reg.holdupStat 16 16 0 else s

/-- The samples of the present 100 ms window with one more, or a new window (R492). -/
def Bonnet.window (b : Bonnet) (x : Sample) (now lim : Nat) : Bonnet :=
  let i := now / 100000000
  let t := max (max x.tj0.toNat x.tj1.toNat) x.tjp.toNat
  if b.win.n ≠ 0 ∧ b.win.idx = i then
    { b with win := { b.win with n := b.win.n + 1, pin := b.win.pin + x.pin.toNat, tmax := max b.win.tmax t } }
  else
    { b with
      last := if b.win.n = 0 then b.last else some b.win
      win := { idx := i, n := 1, pin := x.pin.toNat, tmax := t, lim := lim } }

/-- What Bonnet asks for after a sample taken at clock `mhz`: the k of the input limits, and one step more for the thermal
limit while a sensor has reached its setpoint, one less after 100 ms below every setpoint (R576, R586). -/
def Bonnet.judge (b : Bonnet) (f : Fuses) (x : Sample) (mhz : Nat) (now : W64) : Bonnet :=
  let cool := if sampleCool x then (match b.cool with | some t => some t | none => some now) else none
  let free := match cool with | some t => decide (t.toNat + 100000000 ≤ now.toNat) | none => false
  { b with
    cap := capK f x mhz
    therm := if sampleHot x then min f.kmax (b.therm + 1) else if free then b.therm - 1 else b.therm
    overCap := decide (10 * f.pcap < x.pin.toNat)
    cool := cool }

/-- TELEMETRY_SAMPLE: every telemetry value is sampled and the limits are judged; the store's history takes one sample a
second (R557). (DESIGN CHOICE, log entry 71.) -/
def execTelemetrySample (x : Sample) (now : W64) (s : State) : Out :=
  .next (
    if s.boot.powered = false then s
    else
      let s := s.at_ now
      let pins := (s.bonnet.pins ++ [x.pin.toNat])
      let pins := pins.drop (pins.length - 100)
      let s := s.setReadings x (pins.foldl (· + ·) 0 / pins.length)
      let b := (s.bonnet.window x now.toNat (s.fld Reg.lockedClk 30 28)).judge s.fuse x (s.fld Reg.lockedClk 11 0) now
      let s := { s with bonnet := { b with pins := pins, lastAt := now } }
      let sec := match s.store.hist.getLast? with | some (t, _, _) => decide (t.toNat / 1000000000 < now.toNat / 1000000000) | none => true
      let s := if sec then { s with store := { s.store with hist := ringPush histCap s.store.hist (now, s.reg Reg.telPwr, s.reg Reg.telTemp) } } else s
      s.setLimits)

/-- BONNET_STEP: Bonnet changes k by one toward what the limits ask for, at one edge in all 19 locked domains. While Gauntlet
restarts it holds k, but for the hardware limiter of the fused cap (R41, R468, R525, R536). -/
def execBonnetStep (s : State) : Out :=
  .next (
    let stage := s.fld Reg.bootStat 3 0
    if s.boot.powered = false ∨ stage < 2 ∨ stage = 15 then s
    else
      let k := s.clockK
      if s.gaunt.restarting then
        if s.bonnet.overCap = true ∧ k < s.fuse.kmax then s.setClock (k + 1) else s
      else
        let crung := s.fld Reg.rplPolicy 3 1
        let s := if s.crungBy.length < crung then s.setFld Reg.rplPolicy 3 1 (crung - 1) else s
        let t := s.targetK
        (s.setClock (if k < t then k + 1 else if t < k then k - 1 else k)).setLimits)

end Sys2Proof.Machine
end

