-- ==== Sys2Proof/Machine/Start.lean ====
section
/-!
DEFINITION. Starts (R539 to R548), the link map (R552 to R554), recovery (R545), the module's place in a fabric plan (R568),
and joining, registration and the answers of the fabric manager (R569 to R572).
-/

namespace Sys2Proof.Machine

/-! ## BOOT_STAT -/

/-- STAGE changes, `ms` after power-good; a change to 7, 9 or 15 raises the I3C interrupt (R563). -/
def State.setStage (s : State) (n : Nat) (ms : W32) : State :=
  let s := (s.setFld Reg.bootStat 3 0 n).setFld Reg.bootStat 63 32 ms.toNat
  if n = 7 ∨ n = 9 ∨ n = 15 then s.emit .i3cInterrupt else s

/-- A start that cannot proceed, with a record when the management port is up (R546). (DEDUCED, log entry 74, DEDUCED, log entry
95.) -/
def State.failStart (s : State) (cause : Nat) (mgmtUp : Bool) (ms : W32) : State :=
  let s := ({ s with boot := { s.boot with recovery := false } }.setFld Reg.bootStat 15 8 cause).setStage 15 ms
  if mgmtUp then s.sendRec blkMgmt { cls := Config.startFailed, detail := leBytes 4 cause } else s

/-- The store's saved-settings record names this module as it runs with a firmware image: its serial, its stepping, and the image's
sequencer firmware (R549). (DESIGN CHOICE, log entry 72.) -/
def State.savedFor (s : State) (f : FwImage) : Bool :=
  match s.store.saved with
  | some r => r.serial == s.fuse.serial && r.steppingC0 == s.fuse.steppingC0 && r.seq == f.seq
  | none => false

/-- It does with the image that booted last. -/
def State.savedOk (s : State) : Bool := ((if s.store.lastB then s.store.slotB else s.store.slotA).map s.savedFor).getD false

/-- The boot ROM reads UDS, keeps what the seeds of R459 and SEK come from, and closes the read path (R456). (DESIGN CHOICE, log
entry 126.) -/
def State.deriveSecrets (s : State) : State :=
  { s with gaunt := { s.gaunt with prk := s.fuse.prk, sek := s.fuse.sek, udsOpen := false } }

/-- POWER_GOOD: the first instant after a module reset at which power and MOD_RST# stand. A start begins, warm when the store
holds saved settings of this module; UDS is read and closed; a latched thermal trip ends and TRIP reads 1 (R456, R539, R548,
R584). (DESIGN CHOICE, log entry 8.) -/
def execPowerGood (s : State) : Out :=
  .next (
    if s.boot.powered then s
    else
      let s := { s with boot := { s.boot with powered := true, thermtrip := false } }.retrainHost.deriveSecrets
      let s := (s.setFld Reg.bootStat 5 4 s.savedOk.toNat).setFld Reg.bootStat 16 16 s.store.trip.isSome.toNat
      (s.setStage 0 0).emit (.power true))

/-! ## Ports (R366 to R368, R554) -/

/-- Ports train from stage 4 on, in every start that has not failed, while their rails are on (R542, R554, R578). -/
def State.portsLive (s : State) : Bool :=
  decide (4 ≤ s.stage) && decide (s.stage ≠ 15) && !s.boot.railsOff.contains .vserdes && !s.boot.railsOff.contains .vpdie

/-- Two lists of settings differ by more than one tap step. -/
def tapsMoved (a b : List Nat) : Bool :=
  a.length != b.length || (a.zip b).any (fun (x, y) => decide (x + 1 < y) || decide (y + 1 < x))

/-- The condition under which an item's saved settings are used (R549). -/
def SavedItem.usable (x : SavedItem) (o : ItemTrain) : Bool :=
  match o.item with
  | .hbm _ | .lp _ => decide (o.ref ≤ x.ref + 20) && decide (x.ref ≤ o.ref + 20)
  | .cxl _ => x.ref == o.ref
  | .lane _ | .pcie => true

/-- An item's training: in a start from saved settings the item keeps its own when they may be used and pass their test, and else is
trained in full; its settings are noted for the next record (R544, R549, R550). (DESIGN CHOICE, log entry 72.) -/
def State.trainItem (s : State) (cold : Bool) (o : ItemTrain) : State :=
  let old := if cold then none else
    s.store.saved.bind (fun r => r.items.find? (fun x => x.item == o.item && x.usable o))
  let full := old.isNone || !o.valid
  let moved := match o.item, old with | .lane _, some x => tapsMoved x.taps o.taps | _, _ => false
  { s with boot := { s.boot with
      full := s.boot.full || full, moved := s.boot.moved || moved
      items := s.boot.items.filter (fun x => x.item != o.item) ++ [⟨o.item, o.ref, o.taps⟩] } }

/-- The items that a stage has trained; KIND reads 2 once one of a warm start has been trained in full (R544). -/
def State.trainItems (s : State) (os : List ItemTrain) : State :=
  let cold := s.fld Reg.bootStat 5 4 == 0
  let was := s.boot.full
  let t := os.foldl (fun s o => s.trainItem cold o) { s with boot := { s.boot with full := false } }
  let t' := if t.boot.full && !cold then t.setFld Reg.bootStat 5 4 2 else t
  { t' with boot := { t'.boot with full := t.boot.full || was } }

/-- PORT_TRAINING_COMPLETE: a port that was not up comes up in the width that its lanes allow. After READY it has been trained in
full (R554). -/
def execPortTrainingComplete (n : PortId) (l : LinkState) (items : List ItemTrain) (s : State) : Out :=
  .next (
    if s.portsLive = false ∨ s.portUp n = true ∨ (s.linkFields n l).up = false then s
    else (if s.stage < 7 then s.trainItems items else items.foldl (fun s o => s.trainItem true o) s).setLink n l)

/-- LINK_CHANGE: training finds other lanes on a port, which changes its state. -/
def execLinkChange (n : PortId) (l : LinkState) (s : State) : Out :=
  .next (if s.portsLive then s.setLink n l else s)

/-! ## Engines at a start (R547) -/

/-- The engines that failed a start's BIST or self-test are suspect; each of them and each retired engine that holds a
logical number is replaced. -/
def State.startEngines (s : State) (fails : BitVec 52) : State :=
  let bad := (List.range 52).filter (fun p => fails.getLsbD p && s.fuse.good.getLsbD p && s.fld (Reg.engHealth p) 2 0 != 4)
  let s := bad.foldl (fun s p => s.makeSuspect p) s
  let out := (List.range 52).filter (fun p => bad.contains p || s.fld (Reg.engHealth p) 2 0 == 4)
  out.foldl (fun s p => s.replaceEngine p) s

/-- The mismatches of the start self-test, which joins what NPST_FAIL already shows (R103, R547). -/
def State.startTest (s : State) (fs : List TestFail) : State :=
  if fs = [] then s
  else
    let was := s.reg Reg.npstFail
    let s := s.testFails fs
    fs.foldl (fun s f => s.replaceEngine f.p) (s.setReg Reg.npstFail (s.reg Reg.npstFail ||| was))

/-- Logical numbers that an engine holds. -/
def State.inService (s : State) : Nat := ((List.range 48).filter (fun n => (s.physOf n).isSome)).length

/-! ## The plan (R568) -/

/-- Network tables of a plan go to the inactive copy, and the switch of the copies is requested with the plan's GSHIFT (R379,
R571). A plan's tables are keyed as those of copy 0. -/
def State.installTables (s : State) (p : Plan) : State :=
  let other := 1 - s.swCopy
  let tab := p.tables.foldl (fun t (e : Nat × Bytes) => t.set (e.1 + swKey other 0 0 0) e.2) s.swtab
  { ((s.setFld Reg.swCtl 5 3 p.gshift.toNat).setFld Reg.swCtl 1 1 1) with swtab := tab, swAt := s.time.toNat }

/-- MODULE_ID is set, once per start (R372). -/
def State.setId (s : State) (id : Nat) : State :=
  if s.idValid then s else (s.setFld Reg.moduleId 16 0 id).setFld Reg.moduleId 17 17 1

/-- At stage 5 the location code is looked up in the stored plan: the module takes its identifier and its tables from it, or
it is UNPLACED (R568). -/
def State.placeModule (s : State) : State :=
  let loc := match s.boot.loc with | some l => some l | none => s.store.loc
  let hit := match s.store.plan, loc with
    | some p, some l => (p.places.find? (fun e => e.1 == l)).map (fun e => (p, e.2))
    | _, _ => none
  match hit with
  | some (p, id) => ((s.setId id).installTables p).matchAll
  | none => s.setFld Reg.bootStat 7 7 1

/-- What a JOIN carries: the link map, BOOT_STAT, the measurement digests and the plan's digest (R569), in a layout that is
not laid down. -/
def State.joinData (s : State) : Bytes :=
  Config.layout 1 (s.linkMap ++ leBytes 8 (s.reg Reg.bootStat).toNat ++
    (match s.boot.running with | some f => leBytes 48 f.digest.toNat ++ leBytes 48 f.seq.toNat ++ leBytes 48 f.lib.toNat | none => []) ++
    (match s.store.plan with | some p => leBytes 48 p.digest.toNat | none => []))

/-- At READY of a planned start, a member that does not lead its group sends JOIN to its leader (R569). -/
def State.sendJoin (s : State) : State :=
  match s.leader with
  | some n => if s.store.mrec.mgr && !s.leads then s.emit (.mgmt (.join n s.joinData)) else s
  | none => s

/-! ## Restarts (R453, R468) -/

/-- What the Gauntlet domain's registers read during a restart: what they read when it began, the mailbox BUSY (R594). -/
def State.snapshot (s : State) : Tab W64 :=
  gauntletRegs.map (fun off => (off, match regAt off with
    | some r => BitVec.ofNat 64 (s.view r)
    | none => 0))

/-- The first byte of Gauntlet's SRAM that a restart does not keep: the retention bank is its first 64 KiB (R453). (DESIGN
CHOICE, log entry 126.) -/
def retained : Nat := 65536

/-- Gauntlet and the sequencers restart: both copies start anew, the SRAM outside the retention bank is lost with the records not
acknowledged, the JOINs, the batch in progress and the mailbox buffers, every SPDM session ends, and nothing answers until it
completes (R453, R468, R539). What numbers records and requests, GO and OFF_REQUEST stay in the bank. (DESIGN CHOICE, log entry
126.) -/
def State.beginRestart (s : State) (newImage lockFail : Bool) : State :=
  let s := s.setFld Reg.mbxStat 0 0 1
  { s with
    mgmt := { s.mgmt with unacked := [], joined := [], batch := none, lastTel := none }
    gaunt := { s.gaunt with
      restarting := true, newImage := newImage, lockFail := lockFail, frozen := s.snapshot
      core := {}, twin := {}, sram := s.gaunt.sram.filter (fun e => decide (e.1 < retained)), pieces := []
      mbxReq := [], mbxRsp := [], sess := [], conns := [], signed := [] } }

/-! ## Stages (R542, R546) -/

/-- Both signatures of an image verify, under keys whose digests the fuses hold (R467). -/
def Fuses.trusts (f : Fuses) (i : FwImage) : Bool := i.sigE && i.sigQ && i.keyE == f.rootE && i.keyQ == f.rootQ

/-- The library that an image carries. -/
def libOf (i : FwImage) : Lib := ⟨i.tlibMajor.toNat, i.tlibMinor.toNat, i.lib⟩

/-- Stage 1: the slot that booted last is checked first, then the other; with neither, Gauntlet stays in recovery mode (R545). A
booted image settles with its sequencer firmware whether the start is warm (R539, R549), brings its library, may advance the
fused SVN (R468), and Bonnet stands at the floor. (DESIGN CHOICE, log entry 7.) -/
def State.bootFirmware (s : State) (o : StageOutcome) : State :=
  let ok := fun (b : Bool) => match (if b then s.store.slotB else s.store.slotA) with
    | some f => if s.fuse.trusts f && decide (s.svn ≤ f.svn) && (if b then o.fwBOk else o.fwAOk) then some (f, b) else none
    | none => none
  let pick := match ok s.store.lastB with | some x => some x | none => ok (!s.store.lastB)
  match pick with
  | some (f, b) =>
    let s := { s with
      boot := { s.boot with running := some f }, store := { s.store with lastB := b }
      lib := libOf f
      svn := if f.raiseSvn then max s.svn f.svn else s.svn }
    let s := (s.setFld Reg.bootStat 5 4 (s.savedFor f).toNat).setFld Reg.bootStat 6 6 b.toNat
    ((s.setClock s.fuse.kmax).setFld Reg.lockedClk 31 31 1).setStage 2 o.ms
  | none => { s with boot := { s.boot with recovery := true } }

/-- The thermal trip of the run before is reported (R548). (DEDUCED, log entry 74.) -/
def State.reportTrip (s : State) : State :=
  match s.store.trip with
  | some (sensor, t) =>
    { s with store := { s.store with trip := none } }.sendRec blkMgmt
      { cls := 0x1A, detail := leBytes 4 sensor.toNat ++ leBytes 8 t.toNat }
  | none => s

/-- The granules of Loam on the stack slice of a row (R285, R286). -/
def State.rowGranules (s : State) (r : HbmRow) : List Nat :=
  let k := r.row / 256
  if bit (s.reg Reg.loamRowmode).toNat k then (List.range 6).map (fun i => 12 * k + 6 * (r.stack / 6) + i)
  else (List.range 12).map (fun i => 12 * k + i)

/-- A repair of a row is refused: a granule on its stack slice belongs to a partition that has a resident context (R312). -/
def State.repairRefused (s : State) (r : HbmRow) : Bool :=
  (List.range 8).any (fun q => s.residents q != [] && (s.rowGranules r).any (fun g => s.ownsLoam q (g * 2 ^ 30) 1))

/-- A soft repair of a row, which the store records and every start applies (R312, R551). (DESIGN CHOICE, log entry 124.) -/
def State.softRepair (s : State) (r : HbmRow) : State :=
  if s.repairRefused r = true ∨ s.store.soft.contains r = true then s
  else { s with store := { s.store with soft := s.store.soft ++ [r] }, boot := { s.boot with soft := s.boot.soft ++ [r] } }

/-- A hard repair of a row, which the store records, and with a report when it would use the last spare row of its bank group, of
which each pseudo-channel has 16 (R284, R312, R551). The zero fill of a start follows its repairs (R542). (DESIGN CHOICE, log
entry 124.) -/
def State.hardRepair (s : State) (r : HbmRow) : State :=
  let used := s.store.repairs.filter (fun x => x.stack == r.stack && x.pc == r.pc && x.bg == r.bg)
  if s.repairRefused r = true ∨ s.store.repairs.contains r = true then s
  else if Config.spareRows ≤ used.length + 1 then s.emit (.mgmt (.exhausted r.stack r.bg))
  else { s with store := { s.store with
    marks := s.store.marks.filter (fun x => x != r), repairs := s.store.repairs ++ [r] } }

/-- Stage 4 ends: memories and ports are trained, failing rows are repaired and engines replaced, and the module takes its
place; or the start fails with the lowest cause that holds (R546, R547, R551). (DEDUCED, log entry 74.) -/
def State.endTrain (s : State) (o : StageOutcome) : State :=
  let s := (s.startEngines o.failEng).startTest o.selfFail
  if !o.hbmOk then s.failStart 0x04 o.mgmtUp o.ms
  else if !o.lpOk then s.failStart 0x05 o.mgmtUp o.ms
  else if s.inService < 40 then s.failStart 0x06 o.mgmtUp o.ms
  else if !o.tempOk then s.failStart 0x07 o.mgmtUp o.ms
  else
    let s := s.trainItems o.items
    let s := { s with boot := { s.boot with soft := s.store.soft, cxlCap := o.cxl } }
    let s := o.softRows.foldl (fun s r => s.softRepair r) s
    let s := (o.badRows.filter (fun r => s.store.marks.contains r)).foldl (fun s r => s.hardRepair r) s
    (s.reportTrip.setStage 5 o.ms).placeModule

/-- READY: the link map is complete; an event goes to event ring 8, ports that are not up go on training, and a planned
member joins (R542, R552, R554, R569). (DEDUCED, log entry 76.) -/
def State.enterReady (s : State) (ms : W32) : State :=
  ((((s.setStage 7 ms).event 8 0x0008 []).setPending)).sendJoin

/-- A planned port falls short: it is down, narrower than planned, miscabled, or its neighbour is not heard (R553). -/
def State.portShort (s : State) (p : Plan) : Bool :=
  p.neighbours.any (fun e =>
    !s.portUp e.1 || s.flag (Reg.linkStat e.1) 9 || s.fld (Reg.nbr e.1) 25 24 == 2 || s.fld (Reg.nbr e.1) 25 24 == 3)

/-- The plan of GO: the stored one, or the one whose tables this start has brought, which are used only when their digest is GO's
(R571). (DEDUCED, log entry 75.) -/
def State.goPlan (s : State) (o : StageOutcome) : Option Plan :=
  match s.mgmt.go with
  | none => none
  | some g =>
    let d := g.digest
    match s.store.plan with
    | some p => if p.digest = d then some p else o.plan.filter (fun p => p.digest == d)
    | none => o.plan.filter (fun p => p.digest == d)

/-- GO names a payload of a kind. -/
def State.goes (s : State) (k : PayloadKind) : Bool :=
  match s.mgmt.go with | some g => g.payloads.any (fun p => p.kind == k) | none => false

/-- The firmware that a planned start has brought is activated from Loam when GO names it, it differs from the running one and its
check passes (R467, R571). (DEDUCED, log entry 75.) -/
def State.planFirmware (s : State) (o : StageOutcome) : Option FwImage :=
  o.fw.filter (fun f => s.goes .firmware && s.boot.running != some f && s.fuse.trusts f && decide (s.svn ≤ f.svn))

/-- At JOB_READY an image that was activated from Loam is written to the slot that has not booted (R571). -/
def State.storeLoam (s : State) : State :=
  match s.gaunt.loam with
  | none => s
  | some f =>
    let b := !s.store.lastB
    let st := if b then { s.store with slotB := some f, lastB := b } else { s.store with slotA := some f, lastB := b }
    { s with store := st, gaunt := { s.gaunt with loam := none } }

/-- Stage 8 ends: a new plan is stored and its tables installed, and, unless a planned port falls short and the bind set is not
rate-tolerant, so that the fabric manager receives the link map, the bring-up contexts and the internal ring close and the module
enters JOB_READY (R553, R571, R572). (DEDUCED, log entry 75.) -/
def State.endPlan (s : State) (o : StageOutcome) : State :=
  match s.goPlan o with
  | none => s
  | some p =>
    let s := if s.store.plan = some p then s
      else ({ s with store := { s.store with plan := some p } }.installTables p).matchAll
    if !p.tolerant && s.portShort p then s.emit (.mgmt (.links none s.linkMap))
    else ({ s.closeTilth 0xFFF00 256 with rings := s.rings.del intRing }).storeLoam.setStage 9 o.ms

/-- STAGE_ADVANCE: the activities of the present stage have ended, with their outcome. Stage 2 lasts until BONNET_STEPs have
brought the clock to what the limits allow (R41, R542), the self-test until the end of stage 6, and the CXL ports' PERST# outputs
stay low until stage 4 (R583). (DEDUCED, log entry 74, DEDUCED, log entry 95.) -/
def execStageAdvance (o : StageOutcome) (s : State) : Out :=
  .next (
    if s.boot.powered = false ∨ s.gaunt.restarting = true then s
    else
      let fail (s : State) (cause : Nat) := s.failStart cause o.mgmtUp o.ms
      match s.stage with
      | 0 => if o.tempOk then s.setStage 1 o.ms else fail s 0x07
      | 1 => if o.tempOk = false then fail s 0x07 else if s.boot.recovery then s else s.bootFirmware o
      | 2 =>
        if o.railOk = false ∨ s.boot.railsOff ≠ [] ∨ s.boot.lostRefs ≠ [] then fail s 0x02
        else if o.tempOk = false then fail s 0x07
        else if s.clockK = s.targetK then (s.trainItems o.items).setStage 3 o.ms
        else s
      | 3 =>
        if o.pDieOk = false then fail s 0x03
        else if o.tempOk then { s.startEngines o.failEng with boot := { s.boot with cxlPerst := false } }.setStage 4 o.ms
        else fail s 0x07
      | 4 => s.endTrain o
      | 5 => if o.tempOk then s.setStage 6 o.ms else fail s 0x07
      | 6 =>
        let t := (s.startEngines o.failEng).startTest o.selfFail
        if t.inService < 40 then fail t 0x06 else if o.tempOk then t.enterReady o.ms else fail t 0x07
      | 8 =>
        match s.planFirmware o with
        | some f => { s with gaunt := { s.gaunt with loam := some f } }.beginRestart true false
        | none => s.endPlan o
      | _ => s)

/-- RECOVERY_IMAGE: in recovery mode an image whose check passes is written to slot A and the start begins anew (R545). -/
def execRecoveryImage (img : FwImage) (s : State) : Out :=
  .next (
    if s.boot.recovery && s.fuse.trusts img && decide (s.svn ≤ img.svn) then
      { s with store := { s.store with slotA := some img }, boot := { s.boot with recovery := false } }.setStage 0 0
    else s)

/-- RECOVERY_IMAGE_TIMEOUT: no recovery image has arrived within 600 s (R546). -/
def execRecoveryImageTimeout (mgmtUp : Bool) (s : State) : Out :=
  .next (if s.boot.recovery then s.failStart 0x01 mgmtUp 600000 else s)

/-! ## Joins, registration and the answer (R569, R570) -/

/-- A planned start that has reached READY and awaits the fabric manager's answer; until the answer, or after a HOLD (R570). -/
def State.awaitsGo (s : State) : Bool := s.gauntletUp && s.store.mrec.mgr && s.stage == 7

/-- The module may join and register: it awaits the answer and is not held (R570). -/
def State.mayJoin (s : State) : Bool := s.awaitsGo && s.mgmt.held.isNone

/-- JOIN: a member's JOIN reaches this module, which leads its group or is its deputy, and is acknowledged; or this module's own
JOIN is acknowledged. (DEDUCED, log entry 75.) -/
def execJoin (x : JoinMsg) (s : State) : Out :=
  .next (
    if s.mayJoin = false then s
    else match x with
      | .ack => if s.leads && s.mgmt.boss.isNone then s else { s with mgmt := { s.mgmt with acked := true } }
      | .member nmod =>
        let n := nmod.toNat
        if (s.leads || s.deputy == some s.ownId) && s.group_.contains n && n != s.ownId then
          let s := if s.mgmt.joined.contains n then s else { s with mgmt := { s.mgmt with joined := s.mgmt.joined ++ [n] } }
          s.emit (.mgmt (.joined n))
        else s)

/-- JOIN_TIMEOUT: a member that has had no acknowledgement sends JOIN to the deputy. -/
def execJoinTimeout (s : State) : Out :=
  .next (
    match s.deputy with
    | some n =>
      if s.mayJoin && !s.leads && !s.mgmt.acked && n != s.ownId then s.emit (.mgmt (.join n s.joinData)) else s
    | none => s)

/-- A REGISTER goes out. The fabric manager answers a second one of a group with its acting leader, and this module joins that
leader as a member (R569). (DEDUCED, log entry 75.) -/
def State.register (s : State) (members : List Nat) (absent acting : Option Nat) : State :=
  let s := s.emit (.mgmt (.register members absent))
  match acting with
  | none => { s with mgmt := { s.mgmt with registered := true } }
  | some a => { s with mgmt := { s.mgmt with boss := some a, acked := false } }.emit (.mgmt (.join a s.joinData))

/-- REGISTER: a leader registers its group; a deputy that holds JOINs and has no acknowledgement from the leader registers as acting
leader and names the leader as absent; a module without a place registers directly (R568, R569). `acting` is the acting leader that
the fabric manager names when the group has registered before. -/
def execRegister (acting : Option (BitVec 17)) (s : State) : Out :=
  .next (
    let reg := fun (ms : List Nat) (absent : Option Nat) => s.register ms absent (acting.map (fun a => a.toNat))
    if s.mayJoin = false ∨ s.mgmt.registered = true ∨ s.mgmt.boss.isSome = true then s
    else if s.flag Reg.bootStat 7 then reg [] none
    else if s.leads then reg (s.ownId :: s.mgmt.joined) none
    else if s.deputy = some s.ownId ∧ s.mgmt.joined ≠ [] ∧ s.mgmt.acked = false then reg (s.ownId :: s.mgmt.joined) s.leader
    else s)

/-- The answer of the fabric manager reaches this module: it has registered, or its JOIN is acknowledged by the module that
registers it (R566, R569). -/
def State.answerable (s : State) : Bool := s.awaitsGo && (s.mgmt.registered || s.mgmt.acked)

/-- The answer of the fabric manager is passed to the members that have joined this module (R570). -/
def State.passAnswer (s : State) (x : Answer) : State :=
  if s.mgmt.joined != [] then s.emit (.mgmt (.answer x s.mgmt.joined)) else s

/-- The internal ring opens (R571). (DESIGN CHOICE, log entry 140.) -/
def State.openInternal (s : State) : State := { s with rings := s.rings.set intRing { cfg := 3 + 8 * 8 } }

/-- GO: the module enters PLAN; one without a place takes the identifier that the answer assigns, the internal ring opens, and the
sequencers write the partition layout (R568, R570, R571). (DEDUCED, log entry 75.) -/
def execGo (o : GoOrder) (ms : W32) (s : State) : Out :=
  .next (
    if s.answerable = false then s
    else
      let s := s.passAnswer (.go o)
      let s := match o.assign with
        | some id => if s.flag Reg.bootStat 7 then (s.setId id.toNat).setFld Reg.bootStat 7 7 0 else s
        | none => s
      let s := { s with mgmt := { s.mgmt with go := some o, held := none } }.openInternal.setStage 8 ms
      o.layout.foldl (fun s (w : BitVec 26 × W64) =>
        (s.bar0Write .sequencer w.1.toNat (match regAt w.1.toNat with | some r => r.row.size | none => 4) w.2).1) s)

/-- HOLD: the group waits for GO and does nothing more; the answer names the modules that the job cannot accept. -/
def execHold (mods : List (BitVec 17)) (s : State) : Out :=
  .next (
    if s.answerable = false then s
    else { s with mgmt := { s.mgmt with held := some mods } }.passAnswer (.hold mods))

end Sys2Proof.Machine
end

