-- ==== Sys2Proof/Machine/Gauntlet.lean ====
section
/-!
DEFINITION. Gauntlet: firmware and restarts (R467 to R469, R538), the host mailbox (R470, R471), SPDM and its sessions (R460
to R463), measurements (R464 to R466), and the requests of tenants and of the operator (R475, R481, R485, R488, R490, R492).
-/

namespace Sys2Proof.Machine

/-! ## Keys of the running firmware (R459) -/

/-- "FW": the SHA-384 of the running Gauntlet firmware and its SVN. -/
def State.fwName (s : State) : Bytes :=
  match s.boot.running with | some f => digestBytes f.digest ++ leBytes 8 f.svn | none => []

/-- The seeds of the module's keys, for `q` those of ML-DSA-87 and else those of ECDSA P-384, and the seed of KEM-Q. (PRESUMED,
log entry 80.) -/
def State.devidSeed (s : State) (q : Bool) : Bytes :=
  if q then hkdfExpand s.gaunt.prk (ascii "DEVID-Q") 32 else hkdfExpand s.gaunt.prk (ascii "DEVID-E") 48
def State.aliasSeed (s : State) (q : Bool) : Bytes :=
  if q then hkdfExpand s.gaunt.prk (ascii "ALIAS-Q" ++ s.fwName) 32 else hkdfExpand s.gaunt.prk (ascii "ALIAS-E" ++ s.fwName) 48
def State.kemSeed (s : State) : Bytes := hkdfExpand s.gaunt.prk (ascii "KEM-Q" ++ s.fwName) 64

/-- A certificate chain: the DevID certificate that the store holds, the alias certificate under it, and under Alias-Q that of KEM-Q
(R459). -/
def State.certChain (s : State) (q : Bool) : Bytes :=
  (s.store.ident[q.toNat]?).getD [] ++ Config.aliasCert q (s.devidSeed q) (s.aliasSeed q) ++
  (if q then Config.kemCert (s.aliasSeed true) (Config.kemPub s.kemSeed) else [])

/-- The digest of a certificate chain. -/
def State.chainDigest (s : State) (q : Bool) : Bytes := sha384 (s.certChain q)

/-! ## Restarts (R468, R538) -/

/-- The staged image becomes the running one (R468, R469): its slot has booted, its library is staged for installation, and
it may advance the fused SVN. One that came to Loam stays there until JOB_READY (R571). -/
def State.activateImage (s : State) : State :=
  match s.gaunt.loam, s.gaunt.staged with
  | some f, _ =>
    { s with
      boot := { s.boot with running := some f }, libStaged := some (libOf f)
      svn := if f.raiseSvn then max s.svn f.svn else s.svn }.installLib
  | none, none => s
  | none, some f =>
    let b := !s.store.lastB
    let s := { s with
      gaunt := { s.gaunt with staged := none }
      boot := { s.boot with running := some f }
      store := { s.store with lastB := b }
      libStaged := some (libOf f)
      svn := if f.raiseSvn then max s.svn f.svn else s.svn }
    (s.setFld Reg.bootStat 6 6 b.toNat).installLib

/-- FW_ACTIVATION_COMPLETE: the restart ends. After a disagreement of the copies a record of class 0x19 goes out, and the
retirements that waited for firmware take place (R29).
(DEDUCED, log entry 77.) -/
def execFwActivationComplete (s : State) : Out :=
  .next (
    if s.gaunt.restarting = false then s
    else
      let new := s.gaunt.newImage
      let s := if s.gaunt.lockFail then s.sendRec blkMgmt { cls := 0x19 } else s
      let s := if new then s.activateImage else s
      let s := { s with gaunt := { s.gaunt with restarting := false, newImage := false, lockFail := false, frozen := [] } }
      let s := (List.range 52).foldl (fun s p => if (s.engine p).retireDue then s.retire p else s) s
      if new && s.gaunt.loam.isNone then s.mbxAnswer 0 (mbxResponse 5 []) else s.setFld Reg.mbxStat 0 0 0)

/-- GAUNTLET_LOCKSTEP_RESTART: Gauntlet's two copies disagree (R538). -/
def execGauntletLockstepRestart (s : State) : Out :=
  .next (if s.gauntletUp then s.beginRestart false true else s)

/-- SETUP_POLICY_INSTALL: the setup policy is replaced as a whole (R22). (DESIGN CHOICE, log entry 9.) -/
def execSetupPolicyInstall (pol : Policy) (s : State) : Out :=
  .next (if s.gauntletUp then { s with gaunt := { s.gaunt with policy := pol } } else s)

/-! ## Keys for bundles, rotations and windows -/

/-- A set key serves a partition: a set that the operator joined serves the unsealed ones, a tenant's its own (R487). -/
def SetKey.serves (k : SetKey) (s : State) (q : Nat) : Bool :=
  match k.part with
  | none => !s.sealedPart q
  | some r => r == q

/-- The content key in a bundle's key record of 64 bytes, unwrapped with what a set key gives for its BUNDLE and EPOCH_ID
(R489). -/
def contentKey (sk : BitVec 256) (record : Bytes) : Option Bytes :=
  keyUnwrap (keyOf (hkdf (leBytes 32 sk.toNat) ((record.drop 8).take 16) 32)) (record.drop 24)

/-- UNWRAP's effect, or none where it is refused (R490). (DEDUCED, log entry 82.) -/
def State.unwrapKey (s : State) (record : Bytes) (slot q : Nat) : Option State :=
  if record.length ≠ 64 ∨ slot < 16 ∨ 23 < slot ∨ s.keyInUse slot = true then none
  else match s.setKeys.find? (fun k => k.setid == BitVec.ofNat 64 (record.num 0 8) && k.serves s q) with
    | none => none
    | some k =>
      (contentKey k.sk record).map (fun key => { s with
        keys := s.keys.set slot [keyOf key]
        gcmTag := s.gcmTag.set slot ⟨BitVec.ofNat 64 (record.num 8 8), BitVec.ofNat 64 (record.num 16 8), q⟩ })

/-- A rotation of an enabled partition starts, or is refused (R475). -/
def State.rotatePart (s : State) (q : Nat) : Option State := if s.partOn q then s.startRotation q else none

/-- Window w is set (R430). -/
def State.setHostWindow (s : State) (w base limit : Nat) (rd wr en mod : Bool) (q : Nat) : State :=
  (s.setReg (Reg.hdmaBase w) (BitVec.ofNat 64 (base / 4096 * 4096))).setReg (Reg.hdmaLim w)
    (BitVec.ofNat 64 (en.toNat + 2 * rd.toNat + 4 * wr.toNat + 8 * q + 64 * mod.toNat + limit / 4096 * 4096))

/-- The partition that a window serves while it is enabled. -/
def State.windowPart (s : State) (w : Nat) : Option Nat :=
  let l := (s.reg (Reg.hdmaLim w)).toNat
  if bit l 0 && !bit l 6 then some (bits l 5 3) else none

/-- A window is enabled and serves event ring 8 or a partition other than q. -/
def State.windowTaken (s : State) (w q : Nat) : Bool :=
  s.flag (Reg.hdmaLim w) 0 && s.windowPart w != some q

/-! ## The mailbox (R470, R471) -/

/-- The request in MBX_REQ runs when it is submitted and has the code. -/
def State.mbx (s : State) (code : Nat) (f : State → State) : State :=
  if s.gauntletUp && s.flag Reg.mbxStat 0 && leNat (Mem.bytes s.gaunt.mbxReq 0 2) == code then f s else s

/-- The response to a request that changes the state or is refused. -/
def State.mbxDone (s : State) (code : Nat) (r : Option State) : State :=
  match r with
  | some t => t.mbxAnswer 0 (mbxResponse code [])
  | none => s.mbxAnswer 2 (mbxResponse code [])

/-- MBX_INFO: the certificates' digests and every partition's state, in a layout that is not laid down. -/
def execMbxInfo (s : State) : Out :=
  .next (s.mbx 1 (fun s => s.mbxAnswer 0 (mbxResponse 1 (Config.layout 4 (s.chainDigest false ++ s.chainDigest true ++
    (List.range 8).flatMap (fun q => leBytes 4 (s.reg (Reg.partCtl q)).toNat))))))

/-- MBX_WINDOW: a host DMA window is set, except for a sealed partition. (DEDUCED, log entry 78.) -/
def execMbxWindow (w : Byte) (base limit : W64) (rd wr : Bool) (q : PartId) (mod en : Bool) (s : State) : Out :=
  .next (s.mbx 2 (fun s =>
    let other := match s.windowPart w.toNat with | some r => s.sealedPart r | none => false
    s.mbxDone 2 (if (!mod && s.sealedPart q) || other then none
      else some (s.setHostWindow w.toNat base.toNat limit.toNat rd wr en mod q))))

/-- MBX_UNWRAP: the content key of a bundle's key record for an unsealed partition. -/
def execMbxUnwrap (record : Bytes) (slot : BitVec 6) (q : PartId) (s : State) : Out :=
  .next (s.mbx 3 (fun s => s.mbxDone 3 (if s.sealedPart q then none else s.unwrapKey record slot.toNat q)))

/-- The bytes of a firmware slot (R557). -/
def slotSize : Nat := 64 * 2 ^ 20

/-- FW_STAGE: a piece of an image, the last `len` bytes of the request's payload, is taken at its offset; the last piece brings
the check of the image that the pieces make, and an accepted image is staged in the slot that has not booted, which the
batches of R559 write (R467). (DEDUCED, log entry 77.) -/
def execFwStage (off len : Nat) (img : Option FwImage) (s : State) : Out :=
  .next (s.mbx 4 (fun s =>
    let n := leNat (Mem.bytes s.gaunt.mbxReq 2 2)
    if 4000 < len ∨ n < len ∨ slotSize < off + len then s.mbxAnswer 1 (mbxResponse 4 [])
    else
      let piece := Mem.bytes s.gaunt.mbxReq (4 + n - len) len
      let took (s : State) (m : Mem) : State := { s with gaunt := { s.gaunt with pieces := m } }
      match img with
      | none => (took s (s.gaunt.pieces.store off piece)).mbxAnswer 0 (mbxResponse 4 [])
      | some f =>
        let s := took s []
        if s.fuse.trusts f = false then s.mbxAnswer 3 (mbxResponse 4 [])
        else if f.svn < s.svn then s.mbxAnswer 4 (mbxResponse 4 [])
        else
          let st := if s.store.lastB then { s.store with slotA := some f } else { s.store with slotB := some f }
          { s with store := st, gaunt := { s.gaunt with staged := some f } }.mbxAnswer 0 (mbxResponse 4 [])))

/-- FW_ACTIVATE: Gauntlet restarts with the staged image; without one the request is refused. (DEDUCED, log entry 77.) -/
def execFwActivate (s : State) : Out :=
  .next (s.mbx 5 (fun s =>
    if s.gaunt.staged = none then s.mbxAnswer 2 (mbxResponse 5 [])
    else { s with gaunt := { s.gaunt with loam := none } }.beginRestart true false))

/-- MBX_ROTATE: a key rotation of an unsealed partition (R475). -/
def execMbxRotate (q : PartId) (s : State) : Out :=
  .next (s.mbx 6 (fun s => s.mbxDone 6 (if s.sealedPart q then none else s.rotatePart q)))

/-! ## SPDM (R460 to R462) -/

/-- The bytes of an answer, in a layout that is not laid down. (DESIGN CHOICE, log entry 79.) -/
def SpdmRsp.bytes : SpdmRsp → Bytes
  | .ok data => Config.layout 24 data
  | .blocks bs sig => Config.layout 25 (bs.flatMap (fun b => leBytes 1 b.1 ++ b.2) ++ sig)
  | .err e => Config.layout 26 [match e with
    | .busy => 0 | .unexpected => 1 | .invalid => 2 | .sessionLimit => 3 | .refused => 4 | .auth => 5 | .noSpace => 6 | .decrypt => 7]

/-- The session that a request names, established or not, on its transport. -/
def State.sessionOf (s : State) (m : SpdmSrc) : Option (Nat × Session) :=
  match m.sess with
  | none => none
  | some n => s.gaunt.sess.find? (fun e => e.1 == n && e.2.tr == m.tr)

/-- A session changed. -/
def State.modSession (s : State) (m : SpdmSrc) (f : Session → Session) : State :=
  match m.sess with
  | none => s
  | some n => { s with gaunt := { s.gaunt with sess := s.gaunt.sess.map (fun e => if e.1 = n ∧ e.2.tr = m.tr then (e.1, f e.2) else e) } }

/-- The record of an answer in a session: AES-256-GCM under the key of the response direction, with the session's number as
additional data (R460). (PRESUMED, log entry 80.) -/
def Session.record (x : Session) (n : Nat) (r : SpdmRsp) : Bytes :=
  Config.gcmSeal (spdmKey x.v13 x.rsp) (spdmNonce x.v13 x.rsp x.rspSeq) (leBytes 4 n) r.bytes

/-- The bytes of a request by its code, in a layout that is not laid down; those of a vendor-defined one. (DESIGN CHOICE, log
entry 79.) -/
def spdmReq (code : Nat) (body : Bytes) : Bytes := Config.layout (256 + code) body
def vendorReq (code : Nat) (body : Bytes) : Bytes := spdmReq 0xFE (leBytes 1 code ++ body)

/-- The record that carries a request in a session: AES-256-GCM under the key of the request direction (R460). (PRESUMED, log
entry 80.) -/
def Session.request (x : Session) (n : Nat) (req : Bytes) : Bytes :=
  Config.gcmSeal (spdmKey x.v13 x.req) (spdmNonce x.v13 x.req x.reqSeq) (leBytes 4 n) req

/-- Where a message comes from, without its record. -/
def SpdmSrc.place (m : SpdmSrc) : SpdmSrc := { m with wire := [] }

/-- An answer to an SPDM request: of a session as a record, of any other in the clear. -/
def State.reply (s : State) (m : SpdmSrc) (r : SpdmRsp) : State :=
  match s.sessionOf m with
  | some (n, x) => (s.modSession m (fun x => { x with rspSeq := x.rspSeq + 1 })).emit (.spdm (SpdmSrc.place m) r (x.record n r))
  | none => s.emit (.spdm (SpdmSrc.place m) r [])

/-- A request reaches Gauntlet: over DOE only while the host link is up and the function is enabled. -/
def State.reaches (s : State) (m : SpdmSrc) : Bool :=
  s.boot.powered && decide (2 ≤ s.stage) &&
  (match m.tr with
    | .doe f => !s.boot.hostDown && (f.val == 0 || (s.partx (f.val - 1)).vf)
    | _ => true)

/-- A request in a session has arrived: one more record of the request direction. -/
def State.took (s : State) (m : SpdmSrc) : State := s.modSession m (fun x => { x with reqSeq := x.reqSeq + 1 })

/-- The record that brings a request opens as that request: outside a session there is none (R460). -/
def State.opens (s : State) (m : SpdmSrc) (req : Bytes) : Bool :=
  match s.sessionOf m with | some (n, x) => m.wire == x.request n req | none => true

/-- A session's end: what it had signed goes with it. -/
def State.dropSession (s : State) (m : SpdmSrc) : State :=
  match m.sess with
  | none => s
  | some n => { s with gaunt := { s.gaunt with
      sess := s.gaunt.sess.del n, signed := s.gaunt.signed.filter (fun e => e.1.sess != some n) } }

/-- A request is answered: Busy during a restart (R468); one whose record does not open ends its session (DSP0277). (DESIGN CHOICE,
log entry 79, PRESUMED, log entry 80.) -/
def State.spdm (s : State) (m : SpdmSrc) (req : Bytes) (f : State → State) : State :=
  if !s.reaches m then s
  else if s.gaunt.restarting then s.reply m (.err .busy)
  else if s.opens m req then f (s.took m)
  else (s.reply m (.err .decrypt)).dropSession m

/-- The session that a request arrives in, when FINISH has completed it. -/
def State.session (s : State) (m : SpdmSrc) : Option Session :=
  match s.sessionOf m with
  | some (_, x) => if x.up then some x else none
  | none => none

/-- The negotiation of a transport. -/
def State.conn (s : State) (t : Transport) : Conn :=
  match s.gaunt.conns.find? (fun e => e.1 == t) with | some (_, c) => c | none => {}

/-- The step of the negotiation that a transport has reached. -/
def State.negotiation (s : State) (t : Transport) : Nat := (s.conn t).step

/-- The negotiation of a transport at a step, with one more message in its transcript. -/
def State.setNegotiation (s : State) (t : Transport) (n : Nat) (v13 : Bool) (msg : Bytes) : State :=
  let th := if n = 1 then msg else (s.conn t).th ++ msg
  { s with gaunt := { s.gaunt with conns := (t, ⟨n, v13, th⟩) :: s.gaunt.conns.filter (fun e => e.1 != t) } }

/-- A request may follow the negotiation: outside a session after NEGOTIATE_ALGORITHMS, inside one once it stands. -/
def State.negotiated (s : State) (m : SpdmSrc) : Bool :=
  match m.sess with
  | none => s.negotiation m.tr == 3
  | some _ => (s.session m).isSome

/-- A response signed with Alias-E: the signature, and its transcript kept for DUAL_SIGN. -/
def State.signed (s : State) (m : SpdmSrc) (msg : Bytes) : State × Bytes :=
  ({ s with
      fresh := s.fresh + 1
      gaunt := { s.gaunt with signed := (SpdmSrc.place m, Config.sha384 msg) :: s.gaunt.signed.filter (fun e => e.1 != SpdmSrc.place m) } },
   Config.sign false (s.aliasSeed false) msg s.fresh)

/-- GET_VERSION: versions 1.2 and 1.3, outside any session; the negotiation starts. -/
def execGetVersion (m : SpdmSrc) (s : State) : Out :=
  .next (s.spdm m (spdmReq 0x84 []) (fun s =>
    let msg := Config.layout 10 [0x12, 0x13]
    if m.sess = none then (s.setNegotiation m.tr 1 false msg).reply m (.ok msg)
    else s.reply m (.err .unexpected)))

/-- GET_CAPABILITIES follows GET_VERSION, under the version that the requester has chosen. -/
def execGetCapabilities (m : SpdmSrc) (v13 : Bool) (s : State) : Out :=
  .next (s.spdm m (spdmReq 0xE1 (leBytes 1 v13.toNat)) (fun s =>
    let msg := Config.layout 11 [BitVec.ofNat 8 v13.toNat]
    if m.sess = none ∧ s.negotiation m.tr = 1 then (s.setNegotiation m.tr 2 v13 msg).reply m (.ok msg)
    else s.reply m (.err .unexpected)))

/-- NEGOTIATE_ALGORITHMS follows GET_CAPABILITIES. `common` says that the requester offers the algorithms of R460; without
them none is chosen and the negotiation stays where it is. -/
def execNegotiateAlgorithms (m : SpdmSrc) (common : Bool) (s : State) : Out :=
  .next (s.spdm m (spdmReq 0xE3 (leBytes 1 common.toNat)) (fun s =>
    let msg := Config.layout 12 [BitVec.ofNat 8 common.toNat]
    if m.sess = none ∧ s.negotiation m.tr = 2 then
      (if common then s.setNegotiation m.tr 3 (s.conn m.tr).v13 msg else s).reply m (.ok msg)
    else s.reply m (.err .unexpected)))

/-- GET_DIGESTS: the digest of the certificate chain. -/
def execGetDigests (m : SpdmSrc) (s : State) : Out :=
  .next (s.spdm m (spdmReq 0x81 []) (fun s =>
    s.reply m (if s.negotiated m then .ok (s.chainDigest false) else .err .unexpected)))

/-- GET_CERTIFICATE: `len` bytes of the chain from `off`. -/
def execGetCertificate (m : SpdmSrc) (off len : BitVec 16) (s : State) : Out :=
  .next (s.spdm m (spdmReq 0x82 (leBytes 2 off.toNat ++ leBytes 2 len.toNat)) (fun s =>
    s.reply m (if s.negotiated m then .ok (((s.certChain false).drop off.toNat).take len.toNat) else .err .unexpected)))

/-- CHALLENGE: the chain's digest and the nonce, signed with Alias-E. -/
def execChallenge (m : SpdmSrc) (nonce : BitVec 256) (s : State) : Out :=
  .next (s.spdm m (spdmReq 0x83 (leBytes 32 nonce.toNat)) (fun s =>
    if s.negotiated m then
      let msg := Config.layout 13 (s.chainDigest false ++ leBytes 32 nonce.toNat)
      let (t, sig) := s.signed m msg
      t.reply m (.ok (msg ++ sig))
    else s.reply m (.err .unexpected)))

/-! ## Measurements (R464 to R466) -/

/-- The digest of a library, with its version. -/
def libDigest (l : Lib) : Bytes := sha384 (digestBytes l.hash ++ leBytes 1 l.major ++ leBytes 1 l.minor)

/-- The digests of a firmware image: indices 2, 3 and 4. -/
def FwImage.digests (f : Option FwImage) : List Bytes :=
  match f with
  | some f => [sha384 (digestBytes f.digest ++ leBytes 8 f.svn), digestBytes f.seq, libDigest (libOf f)]
  | none => [[], [], []]

/-- Index 6: the fuse configuration, in a bit layout that is not laid down. -/
def State.fuseBlock (s : State) : Bytes :=
  Config.layout 14 (leBytes 1 s.fuse.binS.toNat ++ leBytes 1 (if s.fuse.steppingC0 then 2 else 1) ++
    leBytes 8 (~~~ s.fuse.good).toNat ++ leBytes 8 s.fuse.spares.toNat ++ leBytes 2 s.fuse.pcap ++ leBytes 8 s.svn)

/-- Index 7: MODULE_ID, DET_CTL, NUMPROF, UPDATE and the engines in reset. -/
def State.moduleBlock (s : State) : Bytes :=
  let np := match regAt Reg.numprof with | some r => s.view r | none => 0
  Config.layout 15 (leBytes 4 (s.reg Reg.moduleId).toNat ++ leBytes 4 (s.reg Reg.detCtl).toNat ++ leBytes 8 np ++
    leBytes 1 s.gaunt.staged.isSome.toNat ++ leBytes 8 s.engSet.toNat)

/-- A partition resets, or has a context on an engine whose set resets (R466). -/
def State.reportsReset (s : State) (q : Nat) : Bool :=
  s.resetting q || (s.flag Reg.engsetRst 53 && s.engParts.contains q)

/-- Index 16 + q. -/
def State.partBlock (s : State) (q : Nat) : Bytes :=
  Config.layout 16 (leBytes 1 (s.partOn q).toNat ++ leBytes 1 (s.sealedPart q).toNat ++ leBytes 1 (s.reportsReset q).toNat ++
    leBytes 8 (s.reg (Reg.partEng q)).toNat ++ leBytes 8 (s.reg (Reg.partMem q)).toNat ++ leBytes 8 (s.reg (Reg.partTilth q)).toNat ++
    leBytes 8 (s.reg (Reg.partRing q)).toNat ++ leBytes 8 (s.reg (Reg.partWin q)).toNat ++ leBytes 1 (s.fld (Reg.rotStat q) 1 1) ++
    leBytes 4 (s.partx q).resets.toNat ++ leBytes 4 (BitVec.toNat (s.partx q).debug))

/-- The measurement blocks by index; those of a staged image only while one is staged (R465). -/
def State.measurements (s : State) : List (Nat × Bytes) :=
  [(1, sha384 Config.rom)] ++
  [2, 3].zip (FwImage.digests s.boot.running) ++
  [(4, libDigest s.lib), (5, digestBytes s.gaunt.policy.digest), (6, s.fuseBlock), (7, s.moduleBlock)] ++
  (List.range 8).map (fun q => (16 + q, s.partBlock q)) ++
  (if s.gaunt.staged.isSome then [0x82, 0x83, 0x84].zip (FwImage.digests s.gaunt.staged) else [])

/-- GET_MEASUREMENTS: every block, signed with Alias-E over the blocks and the nonce (R464). -/
def execGetMeasurements (m : SpdmSrc) (nonce : BitVec 256) (s : State) : Out :=
  .next (s.spdm m (spdmReq 0xE0 (leBytes 32 nonce.toNat)) (fun s =>
    if s.negotiated m then
      let bs := s.measurements
      let (t, sig) := s.signed m (bs.flatMap (fun b => leBytes 1 b.1 ++ b.2) ++ leBytes 32 nonce.toNat)
      t.reply m (.blocks bs sig)
    else s.reply m (.err .unexpected)))

/-! ## Sessions -/

/-- There is room for one more session: 32 at once, 2 on each function's DOE mailbox (R460). -/
def State.sessionRoom (s : State) (t : Transport) : Bool :=
  decide (s.gaunt.sess.length < 32) &&
  (match t with
    | .doe _ => decide ((s.gaunt.sess.filter (fun e => e.2.tr == t)).length < 2)
    | _ => true)

/-- The secrets of a session's two directions, from a secret and the transcript: those of the handshake, or those of the
session's data. (PRESUMED, log entry 80.) -/
def Session.directions (x : Session) (from_ : Bytes) (hs : Bool) : Session :=
  let h := sha384 x.th
  { x with
    req := spdmSecret x.v13 from_ (if hs then "req hs data" else "req app data") h
    rsp := spdmSecret x.v13 from_ (if hs then "rsp hs data" else "rsp app data") h
    reqSeq := 0, rspSeq := 0 }

/-- A session after KEY_EXCHANGE: the ECDHE secret gives the handshake secret, and that the master secret (DSP0277). (PRESUMED,
log entry 80.) -/
def Session.agreed (x : Session) (dhe : Bytes) : Session :=
  let hs := hkdfExtract (List.replicate 48 0) dhe
  { x with secret := hkdfExtract (spdmSecret x.v13 hs "derived" []) (List.replicate 48 0) }.directions hs true

/-- The MAC that FINISH must carry: HMAC under the finished key of the request direction over the transcript. -/
def Session.finishMac (x : Session) : Bytes := hmac384 (spdmSecret x.v13 x.req "finished" []) (sha384 x.th)

/-- A direction's secret after a key update. -/
def Session.updated (x : Session) (secret : Bytes) : Bytes := spdmSecret x.v13 secret "traffic upd" []

/-- KEY_EXCHANGE: a session begins, with the lowest free number; the response is signed. A public value of secp384r1 is 96
bytes. -/
def execKeyExchange (m : SpdmSrc) (pub : Bytes) (s : State) : Out :=
  .next (s.spdm m (spdmReq 0xE4 pub) (fun s =>
    if m.sess ≠ none ∨ s.negotiated m = false then s.reply m (.err .unexpected)
    else if pub.length ≠ 96 then s.reply m (.err .invalid)
    else if s.sessionRoom m.tr = false then s.reply m (.err .sessionLimit)
    else
      let n := ((List.range 33).find? (fun n => !s.gaunt.sess.any (fun e => e.1 == n))).getD 33
      let priv := digestBytes (Config.random s.fresh)
      let msg := Config.layout 17 (leBytes 4 n ++ pub ++ Config.ecdhPub priv)
      let (t, sig) := { s with fresh := s.fresh + 1 }.signed m msg
      let new : Session := { tr := m.tr, v13 := (s.conn m.tr).v13, th := (s.conn m.tr).th ++ s.chainDigest false ++ msg ++ sig }
      let new := new.agreed (Config.ecdh priv pub)
      { t with gaunt := { t.gaunt with sess := t.gaunt.sess.set n new } }.reply m (.ok (msg ++ sig))))

/-- The requester has proved itself as the operator: its chain begins at a key whose digest the ownership record holds and
certifies the key that has signed the session's transcript (R460, R463). (PRESUMED, log entry 80.) -/
def State.provesOperator (s : State) (x : Session) (c : Requester) : Bool :=
  match s.store.owner with
  | some o => Config.sha384 c.root == o.caE && Config.chains c.root c.chain c.leaf && Config.signed c.leaf x.th c.sig
  | none => false

/-- FINISH: the session's handshake completes with a right MAC, and its data keys follow; else it ends. `opCert` is what the
requester has shown in an encapsulated exchange (R460, R463). -/
def execFinish (m : SpdmSrc) (mac : Bytes) (opCert : Option Requester) (s : State) : Out :=
  .next (s.spdm m (spdmReq 0xE5 mac) (fun s =>
    match s.sessionOf m with
    | none => s.reply m (.err .unexpected)
    | some (_, x) =>
      if x.up then s.reply m (.err .unexpected)
      else if mac = x.finishMac then
        (s.reply m (.ok (Config.layout 18 []))).modSession m (fun x =>
          { x with up := true, auth := (opCert.map (s.provesOperator x)).getD false, th := x.th ++ mac }.directions x.secret false)
      else (s.reply m (.err .auth)).dropSession m))

/-- A request inside a session that stands. -/
def State.inSession (s : State) (m : SpdmSrc) (req : Bytes) (f : State → Session → State) : State :=
  s.spdm m req (fun s => match s.session m with | some x => f s x | none => s.reply m (.err .unexpected))

/-- KEY_UPDATE: the keys of the request direction, or of both, are derived anew. -/
def execKeyUpdate (m : SpdmSrc) (all : Bool) (s : State) : Out :=
  .next (s.inSession m (spdmReq 0xE9 (leBytes 1 all.toNat)) (fun s _ =>
    (s.modSession m (fun x =>
      let y := { x with req := x.updated x.req, reqSeq := 0 }
      if all then { y with rsp := x.updated x.rsp, rspSeq := 0 } else y)).reply m (.ok (Config.layout 19 []))))

/-- END_SESSION. -/
def execEndSession (m : SpdmSrc) (s : State) : Out :=
  .next (s.inSession m (spdmReq 0xEC []) (fun s _ => (s.reply m (.ok (Config.layout 21 []))).dropSession m))

/-- A session bound to an ML-KEM shared secret: HKDF with the old master secret as salt gives the new one, and the data secrets
that it gives are updated as by a key update (R462). (PRESUMED, log entry 80.) -/
def Session.bound (x : Session) (k : Bytes) : Session :=
  let y := { x with pq := true, secret := hkdfExtract x.secret k }
  let y := y.directions y.secret false
  { y with req := y.updated y.req, rsp := y.updated y.rsp }

/-- The bytes of the operator's settings in a request. -/
def mgmtBytes : Option MgmtSet → Bytes
  | none => []
  | some x => x.ports.flatMap (leBytes 2) ++
    (match x.collector with | some (a, e, t) => leBytes 16 a.toNat ++ leBytes 2 e ++ leBytes 2 t | none => []) ++
    leBytes 2 x.telPeriod ++ leBytes 7 x.release.toNat

/-- PQ_BIND: the requester has encapsulated to KEM-Q; the answer goes out under the present keys. -/
def execPqBind (m : SpdmSrc) (ct : Bytes) (s : State) : Out :=
  .next (s.inSession m (vendorReq 0x01 ct) (fun s _ =>
    if ct.length ≠ 1568 then s.reply m (.err .refused)
    else (s.reply m (.ok (Config.layout 22 []))).modSession m (fun x => x.bound (Config.kemDecaps s.kemSeed ct))))

/-- DUAL_SIGN: the Alias-Q chain and a signature over the transcript of the last signed response; in any session or none
(R461). -/
def execDualSign (m : SpdmSrc) (s : State) : Out :=
  .next (s.spdm m (vendorReq 0x02 []) (fun s =>
    match s.gaunt.signed.find? (fun e => e.1 == SpdmSrc.place m) with
    | some (_, h) =>
      if m.sess ≠ none ∧ s.session m = none then s.reply m (.err .unexpected)
      else { s with fresh := s.fresh + 1 }.reply m
        (.ok (s.certChain true ++ Config.sign true (s.aliasSeed true) (digestBytes h) s.fresh))
    | none => s.reply m (.err .unexpected)))

/-! ## Tenants and the operator (R461) -/

/-- The partition whose tenant a request comes from: a PQ-bound session on VFk's DOE. -/
def State.tenant (s : State) (m : SpdmSrc) : Option Nat :=
  match m.tr, s.session m with
  | .doe f, some x => if f.val ≠ 0 ∧ x.pq then some (f.val - 1) else none
  | _, _ => none

/-- A request comes from a PQ-bound session on a management transport. -/
def State.management (s : State) (m : SpdmSrc) : Bool :=
  match m.tr, s.session m with
  | .doe _, _ => false
  | _, some x => x.pq
  | _, none => false

/-- A request comes from the operator: a management session that has authenticated its requester (R463). -/
def State.operator (s : State) (m : SpdmSrc) : Bool :=
  s.management m && (match s.session m with | some x => x.auth | none => false)

/-- A vendor request of a tenant, with its partition; UnexpectedRequest from any other source. -/
def State.byTenant (s : State) (m : SpdmSrc) (req : Bytes) (f : State → Nat → State) : State :=
  s.spdm m req (fun s => match s.tenant m with | some q => f s q | none => s.reply m (.err .unexpected))

/-- The answer to a request that changes the state or is refused. -/
def State.answer (s : State) (m : SpdmSrc) (r : Option State) : State :=
  match r with
  | some t => t.reply m (.ok [])
  | none => s.reply m (.err .refused)

/-- SEAL: the partition is cleared with fresh keys, takes the tenant's keys, and is sealed when the clearing completes
(R481). -/
def execSeal (m : SpdmSrc) (dxk : BitVec 256) (imgAlg : Bool) (imgKey : BitVec 384) (s : State) : Out :=
  .next (s.byTenant m (vendorReq 0x10 (leBytes 32 dxk.toNat ++ leBytes 1 imgAlg.toNat ++ digestBytes imgKey)) (fun s q =>
    s.answer m (
      if (s.partx q).tdi == .locked && s.partOn q && !s.resetting q && s.residents q == [] then
        let s := ((s.freshKeys q).startClear q .seal).setFld (Reg.sealStat q) 2 2 imgAlg.toNat
        some (s.modPartx q (fun x => { x with dxk := dxk, imgKey := imgKey, resets := 0, debug := 0, dbgctr := 0 }))
      else none)))

/-- UNSEAL: the tenant's partition is unsealed (R485). -/
def execUnseal (m : SpdmSrc) (s : State) : Out :=
  .next (s.byTenant m (vendorReq 0x11 []) (fun s q => s.answer m (if s.sealedPart q then some (s.unsealPart q false) else none)))

/-- Settings that the operator may make: the ports of the four services, and a TEL_PERIOD of 10 ms to 1,000 ms (R562, R565). -/
def MgmtSet.ok (x : MgmtSet) : Bool :=
  x.ports.length == 4 && x.ports.all (fun k => decide (k < 65536)) && decide (10 ≤ x.telPeriod) && decide (x.telPeriod ≤ 1000)

/-- The management record with the operator's settings. -/
def MgmtRec.with (r : MgmtRec) (x : MgmtSet) : MgmtRec :=
  { r with ports := x.ports, collector := x.collector, telPeriod := x.telPeriod }

/-- The operator releases retired engines: one that holds no context is an unassigned spare again, at its rung (R525). (DESIGN
CHOICE, log entry 125.) -/
def State.releaseEngines (s : State) (set : BitVec 52) : State :=
  (List.range 52).foldl (fun s p =>
    if set.getLsbD p && s.fld (Reg.engHealth p) 2 0 == 4 && (List.range 4).all (fun c => !(s.ctx p c).resident) then
      ((s.modEngine p (fun e => { e with kept := none })).setFld (Reg.engHealth p) 2 0 1).orReg Reg.spareSet (2 ^ p)
    else s) s

/-- HEARTBEAT: the session is alive. In the operator's session it may bring the settings that the operator makes and the engines
that it releases, for which the table has no row of their own (R525, R562, R565). (DESIGN CHOICE, log entry 125.) -/
def execHeartbeat (m : SpdmSrc) (cfg : Option MgmtSet) (s : State) : Out :=
  .next (s.inSession m (spdmReq 0xE8 (mgmtBytes cfg)) (fun s _ =>
    match cfg with
    | none => s.reply m (.ok (Config.layout 20 []))
    | some x =>
      if s.operator m = false then s.reply m (.err .unexpected)
      else if MgmtSet.ok x then
        (({ s with store := { s.store with mrec := s.store.mrec.with x } }.releaseEngines x.release).reply m
          (.ok (Config.layout 20 [])))
      else s.reply m (.err .refused)))

/-- FORCE_UNSEAL: the operator unseals a sealed partition (R485). -/
def execForceUnseal (m : SpdmSrc) (q : PartId) (s : State) : Out :=
  .next (s.spdm m (vendorReq 0x30 (leBytes 1 q.val)) (fun s =>
    if s.operator m then s.answer m (if s.sealedPart q then some (s.unsealPart q true) else none)
    else s.reply m (.err .unexpected)))

/-- SET_WINDOW: the tenant grants or ends a host DMA window of its partition; a window that serves another is refused.
(DEDUCED, log entry 78.) -/
def execSetWindow (m : SpdmSrc) (w : Byte) (base limit : W64) (rd wr en : Bool) (s : State) : Out :=
  .next (s.byTenant m (vendorReq 0x12 ([w] ++ leBytes 8 base.toNat ++ leBytes 8 limit.toNat ++ [rd, wr, en].flatMap (fun b => leBytes 1 b.toNat))) (fun s q =>
    s.answer m (if s.windowTaken w.toNat q then none
      else some (s.setHostWindow w.toNat base.toNat limit.toNat rd wr en false q))))

/-- A counter as a tenant sees it (R492). -/
def coarse (v : Nat) : Nat := if v = 2 ^ 64 - 1 then v else v / 4096 * 4096

/-- The RSAT counters of an engine. -/
def engineCounters (p : Nat) : List Nat :=
  [Reg.arrChkfail p, Reg.arrLoadfail p, Reg.vecResfail p, Reg.vecParfail p, Reg.redDupfail p, Reg.ccLockfail p, Reg.ccEcccor p,
   Reg.cuffIlfail p, Reg.sramEcccor p, Reg.sramEccunc p] ++ (List.range 4).map (Reg.redNfcnt p)

/-- What TELEMETRY returns to partition q's tenant (R492): its counters in steps of 4,096, and of the last whole 100 ms window
the mean power in steps of 25 W, the highest junction temperature in steps of 5 °C, and the limits. -/
def State.tenantView (s : State) (q : Nat) : List Nat × Nat × Nat × Nat :=
  let engines := ((List.range 48).filter (fun n => bit (s.reg (Reg.partEng q)).toNat n)).filterMap s.physOf
  let counters := [Reg.dglLost q, Reg.rollOperr q, Reg.evrLost q] ++ engines.flatMap engineCounters
  let w := s.bonnet.last.getD {}
  (counters.map (fun r => coarse (s.reg r).toNat), w.pin / (w.n * 250) * 25, w.tmax / 5 * 5, w.lim)

/-- TELEMETRY: the coarsened values, in a layout that is not laid down. -/
def execTelemetry (m : SpdmSrc) (s : State) : Out :=
  .next (s.byTenant m (vendorReq 0x13 []) (fun s q =>
    let v := s.tenantView q
    s.reply m (.ok (Config.layout 6 (v.1.flatMap (leBytes 8) ++ leBytes 4 v.2.1 ++ leBytes 1 v.2.2.1 ++ leBytes 1 v.2.2.2)))))

/-- A request that the operator makes for an unsealed partition, or a tenant for its own. -/
def State.mayServe (s : State) (m : SpdmSrc) (q : Nat) : Bool :=
  match s.tenant m with
  | some k => k == q
  | none => !s.sealedPart q

/-- A request of the operator or of a tenant; UnexpectedRequest from any other source. -/
def State.byEither (s : State) (m : SpdmSrc) (req : Bytes) (f : State → State) : State :=
  s.spdm m req (fun s => if s.operator m || (s.tenant m).isSome then f s else s.reply m (.err .unexpected))

/-- UNWRAP: the content key of a bundle's key record goes into a GCM slot (R490). -/
def execUnwrap (m : SpdmSrc) (record : Bytes) (slot : BitVec 6) (q : PartId) (s : State) : Out :=
  .next (s.byEither m (vendorReq 0x14 (record ++ leBytes 1 slot.toNat ++ leBytes 1 q.val)) (fun s =>
    s.answer m (if s.mayServe m q then s.unwrapKey record slot.toNat q else none)))

/-- ROTATE: a key rotation of a partition starts (R475, R482). -/
def execRotate (m : SpdmSrc) (q : PartId) (s : State) : Out :=
  .next (s.byEither m (vendorReq 0x15 (leBytes 1 q.val)) (fun s => s.answer m (if s.mayServe m q then s.rotatePart q else none)))

/-- The set key that SET_JOIN carries, unwrapped with what its two shared secrets give (R488); the P-384 key of the module is
Alias-E's. (DESIGN CHOICE, log entry 82.) -/
def State.setSecret (s : State) (setid : W64) (pub ct wrapped : Bytes) : Option Bytes :=
  if pub.length ≠ 96 ∨ ct.length ≠ 1568 then none
  else
    let k := hkdf (Config.ecdh (s.aliasSeed false) pub ++ Config.kemDecaps s.kemSeed ct)
      (ascii "OLIWICK-SET" ++ leBytes 8 setid.toNat ++ leBytes 8 s.fuse.serial.toNat) 32
    keyUnwrap (keyOf k) wrapped

/-- SET_JOIN: a set key is taken. A set under a SETID that is held takes its place, and a seventeenth is refused with NO_SPACE
(R487, R488). (DEDUCED, log entry 82.) -/
def execSetJoin (m : SpdmSrc) (setid : W64) (pub ct wrapped : Bytes) (s : State) : Out :=
  .next (s.byEither m (vendorReq 0x20 (leBytes 8 setid.toNat ++ pub ++ ct ++ wrapped)) (fun s =>
    let rest := s.setKeys.filter (fun k => k.setid != setid)
    match s.setSecret setid pub ct wrapped with
    | none => s.reply m (.err .refused)
    | some sk =>
      if 16 ≤ rest.length then s.reply m (.err .noSpace)
      else { s with setKeys := rest ++ [(⟨setid, keyOf sk, s.tenant m⟩ : SetKey)] }.reply m (.ok [])))

/-- OWN: the ownership record is made while none exists (R463). (DEDUCED, log entry 81.) -/
def execOwn (m : SpdmSrc) (caE caQ mac : BitVec 384) (s : State) : Out :=
  .next (s.spdm m (vendorReq 0x31 ([caE, caQ, mac].flatMap digestBytes)) (fun s =>
    if s.management m then
      s.answer m (if s.store.owner.isSome then none else some { s with store := { s.store with owner := some ⟨caE, caQ, mac⟩ } })
    else s.reply m (.err .unexpected)))

/-- OWNER_RELEASE: the ownership record goes when the operator has signed with both keys, and no session is the operator's any
more (R463). (DEDUCED, log entry 81.) -/
def execOwnerRelease (m : SpdmSrc) (sigE sigQ : Bool) (s : State) : Out :=
  .next (s.spdm m (vendorReq 0x31 ([sigE, sigQ].flatMap (fun b => leBytes 1 b.toNat))) (fun s =>
    if s.management m then
      s.answer m (
        if s.store.owner.isSome && sigE && sigQ then
          some { s with
            store := { s.store with owner := none }
            gaunt := { s.gaunt with sess := s.gaunt.sess.map (fun (e : Nat × Session) => (e.1, { e.2 with auth := false })) } }
        else none)
    else s.reply m (.err .unexpected)))

end Sys2Proof.Machine
end

