-- ==== Sys2Proof/Machine/Manage.lean ====
section
/-!
DEFINITION. The management services: LLDP and the link map (R567, R552), error records on their way to the collector (R532 to
R534), telemetry datagrams (R565), the messages of the board controller (R563), and PTP (R403).
-/

namespace Sys2Proof.Machine

/-! ## LLDP (R567) -/

/-- The addresses of the management port: the static ones of the management record once an operator owns the module, and else
those of SLAAC and DHCP (R561). (DESIGN CHOICE, log entry 125.) -/
def State.mgmtV6 (s : State) : BitVec 128 :=
  match s.store.owner, s.store.mrec.v6 with | some _, some a => a | _, _ => Config.slaacAddr s.fuse.serial
def State.mgmtV4 (s : State) : BitVec 32 :=
  match s.store.owner, s.store.mrec.v4 with | some _, some a => a | _, _ => Config.dhcpAddr s.fuse.serial

/-- A TLV of IEEE 802.1AB, and an organizationally specific one under Gontaist's OUI, which is not laid down. (PRESUMED, log
entry 120.) -/
def lldpTlv (typ : Nat) (v : Bytes) : Bytes := beBytes 2 (typ * 512 + v.length) ++ v
def lldpOrg (subtype : Byte) (v : Bytes) : Bytes := lldpTlv 127 ((Config.layout 30 []).take 3 ++ [subtype] ++ v)

/-- "Pnn" or "Pnn.s". -/
def portName (n : Nat) (sub : Option Bool) : Bytes :=
  ascii "P" ++ [BitVec.ofNat 8 (48 + n / 10), BitVec.ofNat 8 (48 + n % 10)] ++
  (match sub with | some b => ascii "." ++ [BitVec.ofNat 8 (48 + b.toNat)] | none => [])

/-- A port's LLDP frame: the chassis and port identifiers, the time to live, and the TLVs IDENTITY, PORT, STATE and MGMT. How
PORT's five values share four bytes is not laid down. (PRESUMED, log entry 120, DESIGN CHOICE, log entry 84.) -/
def State.lldpFrame (s : State) (n : Nat) (sub : Bool) : Bytes :=
  let mode := s.fld (Reg.portCfg n) 1 0
  let loc := (match s.boot.loc with | some l => some l | none => s.store.loc).getD 0
  [0x01, 0x80, 0xC2, 0, 0, 0x0E] ++ s.srcMac (2 * n + sub.toNat) ++ beBytes 2 0x88CC ++
  lldpTlv 1 ([7] ++ leBytes 8 s.fuse.serial.toNat) ++
  lldpTlv 2 ([7] ++ portName n (if mode = 1 then some sub else none)) ++ lldpTlv 3 (beBytes 2 120) ++
  lldpOrg 1 (leBytes 8 s.fuse.serial.toNat ++ leBytes 4 (s.ownId + 2 ^ 31 * s.idValid.toNat) ++ leBytes 4 loc.toNat) ++
  lldpOrg 2 ((Config.layout 32 ([n, sub.toNat, mode, s.fld (Reg.linkStat n) 2 1, s.fld (Reg.linkStat n) 4 3].flatMap (leBytes 1))).take 4) ++
  lldpOrg 3 (leBytes 1 s.stage ++ leBytes 1 (s.fld Reg.bootStat 5 4) ++ [0, 0] ++
    (match s.store.plan with | some p => (digestBytes p.digest).take 16 | none => List.replicate 16 0)) ++
  lldpOrg 4 (beBytes 16 s.mgmtV6.toNat) ++ lldpTlv 0 []

/-- LLDP_TRANSMIT: the timer of an up port comes round; each of its sub-ports that is up sends (R369, R371). (DESIGN CHOICE,
log entry 84.) -/
def execLldpTransmit (n : PortId) (s : State) : Out :=
  .next (
    if s.gauntletUp = false ∨ s.portsLive = false then s
    else
      let s := if s.egressUp n 0 then s.sendOwn n false (s.lldpFrame n false) else s
      if s.egressUp n 1 then s.sendOwn n true (s.lldpFrame n true) else s)

/-- LLDP_RECEIVE: a neighbour's frame updates NBR_n. -/
def execLldpReceive (n : PortId) (x : Neighbour) (s : State) : Out :=
  .next (
    if s.gauntletUp = false ∨ s.portUp n = false then s
    else
      s.setNeighbour n (BitVec.ofNat 64 (x.nmod.toNat + x.nvalid.toNat * 2 ^ 17 + x.nport.toNat * 2 ^ 18 + x.nsub.toNat * 2 ^ 22 +
        2 ^ 23 + x.nser.toNat % 2 ^ 32 * 2 ^ 32)))

/-- TIME_TO_LIVE_EXPIRY: the neighbour's TLVs have passed their time to live: HEARD reads 0. -/
def execTimeToLiveExpiry (n : PortId) (s : State) : Out :=
  .next (
    if s.gauntletUp = false ∨ s.flag (Reg.nbr n) 23 = false then s
    else s.setNeighbour n (s.reg (Reg.nbr n) &&& ~~~ BitVec.ofNat 64 (2 ^ 23)))

/-! ## Error records (R532 to R534) -/

/-- A field of one byte, 0xFF for none. -/
def orNone (x : Option Nat) : Bytes := leBytes 1 (x.getD 0xFF)

/-- The 64 bytes of a record. (DESIGN CHOICE, log entry 64.) -/
def recordBytes (r : ErrRec) (seq time : W64) (unsigned : Bool) : Bytes :=
  leBytes 2 r.cls ++ leBytes 1 (r.flags % 8 + 8 * unsigned.toNat) ++ orNone r.part ++ orNone r.phys ++ orNone r.le ++
  orNone r.ctx ++ leBytes 1 r.run ++ leBytes 8 seq.toNat ++ leBytes 8 time.toNat ++ leBytes 8 r.step.toNat ++
  fitBytes 30 r.detail ++ leBytes 2 r.second

/-- 48 bytes of HMAC-SHA-384 under the operator MAC key; 0 without an owner. -/
def State.macBytes (s : State) (msg : Bytes) : Bytes :=
  match s.store.owner with
  | some o => hmac384 (digestBytes o.mac) msg
  | none => List.replicate 48 0

/-- The datagram of a record. -/
def State.recordDatagram (s : State) (record : Bytes) : Bytes :=
  let body := [0x4F, 0x4C, 0x45, 0x52, 0, 0, 0, 0] ++ leBytes 8 s.fuse.serial.toNat ++ record
  body ++ s.macBytes body

/-- The buffer whose oldest record Gauntlet takes next: that of the lowest block. -/
def State.nextRecord (s : State) : Option (Nat × ErrRec × List ErrRec) :=
  (List.range 57).findSome? (fun b => match Tab.get [] s.recBuf b with
    | r :: rs => some (b, r, rs)
    | [] => none)

/-- The copy of a record in its partition's event ring (R534). -/
def State.hostCopy (s : State) (r : ErrRec) (seq : W64) (unsigned : Bool) : State :=
  match r.part with
  | none => s
  | some q =>
    if s.flag Reg.errCfg q then
      s.event q 0x0009 (leBytes 2 r.cls ++ leBytes 1 (r.flags % 8 + 8 * unsigned.toNat) ++ orNone r.le ++ orNone r.ctx ++ [0, 0, 0] ++
        leBytes 8 seq.toNat)
    else s

/-- ERROR_RECORD_SEND: Gauntlet receives a record, numbers it, and sends it to the collector; with 4,096 not acknowledged it
discards it and counts it. (DEDUCED, log entry 83.) -/
def execErrorRecordSend (s : State) : Out :=
  .next (
    if s.gauntletUp = false then s
    else match s.nextRecord with
      | none => s
      | some (b, r, rs) =>
        let seq := s.mgmt.seq
        let s := { s with recBuf := s.recBuf.set b rs, mgmt := { s.mgmt with seq := seq + 1 } }
        if 4096 ≤ s.mgmt.unacked.length then s.bump Reg.errLost 1
        else
          let unsigned := s.store.owner.isNone
          let record := recordBytes r seq s.time unsigned
          let d := s.recordDatagram record
          let s := { s with
            mgmt := { s.mgmt with unacked := s.mgmt.unacked ++ [(seq, d)] }
            store := { s.store with log := ringPush logCap s.store.log record } }
          (s.emit (.mgmt (.record d))).hostCopy r seq unsigned)

/-- RECORD_RESEND: a record that is not acknowledged is sent again. -/
def execRecordResend (seq : W64) (s : State) : Out :=
  .next (
    if s.gauntletUp = false then s
    else match s.mgmt.unacked.find? (fun e => e.1 == seq) with
      | some (_, d) => s.emit (.mgmt (.record d))
      | none => s)

/-- COLLECTOR_ACK: the collector has returned a record's SEQ. -/
def execCollectorAck (seq : W64) (s : State) : Out :=
  .next (
    if s.gauntletUp = false then s
    else { s with mgmt := { s.mgmt with unacked := s.mgmt.unacked.filter (fun e => e.1 != seq) } })

/-! ## Telemetry (R565) -/

/-- The 208 bytes of a telemetry datagram before its HMAC. -/
def State.telemetryBody (s : State) : Bytes :=
  [0x4F, 0x4C, 0x54, 0x4D, 0, 0, 0, 0] ++ leBytes 8 s.fuse.serial.toNat ++ leBytes 8 s.time.toNat ++
  leBytes 8 (s.reg Reg.telPwr).toNat ++ leBytes 8 (s.reg Reg.telTemp).toNat ++ leBytes 4 (s.reg Reg.lockedClk).toNat ++
  leBytes 4 (s.reg Reg.holdupStat).toNat ++ leBytes 8 (s.reg Reg.bootStat).toNat ++
  (List.range 52).flatMap (fun p => leBytes 1 (s.fld (Reg.engHealth p) 5 0)) ++ List.replicate 100 0

/-- TELEMETRY_DATAGRAM: a TEL_PERIOD has passed since the last datagram. (DESIGN CHOICE, log entry 84.) -/
def execTelemetryDatagram (now : W64) (s : State) : Out :=
  .next (
    let early := match s.mgmt.lastTel with
      | some t => decide (now.toNat < t.toNat + 1000000 * s.store.mrec.telPeriod)
      | none => false
    if s.gauntletUp = false ∨ early = true then s
    else
      let s := { s.at_ now with mgmt := { s.mgmt with lastTel := some now } }
      s.emit (.mgmt (.telemetry (s.telemetryBody ++ s.macBytes s.telemetryBody))))

/-! ## The board controller (R563) -/

/-- LOCATION: the location code of this start, before stage 5; the store keeps the last one. -/
def execLocation (code : W32) (s : State) : Out :=
  .next (
    if s.gauntletUp = false ∨ 5 ≤ s.stage then s
    else { s with boot := { s.boot with loc := some code }, store := { s.store with loc := some code } })

/-- STATUS: BOOT_STAT, TEL_PWR, TEL_TEMP and HOLDUP_STAT. -/
def execStatus (s : State) : Out :=
  .next (
    if s.gauntletUp = false then s
    else s.emit (.i3c (leBytes 8 (s.reg Reg.bootStat).toNat ++ leBytes 8 (s.reg Reg.telPwr).toNat ++
      leBytes 8 (s.reg Reg.telTemp).toNat ++ leBytes 4 (s.reg Reg.holdupStat).toNat)))

/-- The module's I3C address: the dynamic one, or 0x30 plus the address straps (R563). -/
def State.i3cAddr (s : State) : BitVec 7 := s.boot.dyn.getD (0x30 + s.boot.straps.setWidth 7)

/-- ENTDAA: the module takes a dynamic address in place of its static one (R563). -/
def execEntdaa (addr : BitVec 7) (s : State) : Out :=
  .next (if s.gauntletUp then { s with boot := { s.boot with dyn := some addr } } else s)

/-! ## PTP (R403) -/

/-- A PTP timestamp: seconds and nanoseconds. (PRESUMED, log entry 120.) -/
def ptpTime (t : W64) : Bytes := beBytes 6 (t.toNat / 1000000000) ++ beBytes 4 (t.toNat % 1000000000)

/-- The body of an Announce: the data set of the clock that the module follows, one step further, or its own, with the UTC offset
and the time source left as the layout has them. (PRESUMED, log entry 120.) -/
def State.ptpAnnounce (s : State) : Bytes :=
  let d := match s.ptpBest.bind (fun e => (Tab.get {} s.ptp e).announce) with
    | some m => ptpDataSet m
    | none => s.ptpOwn
  let g := fun (i : Nat) => d.getD i 0
  let steps := if s.ptpBest.isSome then g 6 + 1 else 0
  ptpTime s.time ++ beBytes 2 37 ++ [0] ++ beBytes 1 (g 0) ++ beBytes 1 (g 1) ++ beBytes 1 (g 2) ++ beBytes 2 (g 3) ++
  beBytes 1 (g 4) ++ beBytes 8 (g 5) ++ beBytes 2 steps ++ [0xA0]

/-- A PTP message of an egress (IEEE 1588-2019): Sync with its two-step flag, the Follow_Up of the last Sync with its
timestamp, Delay_Req, the Delay_Resp to the last Delay_Req received, or Announce with what the best master clock algorithm
has found. None where there is nothing to follow or to answer. (PRESUMED, log entry 120.) -/
def State.ptpMessage (s : State) (e : Nat) (typ : PtpType) : Option Bytes :=
  let t := Tab.get {} s.ptp e
  let msg := fun (code flags seq : Nat) (body : Bytes) =>
    [BitVec.ofNat 8 code, 0x12] ++ beBytes 2 (34 + body.length) ++ [0, 0] ++ beBytes 2 flags ++ List.replicate 12 0 ++
    beBytes 8 s.fuse.serial.toNat ++ beBytes 2 (e + 1) ++ beBytes 2 seq ++ [0, 0x7F] ++ body
  match typ with
  | .sync => some (msg 0 0x0200 t.seq (List.replicate 10 0))
  | .delayReq => some (msg 1 0 t.seq (List.replicate 10 0))
  | .followUp => t.syncTx.map (fun x => msg 8 0 x.1 (ptpTime x.2))
  | .delayResp => t.reqRx.map (fun x => msg 9 0 (beNum x.1 30 2) (ptpTime x.2 ++ (x.1.drop 20).take 10))
  | .announce => some (msg 11 0 t.seq s.ptpAnnounce)

/-- The type of message takes a sequence number of its own. -/
def ptpNumbered : PtpType → Bool
  | .sync | .delayReq | .announce => true
  | .followUp | .delayResp => false

/-- PTP_MESSAGE_TRANSMIT: a message leaves an egress that is up, from stage 5 on; an event message is timestamped as it starts
(R371, R403, R542). (DESIGN CHOICE, log entry 84.) -/
def execPtpMessageTransmit (n : PortId) (sub : Bool) (typ : PtpType) (now : W64) (s : State) : Out :=
  .next (
    if s.gauntletUp = false ∨ s.stage < 5 ∨ s.portsLive = false ∨ s.egressUp n sub.toNat = false then s
    else
      let s := s.at_ now
      let e := 2 * n.val + sub.toNat
      match s.ptpMessage e typ with
      | none => s
      | some m =>
        let t := Tab.get {} s.ptp e
        let s := if ptpNumbered typ then { s with ptp := s.ptp.set e { t with seq := (t.seq + 1) % 65536 } } else s
        s.sendOwn n sub ([0x01, 0x1B, 0x19, 0, 0, 0] ++ s.srcMac e ++ beBytes 2 0x88F7 ++ m))

end Sys2Proof.Machine
end

