-- ==== Sys2Proof/Machine/Debug.lean ====
section
/-!
DEFINITION. Operator debug (R494 to R500): halting, stepping and arming, and what a debug read returns.
-/

namespace Sys2Proof.Machine

/-! ## Routes and counts -/

/-- A debug request is accepted while Gauntlet runs (R454, R468): by JTAG always; over the management port with a right MAC
under the operator MAC key and a sequence number above the last accepted one (R494). (DESIGN CHOICE, log entry 86.) -/
def State.debugRequest (s : State) (r : DbgRoute) (f : State → State) : State :=
  if s.gauntletUp = false then s
  else match r with
    | .jtag => f s
    | .mgmt seq macOk =>
      let newer := match s.mgmt.dbgSeq with | some n => decide (n.toNat < seq.toNat) | none => true
      if s.store.owner.isSome && macOk && newer then
        f { s with mgmt := { s.mgmt with dbgSeq := some seq } }
      else s

/-- DEBUG of a sealed partition rises by 1, up to all ones (R499). (DEDUCED, log entry 85.) -/
def State.countDebug (s : State) (q : Nat) : State :=
  if s.sealedPart q then
    s.modPartx q (fun x => { x with debug := if x.debug = BitVec.allOnes 32 then x.debug else x.debug + 1 })
  else s

/-- The resident contexts that a scope names. -/
def State.scope (s : State) : DbgScope → List (Nat × Nat)
  | .ctx p c => if (s.ctx p c).resident then [(p.val, c.val)] else []
  | .part q => s.residents q
  | .eng p => ((List.range 4).filter (fun c => (s.ctx p c).resident)).map (fun c => (p.val, c))

/-- The partitions of a list of contexts. -/
def State.partsOf (s : State) (xs : List (Nat × Nat)) : List Nat :=
  (List.range 8).filter (fun q => xs.any (fun x => (s.ctx x.1 x.2).part == q))

/-! ## Halting and stepping (R496) -/

/-- DEBUG_HALT: the contexts halt at the next period boundary. -/
def execDebugHalt (r : DbgRoute) (x : DbgScope) (s : State) : Out :=
  .next (s.debugRequest r (fun s =>
    let xs := s.scope x
    let s := (s.partsOf xs).foldl (fun s q => s.countDebug q) s
    xs.foldl (fun s (e : Nat × Nat) => s.modCtx e.1 e.2 (fun x => { x with dbgReq := true, dbgGo := none })) s))

/-- DEBUG_RESUME: the halted contexts go on, each at its own cc of a period, and a control core that EBREAK has stopped with them
(R20, R496); the request counts as a halt does (R495). `cc` is the period counter when the request comes. (DEDUCED, log
entry 85.) -/
def execDebugResume (r : DbgRoute) (x : DbgScope) (cc : Nat) (s : State) : Out :=
  .next (s.debugRequest r (fun s =>
    let xs := s.scope x
    let s := (s.partsOf xs).foldl (fun s q => s.countDebug q) s
    xs.foldl (fun s (e : Nat × Nat) => s.modCtx e.1 e.2 (fun x => x.debugAsk 0 cc)) s))

/-- DEBUG_STEP: a halted context runs for n cc, 1 to 6,000, from the cc at which it enters on (R20, R496). `cc` is the period
counter when the request comes. (DEDUCED, log entry 85.) -/
def execDebugStep (r : DbgRoute) (p : PhysE) (c : Place) (n cc : Nat) (s : State) : Out :=
  .next (s.debugRequest r (fun s =>
    let x := s.ctx p c
    if x.resident && x.dbgHalt && decide (1 ≤ n) && decide (n ≤ 6000) then
      (s.countDebug x.part).modCtx p c (fun x => x.debugAsk n cc)
    else s.emit .debugRefused))

/-- DEBUG_STEP_END: the n cc of a step have passed, and the context stops again, n cc further in its period (R496). -/
def execDebugStepEnd (p : PhysE) (c : Place) (s : State) : Out :=
  .next (
    if 0 < (s.ctx p c).dbgSteps then
      s.modCtx p c (fun x => { x with dbgHalt := true, dbgSteps := 0, dbgPhase := (x.dbgPhase + x.dbgSteps) % 6000 })
    else s)

/-- DEBUG_ARM: EBREAK halts the context's control core from now on (R227). -/
def execDebugArm (r : DbgRoute) (p : PhysE) (c : Place) (s : State) : Out :=
  .next (s.debugRequest r (fun s =>
    if (s.ctx p c).resident then s.modCtx p c (fun x => { x with dbgArm := true }) else s.emit .debugRefused))

/-! ## Reads in the clear (R495) -/

/-- What BAR0 reads at an offset: a register at its full width, and elsewhere, a mailbox buffer or the MSI-X structures among
it, the 8 bytes or, off their alignment, the 4 bytes there (R591). -/
def State.regBytes (s : State) (off : Nat) : Bytes :=
  match regAt off with
  | some r => leBytes r.row.size (s.readReg r)
  | none => if off % 8 = 0 then leBytes 8 (s.readBar0 off 8) else leBytes 4 (s.readBar0 off 4)

/-- Entries 0 to 63 of a copy's block table (R192). -/
def State.blockTable (s : State) (p c : Nat) (bankB : Bool) : Bytes :=
  let e := s.engine p
  let base := (s.imemShare p c).1
  (List.range 64).flatMap (fun i => leBytes 8 (Tab.get 0 (if bankB then e.imemB else e.imemA) (base + i)).toNat)

/-- The control state of a context in the order of R495. (DESIGN CHOICE, log entry 86.) -/
def State.controlBytes (s : State) (p c : Nat) : Bytes :=
  let x := s.ctx p c
  let r := x.cur
  s.regBytes (Reg.cuStat p c) ++ s.regBytes (Reg.ccStat p c) ++ s.regBytes (Reg.ctxStat p c) ++
  r.loops.flatMap (fun l => leBytes 8 l.body ++ leBytes 8 l.stop ++ leBytes 8 l.left) ++
  (List.range 8).flatMap (fun i => leBytes 4 (Tab.get 0 r.lc i).toNat) ++
  (List.range 32).flatMap (fun i => leBytes 2 (Tab.get 0 r.ws i).toNat) ++
  (List.range 7).flatMap (fun n => leBytes 1 (x.tokens n).length ++ (x.tokens n).flatMap (fun t => leBytes 2 t.toNat)) ++
  leBytes 4 r.cptr ++ leBytes 4 r.eptr ++ (List.range 8).flatMap (fun i => leBytes 4 (Tab.get 0 r.lp i)) ++
  leBytes 8 r.vib.toNat ++ leBytes 8 r.qib.toNat ++ leBytes 8 r.mib.toNat ++ leBytes 8 r.stepNo.toNat ++
  s.regBytes (Reg.vregShare p c) ++ s.regBytes (Reg.imemShare p c) ++ s.regBytes (Reg.ccShare p c) ++
  s.regBytes (Reg.sandShare p c) ++ s.regBytes (Reg.siltShare p c) ++
  s.blockTable p c false ++ s.blockTable p c true

/-- DEBUG_READ_CONTROL: control state, in the clear for every partition, in a layout that is not laid down. -/
def execDebugReadControl (r : DbgRoute) (p : PhysE) (c : Place) (s : State) : Out :=
  .next (s.debugRequest r (fun s => s.emit (.debug (Config.layout 40 (s.controlBytes p c)))))

/-- DEBUG_READ_REGISTERS: what BAR0 reads at full resolution, for every partition. -/
def execDebugReadRegisters (r : DbgRoute) (off : BitVec 26) (s : State) : Out :=
  .next (s.debugRequest r (fun s => s.emit (.debug (s.regBytes off.toNat))))

/-! ## Data reads (R497, R498) -/

/-- An item of n bytes padded to 8. -/
def pad8 (n x : Nat) : Bytes := leBytes (ceilDiv n 8 * 8) x

/-- A long accumulator in the order of R163. -/
def Accum.bytes (q : Accum) : Bytes :=
  leBytes 80 q.a.toNat ++ pad8 1 q.pinf.toNat ++ pad8 1 q.ninf.toNat ++ pad8 1 q.nan.toNat ++ pad8 8 q.count.toNat ++
  pad8 4 ((q.best.map (fun b => b.toNat)).getD 0) ++ pad8 8 q.bestIdx.toNat ++ pad8 1 q.open_.toNat

/-- An entry of the summary queue (R159). -/
def SumEntry.bytes (e : SumEntry) : Bytes :=
  leBytes 8 e.value.toNat ++ leBytes 8 (e.tag.toNat + e.kind.toNat * 2 ^ 16 + e.fromRed.toNat * 2 ^ 20)

/-- The extension CSRs in the order of R243. -/
def extCsrs : List Nat :=
  [0x800, 0x801, 0x802, 0x808, 0x809, 0x80A, 0x80B, 0x80C, 0x80D, 0x80E, 0x80F, 0x810, 0x811, 0x812, 0x813, 0x814,
   0x820, 0x821, 0x822, 0x823, 0x824, 0x825, 0x826, 0x827, 0x828, 0x829] ++
  [0xCC0, 0xCC1, 0xCC2, 0xCC3, 0xCC4, 0xCC5, 0xCC6, 0xCC7, 0xCC8, 0xCC9]

/-- The control core's state in the order of R237: each of its points whole, so that the running value and the random-number
unit's configuration stand once more after the CSRs that show them. (DESIGN CHOICE, log entry 86.) -/
def State.ccBytes (s : State) (p c : Nat) : Bytes :=
  let r := (s.ctx p c).cur
  pad8 4 r.ccpc ++ (List.range 31).flatMap (fun i => pad8 4 (Tab.get 0 r.x (i + 1)).toNat) ++
  extCsrs.flatMap (fun n => pad8 4 ((s.csrRead p c n).getD 0).toNat) ++
  SumEntry.bytes r.csr.latch ++ pad8 8 r.csr.run.toNat ++
  pad8 8 r.csr.rnSeed.toNat ++ pad8 4 r.csr.rnId.toNat ++ pad8 4 r.csr.rnW3.toNat ++ pad8 8 r.csr.rnIb.toNat ++
  pad8 4 r.csr.rnDst.toNat ++ pad8 4 r.csr.rnCnt.toNat ++ pad8 1 (r.csr.rnMode.toNat + 2 * r.csr.rnStep.toNat) ++ pad8 4 r.csr.rnSrc.toNat ++
  pad8 8 r.cycle.toNat ++ pad8 8 r.instret.toNat ++ pad8 1 (r.feed.isSome.toNat + 2 * r.fill.isSome.toNat)

/-- n bytes at an offset of a byte string; none past its end. -/
def sliceOf (bs : Bytes) (o n : Nat) : Option Bytes := if o + n ≤ bs.length then some ((bs.drop o).take n) else none

/-- The bytes of a context's space (SPACE 0 to 7). -/
def State.ctxSpace (s : State) (space p c o n : Nat) : Option Bytes :=
  let x := s.ctx p c
  match space with
  | 0 => if s.sandOk p c o n then some (s.sandBytes p c o n) else none
  | 1 => if s.siltOk p c o n then some (s.siltBytes p c o n) else none
  | 2 =>
    if o + n ≤ 2048 * (s.vregShare p c).2 then
      some ((List.range n).map (fun i => BitVec.ofNat 8 ((s.vreg p c ((o + i) / 2048)).toNat / 2 ^ (8 * ((o + i) % 2048)))))
    else none
  | 3 => sliceOf ((List.range 8).flatMap (fun i => leBytes 64 (x.cur.vpred i).toNat)) o n
  | 4 => sliceOf ((List.range 4).flatMap (fun i => Accum.bytes (Tab.get {} x.qa i))) o n
  | 5 => sliceOf (s.ccBytes p c) o n
  | 6 => if o + n ≤ (s.ccDShare p c).2 then some ((s.engine p).ccD.bytes ((s.ccDShare p c).1 + o) n) else none
  | _ => sliceOf ((List.range 32).flatMap (fun i => SumEntry.bytes ((x.cur.sumq[i]?).getD {}))) o n

/-- The unit of the owner table that a byte of a context's space lies in (R480). -/
def State.spaceUnit (s : State) (space p c o : Nat) : Option Nat :=
  match space with
  | 0 => some (ownSand (((s.sandShare p c).1 + o) / 4096))
  | 1 => some (ownSilt ((3072 * (s.siltShare p c).1 + o) / 3072))
  | 2 => some (ownVreg ((2048 * (s.vregShare p c).1 + o) / 16384))
  | 6 => some (ownCcD (((s.ccDShare p c).1 + o) / 4096))
  | _ => none

/-- The sealed partition that a byte of a context's space belongs to: the last owner of the unit it lies in, or else the
context's own. (DEDUCED, log entry 87.) -/
def State.ctxSealed (s : State) (space p c o : Nat) : Option Nat :=
  let x := s.ctx p c
  let owner := (s.spaceUnit space p c o).bind (fun k => ((s.engine p).owners.find? (fun e => e.1 == k)).map (fun e => e.2))
  (owner.toList ++ (if x.resident then [x.part] else [])).find? (fun q => s.sealedPart q)

/-- Partition q owns a byte of a tier: by its granules, or by its Shale map where that is backed by Clay. -/
def State.ownsByte (s : State) (q tier a : Nat) : Bool :=
  s.owns q tier a 1 ||
  (tier == 3 && (List.range 2048).any (fun g =>
    let m := s.shaleMap g
    bit m 0 && bit m 1 && bits m 15 13 == q && bits m 12 3 == a / 2 ^ 32))

/-- The sealed partition that a byte of a tier belongs to. (DEDUCED, log entry 87.) -/
def State.tierSealed (s : State) (tier a : Nat) : Option Nat :=
  (List.range 8).find? (fun q => s.sealedPart q && s.ownsByte q tier a)

/-- A data read: each byte, and the sealed partition that owns it. The partition of a digest log or sequence table stands
in bits [63:56] of the address; its bytes belong to whoever owns the Loam they lie in, else to that partition. (DESIGN
CHOICE, log entry 86, DEDUCED, log entry 87.) -/
def State.debugData (s : State) (space : Nat) (addr : W64) (n : Nat) : Option (List (Byte × Option Nat)) :=
  let a := addr.toNat
  let o := a % 2 ^ 24
  let p := bits a 29 24
  let c := bits a 31 30
  let q := bits a 58 56
  let x := a % 2 ^ 56
  let owned := fun (bs : Bytes) (own : Nat → Option Nat) => bs.zip ((List.range n).map own)
  let tier := fun (t size : Nat) =>
    if a + n ≤ size then some (owned (s.rangeRead t a n) (fun i => s.tierSealed t (a + i))) else none
  let table := fun (lo size : Nat) =>
    if x + n ≤ size then
      some (owned (s.loamBytes (lo + x) n)
        (fun i => (s.tierSealed 2 (lo + x + i)).or (if s.sealedPart q then some q else none)))
    else none
  if n = 0 ∨ 4096 < n then none
  else match space with
    | 8 => tier 2 (576 * 2 ^ 30)
    | 9 => tier 3 (2 ^ 40)
    | 10 => tier 4 (2 ^ 43)
    | 11 => table (s.fld (Reg.dglBase q) 43 12 * 4096) (32 * 2 ^ s.fld (Reg.dglSize q) 4 0)
    | 12 => table (s.fld (Reg.rollSeqt q) 39 16 * 65536) (128 * s.fld (Reg.rollSeqt q) 56 40)
    | _ =>
      if 12 < space ∨ 52 ≤ p ∨ 2 ^ 32 ≤ a then none
      else (s.ctxSpace space p c o n).map (fun bs => owned bs (fun i => s.ctxSealed space p c (o + i)))

/-- The nonce of a read of sealed data (R498). -/
def debugNonce (q : Nat) (ctr : W64) : Bytes := leBytes 1 q ++ [0, 0, 0] ++ leBytes 8 ctr.toNat

/-- The additional data of a read of sealed data (R498). -/
def State.debugAad (s : State) (q space : Nat) (addr : W64) (n : Nat) (ctr : W64) : Bytes :=
  leBytes 4 s.ownId ++ leBytes 1 q ++ leBytes 1 space ++ [0, 0] ++ leBytes 8 addr.toNat ++ leBytes 4 n ++ [0, 0, 0, 0] ++
  leBytes 8 ctr.toNat

/-- The stretches of bytes with one owner each. -/
def ownerRuns : List (Byte × Option Nat) → List (Option Nat × Bytes)
  | [] => []
  | (b, q) :: t =>
    match ownerRuns t with
    | [] => [(q, [b])]
    | (q', bs) :: rs => if q = q' then (q, b :: bs) :: rs else (q, [b]) :: (q', bs) :: rs

/-- The answer to a read of bytes at an address that have one owner: in the clear where no sealed partition owns them, else
as ciphertext under its debug export key, with the read counted in the nonce's count (R497, R498). -/
def State.debugAnswer (s : State) (space : Nat) (addr : W64) : Option Nat → Bytes → State
  | none, bs => s.emit (.debug bs)
  | some q, bs =>
    let x := s.partx q
    let at_ := if 11 ≤ space then addr &&& BitVec.ofNat 64 (2 ^ 56 - 1) else addr
    (s.modPartx q (fun x => { x with dbgctr := x.dbgctr + 1 })).emit
      (.debug (leBytes 1 space ++ leBytes 8 at_.toNat ++ leBytes 4 bs.length ++ leBytes 8 x.dbgctr.toNat ++
        Config.gcmSeal x.dxk (debugNonce q x.dbgctr) (s.debugAad q space at_ bs.length x.dbgctr) bs))

/-- The answers to a read, one for each stretch of bytes with one owner, in address order. (DESIGN CHOICE, log entry 87.) -/
def State.debugAnswers (s : State) (space : Nat) (addr : W64) : List (Option Nat × Bytes) → State
  | [] => s
  | (q, bs) :: rs => (s.debugAnswer space addr q bs).debugAnswers space (addr + BitVec.ofNat 64 bs.length) rs

/-- DEBUG_READ_DATA: bytes of no sealed partition in the clear; a sealed partition's only as ciphertext under its debug
export key. The read counts in the measurement of each sealed partition it touches (R497 to R499). -/
def execDebugReadData (r : DbgRoute) (space : Byte) (addr : W64) (len : Nat) (s : State) : Out :=
  .next (s.debugRequest r (fun s =>
    match s.debugData space.toNat addr len with
    | none => s.emit .debugRefused
    | some bs =>
      let rs := ownerRuns bs
      let touched := (List.range 8).filter (fun q => rs.any (fun r => r.1 == some q))
      (touched.foldl (fun s q => s.countDebug q) s).debugAnswers space.toNat addr rs))

/-- DEBUG_WRITE: a write of data or control state is refused and changes nothing (R495, R500). -/
def execDebugWrite (r : DbgRoute) (s : State) : Out :=
  .next (s.debugRequest r (fun s => s.emit .debugRefused))

end Sys2Proof.Machine
end

