-- ==== Sys2Proof/Machine/EngineRows.lean ====
section
/-!
DEFINITION. The rows of the engine instructions: each is its instruction's run (Machine/Matrix.lean, Vector.lean, Reduction.lean,
Data.lean, Control.lean) as the next instruction of its context's group, which issues whole or not at all (R180).
-/

namespace Sys2Proof.Machine

/-- The run of an instruction that can end in a fault of its own, with no error in what it reads and no upset. -/
def faultRun (p c : Nat) (o : EngOp) (w : W64) (s : State) : Ran :=
  match o with
  | .mLoadw => runLoadw p c .ok w s
  | .mPass => runPass p c false .ok w s
  | .mPasst => runPass p c true .ok w s
  | .mFold => runFold p c w s
  | .mOut => runOut p c .ok w s
  | .vCvt => runCvt p c w s
  | .vLd => runLd p c .ok none w s
  | .vSt => runSt p c none w s
  | .vPst => runPst p c w s
  | .vCompress => runCompress p c none w s
  | .vExpand => runExpand p c .ok none w s
  | .qSum => runQ p c .sum 0 none w s
  | .qSumsq => runQ p c .sumsq 0 none w s
  | .qMax => runQ p c .max 0 none w s
  | .qMin => runQ p c .min 0 none w s
  | .qArgmax => runQ p c .argmax 0 none w s
  | .qArgmin => runQ p c .argmin 0 none w s
  | .qNfc => runNfc p c 0 none w s
  | .dGet | .dPut | .dSend | .dGather | .dIload => runD p c o .ok w s
  | .cLoop => runLoop p c w s
  | .cSelect => runSelect p c w s
  | .cJump => runJump p c w s
  | .cCommit => runCommit p c (hdescOf w) none s
  | .cEnd => runCommit p c none (some 0) s
  | .cSwapbank => runSwapbank p c w s
  | _ => .seq s

/-- The fault that the word at place i of the group would take as it issues, with its code and its class. -/
def State.runBad (s : State) (p c i : Nat) (w : W64) : Option (Nat × Nat) :=
  match EngOp.ofWord w with
  | none => none
  | some o => match faultRun p c o w (s.modCtx p c (fun x => { x with gi := i })) with
    | .bad _ code => some (code, wClass w)
    | _ => none

/-- The first fault that a word behind the group's first one would take as it issues: then none of the group issues, since all
of a group's instructions issue in one cc (R180, R224). (DEDUCED, log entry 13.) -/
def State.laterBad (s : State) (p c : Nat) : Option (Nat × Nat) :=
  ((((s.group p c).getD []).zipIdx).drop 1).findSome? (fun k => (s.opened p c).runBad p c k.2 k.1)

/-- The group's first word takes no fault of its own as it issues. -/
def State.firstRuns (s : State) (p c : Nat) : Bool := ((s.opened p c).runBad p c 0 (s.instrAt p c)).isNone

/-- The context's next instruction is `o` and nothing holds its group: the row of `o` has its own effect. -/
def State.issues (s : State) (p c : Nat) (o : EngOp) : Bool :=
  s.canIssue p c && (decide (0 < (s.ctx p c).gi) || (s.gate p c == .go && s.laterBad p c == none)) &&
  EngOp.ofWord (s.instrAt p c) == some o

/-- A row of instruction `o` on context c of engine p. At the first instruction of a group the whole group's checks and
waits decide: a fault is taken and no instruction of the group issues (R180), a hold is noted in CU_STAT.HELD. Of two faults of a
group the one of the lower CLASS is taken, which comes first. A row whose instruction is not the next one changes nothing. (DESIGN
CHOICE, log entry 1.) -/
def State.issue (s : State) (p c : Nat) (o : EngOp) (run : W64 → State → Ran) : State :=
  if !s.canIssue p c then s
  else if (s.ctx p c).gi = 0 ∧ s.gate p c ≠ .go then
    match s.gate p c with
    | .fault code cls => s.fault p c code cls (s.ctx p c).cur.pc
    | .hold counted => s.modCtx p c (fun x => { x with held := counted, waited := x.waited || s.atWaitPoint p c })
    | .go => s
  else if EngOp.ofWord (s.instrAt p c) = some o then
    match (if (s.ctx p c).gi = 0 && s.firstRuns p c then s.laterBad p c else none) with
    | some (code, cls) => s.fault p c code cls (s.ctx p c).cur.pc
    | none => (s.opened p c).execAt p c (s.instrAt p c) run
  else s

/-! ## The rows -/

/-- M_LOADW (R110, R201). -/
def execMLoadw (p : PhysE) (c : Place) (err : ReadErr) (s : State) : Out :=
  .next (s.issue p c .mLoadw (runLoadw p c err))
/-- M_PASS (R203). -/
def execMPass (p : PhysE) (c : Place) (err : ReadErr) (s : State) : Out :=
  .next (s.issue p c .mPass (runPass p c false err))
/-- M_PASST (R115). -/
def execMPasst (p : PhysE) (c : Place) (err : ReadErr) (s : State) : Out :=
  .next (s.issue p c .mPasst (runPass p c true err))
/-- M_FOLD (R204). -/
def execMFold (p : PhysE) (c : Place) (s : State) : Out := .next (s.issue p c .mFold (runFold p c))
/-- M_OUT (R133). -/
def execMOut (p : PhysE) (c : Place) (err : ReadErr) (s : State) : Out :=
  .next (s.issue p c .mOut (runOut p c err))
/-- M_SETIB (R204). -/
def execMSetib (p : PhysE) (c : Place) (s : State) : Out := .next (s.issue p c .mSetib (runMSetib p c))
/-- V_ADD (R80). -/
def execVAdd (p : PhysE) (c : Place) (s : State) : Out := .next (s.issue p c .vAdd (runArith p c Fmt.add))
/-- V_SUB (R80). -/
def execVSub (p : PhysE) (c : Place) (s : State) : Out := .next (s.issue p c .vSub (runArith p c Fmt.sub))
/-- V_MUL (R80). -/
def execVMul (p : PhysE) (c : Place) (s : State) : Out := .next (s.issue p c .vMul (runArith p c Fmt.mul))
/-- V_FMA (R80). -/
def execVFma (p : PhysE) (c : Place) (s : State) : Out := .next (s.issue p c .vFma (runFma p c))
/-- V_CMP (R151). -/
def execVCmp (p : PhysE) (c : Place) (upset : Option Upset) (s : State) : Out :=
  .next (s.issue p c .vCmp (runCmp p c upset))
/-- V_SEL (R207). -/
def execVSel (p : PhysE) (c : Place) (upset : Option Upset) (s : State) : Out :=
  .next (s.issue p c .vSel (runSel p c upset))
/-- V_MIN (R151). -/
def execVMin (p : PhysE) (c : Place) (upset : Option Upset) (s : State) : Out :=
  .next (s.issue p c .vMin (fun w s => runMove p c (vT w) ((vT w).minMax false) upset w s))
/-- V_MAX (R151). -/
def execVMax (p : PhysE) (c : Place) (upset : Option Upset) (s : State) : Out :=
  .next (s.issue p c .vMax (fun w s => runMove p c (vT w) ((vT w).minMax true) upset w s))
/-- V_AND (R207). -/
def execVAnd (p : PhysE) (c : Place) (upset : Option Upset) (s : State) : Out :=
  .next (s.issue p c .vAnd (runMove p c .int32 (· &&& ·) upset))
/-- V_OR (R207). -/
def execVOr (p : PhysE) (c : Place) (upset : Option Upset) (s : State) : Out :=
  .next (s.issue p c .vOr (runMove p c .int32 (· ||| ·) upset))
/-- V_XOR (R207). -/
def execVXor (p : PhysE) (c : Place) (upset : Option Upset) (s : State) : Out :=
  .next (s.issue p c .vXor (runMove p c .int32 (· ^^^ ·) upset))
/-- V_ANDN: VA AND (NOT VB) (R207). -/
def execVAndn (p : PhysE) (c : Place) (upset : Option Upset) (s : State) : Out :=
  .next (s.issue p c .vAndn (runMove p c .int32 (fun a b => a &&& (2 ^ 32 - 1 - b)) upset))
/-- V_SHL (R207). -/
def execVShl (p : PhysE) (c : Place) (upset : Option Upset) (s : State) : Out :=
  .next (s.issue p c .vShl (runMove p c .int32 (shiftLane 0) upset))
/-- V_SHR (R207). -/
def execVShr (p : PhysE) (c : Place) (upset : Option Upset) (s : State) : Out :=
  .next (s.issue p c .vShr (runMove p c .int32 (shiftLane 1) upset))
/-- V_SRA (R207). -/
def execVSra (p : PhysE) (c : Place) (upset : Option Upset) (s : State) : Out :=
  .next (s.issue p c .vSra (runMove p c .int32 (shiftLane 2) upset))
/-- V_CVT (R153). -/
def execVCvt (p : PhysE) (c : Place) (s : State) : Out := .next (s.issue p c .vCvt (runCvt p c))
/-- V_PERM (R152). -/
def execVPerm (p : PhysE) (c : Place) (upset : Option Upset) (s : State) : Out :=
  .next (s.issue p c .vPerm (runPerm p c upset))
/-- V_LD (R207, R283). -/
def execVLd (p : PhysE) (c : Place) (err : ReadErr) (upset : Option Upset) (s : State) : Out :=
  .next (s.issue p c .vLd (runLd p c err upset))
/-- V_ST (R207, R273). -/
def execVSt (p : PhysE) (c : Place) (upset : Option Upset) (s : State) : Out :=
  .next (s.issue p c .vSt (runSt p c upset))
/-- V_COMPRESS (R155). -/
def execVCompress (p : PhysE) (c : Place) (upset : Option Upset) (s : State) : Out :=
  .next (s.issue p c .vCompress (runCompress p c upset))
/-- V_EXPAND (R156). -/
def execVExpand (p : PhysE) (c : Place) (err : ReadErr) (upset : Option Upset) (s : State) : Out :=
  .next (s.issue p c .vExpand (runExpand p c err upset))
/-- V_SETIB (R207). -/
def execVSetib (p : PhysE) (c : Place) (s : State) : Out := .next (s.issue p c .vSetib (runVSetib p c))
/-- V_PTR (R207). -/
def execVPtr (p : PhysE) (c : Place) (s : State) : Out := .next (s.issue p c .vPtr (runPtr p c))
/-- V_SUMQ (R160). -/
def execVSumq (p : PhysE) (c : Place) (ahead : Nat) (s : State) : Out := .next (s.issue p c .vSumq (runSumq p c ahead))
/-- V_LI (R207). -/
def execVLi (p : PhysE) (c : Place) (s : State) : Out := .next (s.issue p c .vLi (runLi p c))
/-- V_SETRK (R209). -/
def execVSetrk (p : PhysE) (c : Place) (s : State) : Out := .next (s.issue p c .vSetrk (runSetrk p c))
/-- V_PST (R207). -/
def execVPst (p : PhysE) (c : Place) (s : State) : Out := .next (s.issue p c .vPst (runPst p c))
/-- V_PLOG (R207). -/
def execVPlog (p : PhysE) (c : Place) (s : State) : Out := .next (s.issue p c .vPlog (runPlog p c))
/-- Q_SUM (R164). -/
def execQSum (p : PhysE) (c : Place) (ahead : Nat) (upset : Option Upset) (s : State) : Out :=
  .next (s.issue p c .qSum (runQ p c .sum ahead upset))
/-- Q_SUMSQ (R164). -/
def execQSumsq (p : PhysE) (c : Place) (ahead : Nat) (upset : Option Upset) (s : State) : Out :=
  .next (s.issue p c .qSumsq (runQ p c .sumsq ahead upset))
/-- Q_MAX (R166). -/
def execQMax (p : PhysE) (c : Place) (ahead : Nat) (upset : Option Upset) (s : State) : Out :=
  .next (s.issue p c .qMax (runQ p c .max ahead upset))
/-- Q_MIN (R166). -/
def execQMin (p : PhysE) (c : Place) (ahead : Nat) (upset : Option Upset) (s : State) : Out :=
  .next (s.issue p c .qMin (runQ p c .min ahead upset))
/-- Q_ARGMAX (R166). -/
def execQArgmax (p : PhysE) (c : Place) (ahead : Nat) (upset : Option Upset) (s : State) : Out :=
  .next (s.issue p c .qArgmax (runQ p c .argmax ahead upset))
/-- Q_ARGMIN (R166). -/
def execQArgmin (p : PhysE) (c : Place) (ahead : Nat) (upset : Option Upset) (s : State) : Out :=
  .next (s.issue p c .qArgmin (runQ p c .argmin ahead upset))
/-- Q_NFC (R167). -/
def execQNfc (p : PhysE) (c : Place) (ahead : Nat) (upset : Option Upset) (s : State) : Out :=
  .next (s.issue p c .qNfc (runNfc p c ahead upset))
/-- Q_SETIB (R210). -/
def execQSetib (p : PhysE) (c : Place) (s : State) : Out := .next (s.issue p c .qSetib (runQSetib p c))
/-- D_GET (R212). -/
def execDGet (p : PhysE) (c : Place) (err : ReadErr) (s : State) : Out := .next (s.issue p c .dGet (runD p c .dGet err))
/-- D_PUT (R212). -/
def execDPut (p : PhysE) (c : Place) (err : ReadErr) (s : State) : Out := .next (s.issue p c .dPut (runD p c .dPut err))
/-- D_SEND (R212). -/
def execDSend (p : PhysE) (c : Place) (err : ReadErr) (s : State) : Out := .next (s.issue p c .dSend (runD p c .dSend err))
/-- D_GATHER (R212). -/
def execDGather (p : PhysE) (c : Place) (err : ReadErr) (s : State) : Out := .next (s.issue p c .dGather (runD p c .dGather err))
/-- D_ILOAD (R212). -/
def execDIload (p : PhysE) (c : Place) (err : ReadErr) (s : State) : Out := .next (s.issue p c .dIload (runD p c .dIload err))
/-- C_NOP. -/
def execCNop (p : PhysE) (c : Place) (s : State) : Out := .next (s.issue p c .cNop runNop)
/-- C_LOOP (R197). -/
def execCLoop (p : PhysE) (c : Place) (s : State) : Out := .next (s.issue p c .cLoop (runLoop p c))
/-- C_WAIT (R218). -/
def execCWait (p : PhysE) (c : Place) (s : State) : Out := .next (s.issue p c .cWait (runWait p c))
/-- C_ARM (R185). -/
def execCArm (p : PhysE) (c : Place) (s : State) : Out := .next (s.issue p c .cArm (runArm p c))
/-- C_SETLC (R196). -/
def execCSetlc (p : PhysE) (c : Place) (s : State) : Out := .next (s.issue p c .cSetlc (runSetlc p c))
/-- C_SELECT (R220). -/
def execCSelect (p : PhysE) (c : Place) (s : State) : Out := .next (s.issue p c .cSelect (runSelect p c))
/-- C_JUMP (R200, R602, R603). -/
def execCJump (p : PhysE) (c : Place) (s : State) : Out := .next (s.issue p c .cJump (runJump p c))
/-- C_COMMIT (R219). -/
def execCCommit (p : PhysE) (c : Place) (s : State) : Out :=
  .next (s.issue p c .cCommit (fun w s => runCommit p c (hdescOf w) none s))
/-- C_SWAPBANK (R221). -/
def execCSwapbank (p : PhysE) (c : Place) (s : State) : Out := .next (s.issue p c .cSwapbank (runSwapbank p c))
/-- C_STEP (R222). -/
def execCStep (p : PhysE) (c : Place) (s : State) : Out := .next (s.issue p c .cStep (runStep p c))
/-- C_END. -/
def execCEnd (p : PhysE) (c : Place) (s : State) : Out :=
  .next (s.issue p c .cEnd (fun w s => runCommit p c none (some (BitVec.ofNat 32 (wbits w 31 0))) s))

end Sys2Proof.Machine
end

