-- ==== Sys2Proof/Machine/Dispatch.lean ====
section
/-!
DEFINITION. The effect of each command: one arm per row of the operation table, each one call of its meaning.
-/

namespace Sys2Proof.Machine

/-- The effect of a command on everything but the queue. -/
def exec (i : Instr) (s : State) : Host.Outcome State Fault Refusal :=
  match i with
  | .mLoadw p c err => Sys2Proof.Machine.execMLoadw p c err s
  | .mPass p c err => Sys2Proof.Machine.execMPass p c err s
  | .mPasst p c err => Sys2Proof.Machine.execMPasst p c err s
  | .mFold p c => Sys2Proof.Machine.execMFold p c s
  | .mOut p c err => Sys2Proof.Machine.execMOut p c err s
  | .mSetib p c => Sys2Proof.Machine.execMSetib p c s
  | .pendingMBegin p err => Sys2Proof.Machine.execPendingMBegin p err s
  | .loadCornerCompare p err upset also => Sys2Proof.Machine.execLoadCornerCompare p err upset also s
  | .arrayRowCheck p err upset also => Sys2Proof.Machine.execArrayRowCheck p err upset also s
  | .passTokenEntry p => Sys2Proof.Machine.execPassTokenEntry p s
  | .vAdd p c => Sys2Proof.Machine.execVAdd p c s
  | .vSub p c => Sys2Proof.Machine.execVSub p c s
  | .vMul p c => Sys2Proof.Machine.execVMul p c s
  | .vFma p c => Sys2Proof.Machine.execVFma p c s
  | .vCmp p c upset => Sys2Proof.Machine.execVCmp p c upset s
  | .vSel p c upset => Sys2Proof.Machine.execVSel p c upset s
  | .vMin p c upset => Sys2Proof.Machine.execVMin p c upset s
  | .vMax p c upset => Sys2Proof.Machine.execVMax p c upset s
  | .vAnd p c upset => Sys2Proof.Machine.execVAnd p c upset s
  | .vOr p c upset => Sys2Proof.Machine.execVOr p c upset s
  | .vXor p c upset => Sys2Proof.Machine.execVXor p c upset s
  | .vAndn p c upset => Sys2Proof.Machine.execVAndn p c upset s
  | .vShl p c upset => Sys2Proof.Machine.execVShl p c upset s
  | .vShr p c upset => Sys2Proof.Machine.execVShr p c upset s
  | .vSra p c upset => Sys2Proof.Machine.execVSra p c upset s
  | .vCvt p c => Sys2Proof.Machine.execVCvt p c s
  | .vPerm p c upset => Sys2Proof.Machine.execVPerm p c upset s
  | .vLd p c err upset => Sys2Proof.Machine.execVLd p c err upset s
  | .vSt p c upset => Sys2Proof.Machine.execVSt p c upset s
  | .vCompress p c upset => Sys2Proof.Machine.execVCompress p c upset s
  | .vExpand p c err upset => Sys2Proof.Machine.execVExpand p c err upset s
  | .vSetib p c => Sys2Proof.Machine.execVSetib p c s
  | .vPtr p c => Sys2Proof.Machine.execVPtr p c s
  | .vSumq p c ahead => Sys2Proof.Machine.execVSumq p c ahead s
  | .vLi p c => Sys2Proof.Machine.execVLi p c s
  | .vSetrk p c => Sys2Proof.Machine.execVSetrk p c s
  | .vPst p c => Sys2Proof.Machine.execVPst p c s
  | .vPlog p c => Sys2Proof.Machine.execVPlog p c s
  | .residueCheck p upset => Sys2Proof.Machine.execResidueCheck p upset s
  | .compressCountLands p c kept => Sys2Proof.Machine.execCompressCountLands p c kept s
  | .qSum p c ahead upset => Sys2Proof.Machine.execQSum p c ahead upset s
  | .qSumsq p c ahead upset => Sys2Proof.Machine.execQSumsq p c ahead upset s
  | .qMax p c ahead upset => Sys2Proof.Machine.execQMax p c ahead upset s
  | .qMin p c ahead upset => Sys2Proof.Machine.execQMin p c ahead upset s
  | .qArgmax p c ahead upset => Sys2Proof.Machine.execQArgmax p c ahead upset s
  | .qArgmin p c ahead upset => Sys2Proof.Machine.execQArgmin p c ahead upset s
  | .qNfc p c ahead upset => Sys2Proof.Machine.execQNfc p c ahead upset s
  | .qSetib p c => Sys2Proof.Machine.execQSetib p c s
  | .sumqHeldWrite p c => Sys2Proof.Machine.execSumqHeldWrite p c s
  | .dGet p c err => Sys2Proof.Machine.execDGet p c err s
  | .dPut p c err => Sys2Proof.Machine.execDPut p c err s
  | .dSend p c err => Sys2Proof.Machine.execDSend p c err s
  | .dGather p c err => Sys2Proof.Machine.execDGather p c err s
  | .dIload p c err => Sys2Proof.Machine.execDIload p c err s
  | .transferPieceLanding p c id err merge => Sys2Proof.Machine.execTransferPieceLanding p c id err merge s
  | .lockedTransferComplete p c id => Sys2Proof.Machine.execLockedTransferComplete p c id s
  | .dChunkHandoff p c id err => Sys2Proof.Machine.execDChunkHandoff p c id err s
  | .shaleCompletion p c id err => Sys2Proof.Machine.execShaleCompletion p c id err s
  | .heldTokenEntry p c cls => Sys2Proof.Machine.execHeldTokenEntry p c cls s
  | .waitExpired p c core cc => Sys2Proof.Machine.execWaitExpired p c core cc s
  | .cNop p c => Sys2Proof.Machine.execCNop p c s
  | .cLoop p c => Sys2Proof.Machine.execCLoop p c s
  | .cWait p c => Sys2Proof.Machine.execCWait p c s
  | .cArm p c => Sys2Proof.Machine.execCArm p c s
  | .cSetlc p c => Sys2Proof.Machine.execCSetlc p c s
  | .cSelect p c => Sys2Proof.Machine.execCSelect p c s
  | .cJump p c => Sys2Proof.Machine.execCJump p c s
  | .cCommit p c => Sys2Proof.Machine.execCCommit p c s
  | .cSwapbank p c => Sys2Proof.Machine.execCSwapbank p c s
  | .cStep p c => Sys2Proof.Machine.execCStep p c s
  | .cEnd p c => Sys2Proof.Machine.execCEnd p c s
  | .segmentCommit p c err table => Sys2Proof.Machine.execSegmentCommit p c err table s
  | .instructionStreamHeader p c => Sys2Proof.Machine.execInstructionStreamHeader p c s
  | .streamSealLands p c also => Sys2Proof.Machine.execStreamSealLands p c also s
  | .ccInstruction p c upset => Sys2Proof.Machine.execCcInstruction p c upset s
  | .ebreak p c => Sys2Proof.Machine.execEbreak p c s
  | .csrAccess p c lost => Sys2Proof.Machine.execCsrAccess p c lost s
  | .xsqPop p c => Sys2Proof.Machine.execXsqPop p c s
  | .xsel p c => Sys2Proof.Machine.execXsel p c s
  | .xtok p c => Sys2Proof.Machine.execXtok p c s
  | .admitSeq p c => Sys2Proof.Machine.execAdmitSeq p c s
  | .capture p c => Sys2Proof.Machine.execCapture p c s
  | .retire p c => Sys2Proof.Machine.execRetire p c s
  | .release p c => Sys2Proof.Machine.execRelease p c s
  | .xcrcB p c => Sys2Proof.Machine.execXcrcB p c s
  | .xcrcH p c => Sys2Proof.Machine.execXcrcH p c s
  | .xcrcW p c => Sys2Proof.Machine.execXcrcW p c s
  | .xcrcSand p c => Sys2Proof.Machine.execXcrcSand p c s
  | .cuffSandFeedComplete p c err => Sys2Proof.Machine.execCuffSandFeedComplete p c err s
  | .xrnGo p c => Sys2Proof.Machine.execXrnGo p c s
  | .randomFillComplete p c err => Sys2Proof.Machine.execRandomFillComplete p c err s
  | .restorationComplete p c => Sys2Proof.Machine.execRestorationComplete p c s
  | .replayFirstIssue p c => Sys2Proof.Machine.execReplayFirstIssue p c s
  | .partitionStallEnd q => Sys2Proof.Machine.execPartitionStallEnd q s
  | .migrationReentry p => Sys2Proof.Machine.execMigrationReentry p s
  | .engineProbe p passed => Sys2Proof.Machine.execEngineProbe p passed s
  | .auditStart le c => Sys2Proof.Machine.execAuditStart le c s
  | .auditCompare upset => Sys2Proof.Machine.execAuditCompare upset s
  | .periodBoundary scrub clay addr => Sys2Proof.Machine.execPeriodBoundary scrub clay addr s
  | .cxlSweepPage q => Sys2Proof.Machine.execCxlSweepPage q s
  | .sliceTrigger k now => Sys2Proof.Machine.execSliceTrigger k now s
  | .switchDeadline p => Sys2Proof.Machine.execSwitchDeadline p s
  | .contextEntry p c now => Sys2Proof.Machine.execContextEntry p c now s
  | .partitionEnable q => Sys2Proof.Machine.execPartitionEnable q s
  | .partitionDisable q => Sys2Proof.Machine.execPartitionDisable q s
  | .loamZeroingComplete q => Sys2Proof.Machine.execLoamZeroingComplete q s
  | .partitionReset q => Sys2Proof.Machine.execPartitionReset q s
  | .partitionResetComplete q => Sys2Proof.Machine.execPartitionResetComplete q s
  | .registerWrite w off bytes v => Sys2Proof.Machine.execRegisterWrite w off bytes v s
  | .halfReadLatch f off => Sys2Proof.Machine.execHalfReadLatch f off s
  | .detCtlStrictWrite strict lock => Sys2Proof.Machine.execDetCtlStrictWrite strict lock s
  | .detCtlLockSet => Sys2Proof.Machine.execDetCtlLockSet s
  | .npstStart spares abort => Sys2Proof.Machine.execNpstStart spares abort s
  | .npstAbort => Sys2Proof.Machine.execNpstAbort s
  | .selfTestEnd aborted fails => Sys2Proof.Machine.execSelfTestEnd aborted fails s
  | .arrInjArm p v => Sys2Proof.Machine.execArrInjArm p v s
  | .vecInjArm p v => Sys2Proof.Machine.execVecInjArm p v s
  | .slotSwitchRequest => Sys2Proof.Machine.execSlotSwitchRequest s
  | .slotTableSwap => Sys2Proof.Machine.execSlotTableSwap s
  | .swSwitchRequest gshift => Sys2Proof.Machine.execSwSwitchRequest gshift s
  | .switchTableSwap now => Sys2Proof.Machine.execSwitchTableSwap now s
  | .engsetReset w mask => Sys2Proof.Machine.execEngsetReset w mask s
  | .engsetResetComplete failed => Sys2Proof.Machine.execEngsetResetComplete failed s
  | .submissionDoorbell f page word t => Sys2Proof.Machine.execSubmissionDoorbell f page word t s
  | .completionDoorbell f page word h => Sys2Proof.Machine.execCompletionDoorbell f page word h s
  | .eventRingDoorbell f page word h => Sys2Proof.Machine.execEventRingDoorbell f page word h s
  | .ringEnable v => Sys2Proof.Machine.execRingEnable v s
  | .ringDisable v => Sys2Proof.Machine.execRingDisable v s
  | .eventRingEnable e v => Sys2Proof.Machine.execEventRingEnable e v s
  | .descriptorFetch r d => Sys2Proof.Machine.execDescriptorFetch r d s
  | .descriptorStart r => Sys2Proof.Machine.execDescriptorStart r s
  | .nop r => Sys2Proof.Machine.execNop r s
  | .copy r data err => Sys2Proof.Machine.execCopy r data err s
  | .token r => Sys2Proof.Machine.execToken r s
  | .stream r data => Sys2Proof.Machine.execStream r data s
  | .ctxLoad r file bind => Sys2Proof.Machine.execCtxLoad r file bind s
  | .ctxUnload r => Sys2Proof.Machine.execCtxUnload r s
  | .setup r => Sys2Proof.Machine.execSetup r s
  | .slotLoad r data => Sys2Proof.Machine.execSlotLoad r data s
  | .swtabLoad r data => Sys2Proof.Machine.execSwtabLoad r data s
  | .tilthLoad r => Sys2Proof.Machine.execTilthLoad r s
  | .request r => Sys2Proof.Machine.execRequest r s
  | .admitBatch r => Sys2Proof.Machine.execAdmitBatch r s
  | .admitBatchTokenEntry r => Sys2Proof.Machine.execAdmitBatchTokenEntry r s
  | .epochLoad r => Sys2Proof.Machine.execEpochLoad r s
  | .epochSwitch r => Sys2Proof.Machine.execEpochSwitch r s
  | .frameTx r data => Sys2Proof.Machine.execFrameTx r data s
  | .frameRx r => Sys2Proof.Machine.execFrameRx r s
  | .completionWrite r ok => Sys2Proof.Machine.execCompletionWrite r ok s
  | .msixInterrupt r timer => Sys2Proof.Machine.execMsixInterrupt r timer s
  | .bonnetStep => Sys2Proof.Machine.execBonnetStep s
  | .telemetrySample x now => Sys2Proof.Machine.execTelemetrySample x now s
  | .thermalTrip sensor => Sys2Proof.Machine.execThermalTrip sensor s
  | .refclkLoss r => Sys2Proof.Machine.execRefclkLoss r s
  | .refclkReturn r => Sys2Proof.Machine.execRefclkReturn r s
  | .powerGood => Sys2Proof.Machine.execPowerGood s
  | .inputPowerLoss => Sys2Proof.Machine.execInputPowerLoss s
  | .modRst => Sys2Proof.Machine.execModRst s
  | .hostLinkReset => Sys2Proof.Machine.execHostLinkReset s
  | .stageAdvance o => Sys2Proof.Machine.execStageAdvance o s
  | .portTrainingComplete n l items => Sys2Proof.Machine.execPortTrainingComplete n l items s
  | .linkChange n l => Sys2Proof.Machine.execLinkChange n l s
  | .savedSettingsWrite => Sys2Proof.Machine.execSavedSettingsWrite s
  | .storeBatchWrite size => Sys2Proof.Machine.execStoreBatchWrite size s
  | .recoveryImage img => Sys2Proof.Machine.execRecoveryImage img s
  | .fwActivationComplete => Sys2Proof.Machine.execFwActivationComplete s
  | .gauntletLockstepRestart => Sys2Proof.Machine.execGauntletLockstepRestart s
  | .mbxInfo => Sys2Proof.Machine.execMbxInfo s
  | .mbxWindow w base limit rd wr q mod en => Sys2Proof.Machine.execMbxWindow w base limit rd wr q mod en s
  | .mbxUnwrap record slot q => Sys2Proof.Machine.execMbxUnwrap record slot q s
  | .fwStage off len img => Sys2Proof.Machine.execFwStage off len img s
  | .fwActivate => Sys2Proof.Machine.execFwActivate s
  | .mbxRotate q => Sys2Proof.Machine.execMbxRotate q s
  | .getVersion m => Sys2Proof.Machine.execGetVersion m s
  | .getCapabilities m v13 => Sys2Proof.Machine.execGetCapabilities m v13 s
  | .negotiateAlgorithms m common => Sys2Proof.Machine.execNegotiateAlgorithms m common s
  | .getDigests m => Sys2Proof.Machine.execGetDigests m s
  | .getCertificate m off len => Sys2Proof.Machine.execGetCertificate m off len s
  | .challenge m nonce => Sys2Proof.Machine.execChallenge m nonce s
  | .getMeasurements m nonce => Sys2Proof.Machine.execGetMeasurements m nonce s
  | .keyExchange m pub => Sys2Proof.Machine.execKeyExchange m pub s
  | .finish m mac opCert => Sys2Proof.Machine.execFinish m mac opCert s
  | .keyUpdate m all => Sys2Proof.Machine.execKeyUpdate m all s
  | .heartbeat m cfg => Sys2Proof.Machine.execHeartbeat m cfg s
  | .endSession m => Sys2Proof.Machine.execEndSession m s
  | .pqBind m ct => Sys2Proof.Machine.execPqBind m ct s
  | .dualSign m => Sys2Proof.Machine.execDualSign m s
  | .seal m dxk imgAlg imgKey => Sys2Proof.Machine.execSeal m dxk imgAlg imgKey s
  | .unseal m => Sys2Proof.Machine.execUnseal m s
  | .forceUnseal m q => Sys2Proof.Machine.execForceUnseal m q s
  | .stopInterfaceRequest f => Sys2Proof.Machine.execStopInterfaceRequest f s
  | .setWindow m w base limit rd wr en => Sys2Proof.Machine.execSetWindow m w base limit rd wr en s
  | .telemetry m => Sys2Proof.Machine.execTelemetry m s
  | .unwrap m record slot q => Sys2Proof.Machine.execUnwrap m record slot q s
  | .rotate m q => Sys2Proof.Machine.execRotate m q s
  | .setJoin m setid pub ct wrapped => Sys2Proof.Machine.execSetJoin m setid pub ct wrapped s
  | .own m caE caQ mac => Sys2Proof.Machine.execOwn m caE caQ mac s
  | .ownerRelease m sigE sigQ => Sys2Proof.Machine.execOwnerRelease m sigE sigQ s
  | .debugHalt r x => Sys2Proof.Machine.execDebugHalt r x s
  | .debugResume r x cc => Sys2Proof.Machine.execDebugResume r x cc s
  | .debugStep r p c n cc => Sys2Proof.Machine.execDebugStep r p c n cc s
  | .debugStepEnd p c => Sys2Proof.Machine.execDebugStepEnd p c s
  | .debugArm r p c => Sys2Proof.Machine.execDebugArm r p c s
  | .debugReadControl r p c => Sys2Proof.Machine.execDebugReadControl r p c s
  | .debugReadRegisters r off => Sys2Proof.Machine.execDebugReadRegisters r off s
  | .debugReadData r space addr len => Sys2Proof.Machine.execDebugReadData r space addr len s
  | .debugWrite r => Sys2Proof.Machine.execDebugWrite r s
  | .frameReceive n sub fcsOk frame => Sys2Proof.Machine.execFrameReceive n sub fcsOk frame s
  | .calendarSlot n sub now => Sys2Proof.Machine.execCalendarSlot n sub now s
  | .packetRelease x => Sys2Proof.Machine.execPacketRelease x s
  | .tilthDataReceive k => Sys2Proof.Machine.execTilthDataReceive k s
  | .chunkPlacement x err => Sys2Proof.Machine.execChunkPlacement x err s
  | .tilthAckReceive => Sys2Proof.Machine.execTilthAckReceive s
  | .tilthConfirmReceive k => Sys2Proof.Machine.execTilthConfirmReceive k s
  | .tilthRetractReceive k => Sys2Proof.Machine.execTilthRetractReceive k s
  | .confirmSend x => Sys2Proof.Machine.execConfirmSend x s
  | .ackSend x => Sys2Proof.Machine.execAckSend x s
  | .retransmitTimeout x => Sys2Proof.Machine.execRetransmitTimeout x s
  | .egressDown n sub => Sys2Proof.Machine.execEgressDown n sub s
  | .rateIncrease x => Sys2Proof.Machine.execRateIncrease x s
  | .reductionFold entry upset => Sys2Proof.Machine.execReductionFold entry upset s
  | .relayRecordComplete k => Sys2Proof.Machine.execRelayRecordComplete k s
  | .relayForward k => Sys2Proof.Machine.execRelayForward k s
  | .bundleChunkVerify k upset => Sys2Proof.Machine.execBundleChunkVerify k upset s
  | .lldpTransmit n => Sys2Proof.Machine.execLldpTransmit n s
  | .lldpReceive n x => Sys2Proof.Machine.execLldpReceive n x s
  | .errorRecordSend => Sys2Proof.Machine.execErrorRecordSend s
  | .recordResend seq => Sys2Proof.Machine.execRecordResend seq s
  | .collectorAck seq => Sys2Proof.Machine.execCollectorAck seq s
  | .telemetryDatagram now => Sys2Proof.Machine.execTelemetryDatagram now s
  | .location code => Sys2Proof.Machine.execLocation code s
  | .status => Sys2Proof.Machine.execStatus s
  | .offRequest => Sys2Proof.Machine.execOffRequest s
  | .i3cReset => Sys2Proof.Machine.execI3cReset s
  | .entdaa addr => Sys2Proof.Machine.execEntdaa addr s
  | .join x => Sys2Proof.Machine.execJoin x s
  | .joinTimeout => Sys2Proof.Machine.execJoinTimeout s
  | .register acting => Sys2Proof.Machine.execRegister acting s
  | .go o ms => Sys2Proof.Machine.execGo o ms s
  | .hold mods => Sys2Proof.Machine.execHold mods s
  | .perstRelease => Sys2Proof.Machine.execPerstRelease s
  | .lockInterfaceRequest f => Sys2Proof.Machine.execLockInterfaceRequest f s
  | .startInterfaceRequest f => Sys2Proof.Machine.execStartInterfaceRequest f s
  | .ideKeySetActivate strm set => Sys2Proof.Machine.execIdeKeySetActivate strm set s
  | .vfEnable f on => Sys2Proof.Machine.execVfEnable f on s
  | .cxlLinkFailure port => Sys2Proof.Machine.execCxlLinkFailure port s
  | .timeToLiveExpiry n => Sys2Proof.Machine.execTimeToLiveExpiry n s
  | .recoveryImageTimeout mgmtUp => Sys2Proof.Machine.execRecoveryImageTimeout mgmtUp s
  | .storeBatchComplete => Sys2Proof.Machine.execStoreBatchComplete s
  | .slewBackComplete r => Sys2Proof.Machine.execSlewBackComplete r s
  | .overVoltageShutdown rail => Sys2Proof.Machine.execOverVoltageShutdown rail s
  | .ptpMessageTransmit n sub typ now => Sys2Proof.Machine.execPtpMessageTransmit n sub typ now s
  | .setupPolicyInstall pol => Sys2Proof.Machine.execSetupPolicyInstall pol s

end Sys2Proof.Machine
end

