-- ==== Sys2Proof/Safety.lean ====
section
/-!
DEFINITION. What the statements say of a run: the invariants of the state, when an instruction of an engine runs, and the
frames, which name the parts of the state that may change and leave every other part equal.
-/

namespace Sys2Proof.Machine

/-! ## Invariants -/

/-- The global memory of the module (Loam, Clay, the two Shale devices) is in its canonical form. (DESIGN CHOICE, log
entry 2.) -/
def State.globalWf (s : State) : Prop :=
  s.loam.wf = true ∧ s.clay.wf = true ∧ s.cxl0.wf = true ∧ s.cxl1.wf = true

/-- The memories of an engine are in their canonical form. (DESIGN CHOICE, log entry 2.) -/
def Engine.wf (e : Engine) : Prop := e.sand.wf = true ∧ e.silt.wf = true ∧ e.ccI.wf = true ∧ e.ccD.wf = true

/-! ## Engine instructions -/

/-- A read of Sand or Silt that delivers its data (R283): a bad CRC is one of the die links alone. -/
def readDelivers : ReadErr → Bool
  | .uncorrectable _ _ => false
  | _ => true

/-- Context c of engine p is at an instruction o whose word is w, and nothing holds its group (R180). -/
def State.canRun (s : State) (p c : Nat) (o : EngOp) (w : W64) : Prop :=
  s.issues p c o = true ∧ s.instrAt p c = w

/-- The context as its group's first instruction leaves it to issue: its TW tokens popped (R185). -/
def State.ctxAt (s : State) (p c : Nat) : Ctx := (s.opened p c).ctx p c

/-- Beside its recorded part, which is `r` but for the PC and its loops, context y differs from x only in what issue keeps
of the present group. -/
def Ctx.issued (x y : Ctx) (r : Rec) : Prop :=
  y = { x with gi := y.gi, oldV := y.oldV, oldP := y.oldP,
               cur := { r with pc := y.cur.pc, loops := y.cur.loops } }

/-- An instruction of context c of engine p ran from s to t: outside engine p, t is `s'`; engine p is `e` but for its
contexts; its other contexts are as before; and context c is `x` with the recorded part `r`, but for the PC, its loops and
what issue keeps of the group. -/
def RunsTo (s s' t : State) (p c : Nat) (e : Engine) (x : Ctx) (r : Rec) : Prop :=
  t = { s' with eng := t.eng } ∧
  (∀ j, j ≠ p → t.engine j = s.engine j) ∧
  t.engine p = { e with ctx := (t.engine p).ctx } ∧
  (∀ j, j ≠ c → t.ctx p j = s.ctx p j) ∧
  x.issued (t.ctx p c) r

/-- Every vector register of engine p but the context's vi holds what it held. -/
def sameVregs (s t : State) (p c i : Nat) : Prop :=
  ∀ k, k ≠ (s.vregShare p c).1 + i → Tab.get 0 (t.engine p).vreg k = Tab.get 0 (s.engine p).vreg k

/-- An instruction of context c of engine p ran from s to t, and beside context c it changed vector register vd of the
context alone. -/
def RunsToVreg (s t : State) (p c vd : Nat) (r : Rec) : Prop :=
  RunsTo s s t p c { s.engine p with vreg := (t.engine p).vreg, vchk := (t.engine p).vchk } (s.ctxAt p c) r ∧
  sameVregs s t p c vd

/-- An instruction of context c of engine p ran from s to t and changed nothing outside context c's recorded part. -/
def RunsToRec (s t : State) (p c : Nat) (r : Rec) : Prop := RunsTo s s t p c (s.engine p) (s.ctxAt p c) r

/-- No armed injection meets the instruction (R176). -/
def noInj (s : State) (p target : Nat) (vp : Pred) (one : Bool) : Prop := s.injHit p target vp one = none

/-- Each active element of a register of layout f is the value given, and each inactive one is as in `old` (R147). -/
def elementsAre (f : Fmt) (vp : Pred) (old new : VReg) (val : Nat → Nat) : Prop :=
  ∀ k, k < f.count → elem f new k = if active f vp k then val k % 2 ^ f.width else elem f old k

/-- The context's Sand holds what it held outside n bytes at offset a of its share, and the bytes of the other engines'
memories, of Silt and of the instruction and control-core memories stand. -/
def sandBut (s t : State) (p c a n : Nat) : Prop :=
  (t.engine p).silt = (s.engine p).silt ∧
  ∀ b, (b < (s.sandShare p c).1 + a ∨ (s.sandShare p c).1 + a + n ≤ b) →
    Mem.read (t.engine p).sand b = Mem.read (s.engine p).sand b

/-! ## Reductions -/

/-- The lanes of the inputs that accumulator m takes: with SEG the first takes lanes 0 to 255 and the second lanes 256 to 511
(R168). -/
def qHalf (w : W64) (m : Nat) : Nat × Nat :=
  if w.getLsbD 31 then (if m = wbits w 45 44 then (0, 256) else (256, 512)) else (0, 512)

/-- Accumulator m before it takes its inputs: fresh with START. -/
def State.qFrom (s : State) (p c : Nat) (w : W64) (m : Nat) : Accum := if w.getLsbD 34 then Accum.start else (s.ctx p c).acc m

/-- Accumulator m once it has taken the active inputs of a Q instruction, in lane order. -/
def State.qTook (s : State) (p c : Nat) (op : QOp) (w : W64) (m : Nat) : Accum :=
  (s.qFrom p c w m).lanes op (vT w) (s.pOld p c (wbits w 37 35)) (s.vOld p c (wbits w 43 38)) (s.ctx p c).cur.qib
    (qHalf w m).1 (qHalf w m).2

/-- The non-finite inputs a Q instruction meets. -/
def State.qCounted (s : State) (p c : Nat) (op : QOp) (w : W64) : W64 :=
  ((qAccs w).map (fun m => (s.qTook p c op w m).count - (s.qFrom p c w m).count)).foldl (· + ·) 0

/-- The recorded part after the inputs: QIB rises with AI (R210). -/
def State.qRec (s : State) (p c : Nat) (w : W64) : Rec :=
  let r := (s.ctx p c).cur
  if w.getLsbD 32 then { r with qib := r.qib + BitVec.ofNat 64 (vT w).count } else r

/-- The accumulators a Q instruction names can take inputs: START opens them, or each is open with its copies alike. -/
def State.qReady (s : State) (p c : Nat) (w : W64) : Prop :=
  w.getLsbD 34 = true ∨ ∀ m ∈ qAccs w, ((s.ctx p c).acc m).open_ = true ∧ (s.ctx p c).accDup m = (s.ctx p c).acc m

/-- The summary entry of one result of a Q instruction (R167). -/
def qEntry (w : W64) (e : Nat × W64) : SumEntry :=
  { value := e.2, tag := BitVec.ofNat 16 (wbits w 28 13), kind := BitVec.ofNat 4 e.1, fromRed := true }

/-! ## Converted rows -/

/-- Row r of a conversion has landed: x stands in its bytes of Sand, or in its lanes of its vector register (R205). -/
def rowLanded (t : State) (p c : Nat) (o : MOp) (r x : Nat) : Prop :=
  let d := o.desc
  let f := outFmt d
  if dfld d 22 1 = 1 then
    let per := if f = .bf16 then 4 else 2
    let n := 512 / per
    ∀ j, j < n → lane (t.vreg p c (dfld d 36 4 + r / per)) (n * (r % per) + j) = BitVec.ofNat 32 (x / 2 ^ (32 * j))
  else ∀ i, i < outRowBytes f →
    Mem.read (t.engine p).sand ((t.sandShare p c).1 + dfld d 36 4 + r * dfld d 40 4 + i) = (leBytes (outRowBytes f) x).getD i 0

/-- The rows of a conversion to Sand do not meet. -/
def MOp.rowsApart (o : MOp) : Prop := dfld o.desc 22 1 = 1 ∨ outRowBytes (outFmt o.desc) ≤ dfld o.desc 40 4

/-! ## One context, one register -/

/-- From s to t only context c of engine p changed, and in t it is x. -/
def CtxOnly (s t : State) (p c : Nat) (x : Ctx) : Prop :=
  t = { s with eng := t.eng } ∧ (∀ j, j ≠ p → t.engine j = s.engine j) ∧
  t.engine p = { s.engine p with ctx := (t.engine p).ctx } ∧ (∀ j, j ≠ c → t.ctx p j = s.ctx p j) ∧ t.ctx p c = x

/-- A context's record after a control-core instruction that writes v to rd, goes on at pc and takes cyc cycles (R228,
R232). -/
def Rec.ccDone (r : Rec) (rd : Nat) (v pc : W32) (cyc : Nat) : Rec :=
  { r with x := if rd = 0 then r.x else r.x.set rd v, ccpc := pc.toNat, cycle := r.cycle + BitVec.ofNat 64 cyc
           instret := r.instret + 1 }

/-- Every register but those at the offsets named holds what it held. -/
def regsBut (s t : State) (offs : List Nat) : Prop := ∀ off, off ∉ offs → t.reg off = s.reg off

/-- Software's write of a whole register of n bytes at an offset takes effect: the host link is up, the engine whose window
it is is neither disabled nor retired, no rule of the write path refuses it, and neither does the register's own (R21,
R591, R596). -/
def State.takesWrite (s : State) (off n v : Nat) : Prop :=
  s.boot.hostDown = false ∧ s.pathRefused .host off (gauntletRegs.contains off) = false ∧
  (∀ p ∈ windowOf off, s.fld (Reg.engHealth p) 2 0 < 4) ∧
  ∃ r ∈ regAt off, r.byte = 0 ∧ r.off = off ∧ r.row.size = n ∧ s.regRefused false r v = false

/-! ## Check failures -/

/-- The counters of a check failure of class cls on engine p and of another failure in the same cc (R175, R504). -/
def failCounters (p cls : Nat) (also : Option Second) : List Nat :=
  (classCounter p cls).toList ++
  (match also with | some k => if k.cls.toNat = cls then [] else (classCounter p k.cls.toNat).toList | none => [])

/-- The counters named can rise, the engine's block has room for a record, and the context is not being unloaded. -/
def State.countsFails (s : State) (p c : Nat) (offs : List Nat) : Prop :=
  (∀ o ∈ offs, (s.reg o).toNat + 1 < 2 ^ 64 - 1) ∧ (Tab.get [] s.recBuf p).length < 8 ∧ (s.ctx p c).going = false

/-- From s to t a check failure of context c of engine p, at address a of a tier if it is one of a tier, stopped the
context for a replay: each counter rose by one; the record r went to the engine's block, and its class to ENG_HEALTH when
it is an engine's own (R512); the context waits for restoration and its recorded boundary stands; and every memory, every
vector register, every other register and every other context stands, and every other engine, but for the spare of an audit
of the context, which is dropped (R528). A shadow's failure only drops its audit. -/
def StoppedForReplay (s t : State) (p c : Nat) (r : ErrRec) (a : Option Nat) (offs : List Nat) : Prop :=
  (∀ o ∈ offs, (t.reg o).toNat = (s.reg o).toNat + 1) ∧
  t.recBuf = s.recBuf.set p (Tab.get [] s.recBuf p ++ [r]) ∧
  (2 ≤ r.cls ∧ r.cls ≤ 8 → t.fld (Reg.engHealth p) 15 8 = r.cls) ∧
  regsBut s t (offs ++ [Reg.engHealth p, Reg.auditStat]) ∧
  t = { s with eng := t.eng, regs := t.regs, audit := (s.dropAudit p c).audit, recBuf := t.recBuf } ∧
  ((s.ctx p c).shadow = true → t.eng = (s.dropAudit p c).eng) ∧
  ((s.ctx p c).shadow = false →
    (t.ctx p c).rep = .restoring ∧ (t.ctx p c).repFault = some ⟨r.cls, a⟩ ∧
    (t.ctx p c).st = (s.ctx p c).st ∧ (t.ctx p c).saved = (s.ctx p c).saved ∧
    (∀ j, j ≠ p → t.engine j = (s.dropAudit p c).engine j) ∧ (∀ j, j ≠ c → t.ctx p j = s.ctx p j) ∧
    t.engine p = { s.engine p with ctx := (t.engine p).ctx, flights := (t.engine p).flights, mDone := (t.engine p).mDone
                                   vchk := (t.engine p).vchk })

/-! ## Program faults -/

/-- From s to t context c of engine p took a program fault (R224): it is halted with the code, the group's address, the copy and
the class; the record of class 0x10 went to the engine's block if that had room; of its transfers only those of an earlier
segment stay whose token is to come; the journal of the control core is written back; its recorded boundary stands; and every
other memory and every vector register of the engine, every global memory, every other context, and every other engine stand,
but for the spare of an audit of the context, which is dropped (R528). A shadow's fault only drops its audit. -/
def HaltedBy (s t : State) (p c code cls fpc : Nat) (bankB : Bool) : Prop :=
  let x := s.ctx p c
  let y := t.ctx p c
  if x.shadow = true then t = s.dropAudit p c else
  y.st = .halted ∧ y.fault = code ∧ y.fpc = fpc ∧ y.fbankB = bankB ∧ y.fclass = cls ∧
  y.mPend = none ∧ y.commit = none ∧ y.digs = [] ∧ y.seqOps = [] ∧
  y.xfers = x.xfers.filter Xfer.owed ∧ y.saved = x.saved ∧
  (x.part < 8 → (t.engine p).ccD = s.journalMem p c ∧ ((Tab.get [] s.recBuf p).length < 8 →
    Tab.get [] t.recBuf p = Tab.get [] s.recBuf p ++ [s.ctxRec p c 0x10 (leBytes 4 code ++ leBytes 4 fpc)])) ∧
  t = { s with eng := t.eng, rings := t.rings, audit := (s.dropAudit p c).audit, regs := t.regs, recBuf := t.recBuf
               recLost := t.recLost, ev := t.ev, out := t.out, msixPend := t.msixPend } ∧
  (∀ j, j ≠ p → t.engine j = (s.dropAudit p c).engine j) ∧ (∀ j, j ≠ c → t.ctx p j = s.ctx p j) ∧
  t.engine p = { s.engine p with ctx := (t.engine p).ctx, flights := (t.engine p).flights, mDone := (t.engine p).mDone
                                 vchk := (t.engine p).vchk, ccD := (t.engine p).ccD }

/-! ## Other frames -/

/-- From s to t only the contexts of engines changed: every engine keeps its memories, its units and its switch. -/
def ContextsOnly (s t : State) : Prop :=
  t = { s with eng := t.eng } ∧ ∀ p, t.engine p = { s.engine p with ctx := (t.engine p).ctx }

end Sys2Proof.Machine
end

