-- ==== Sys2Proof/Certificates/Slice0/Obligations.lean ====
section
/-!
DEFINITION. The statements for the provers. Where a statement names several commands, each clause says of one command when
it has its own effect, that `exec` then answers a next state, what that state holds, and what stays as it was.
-/

open Sys2Proof Sys2Proof.Machine

/-! ## The block -/

/-- A step takes the command at the front of the queue and runs it on the state with the queue's rest; an empty queue
idles. The queue is the model's own form of the commands that wait (log entry 1). -/
def Obligations.StepRunsTheFrontCommand : Prop :=
  (∀ (i : Instr) (rest : List Instr) (s : State), s.pending = i :: rest →
    step s = exec i { s with pending := rest }) ∧
  (∀ s : State, s.pending = [] → step s = .next s)

/-- No step makes a byte of Loam, Clay or Shale memory, or of an engine's Sand, Silt or control-core memories, stand twice, out
of order or as a listed zero: the memories keep the one form in which equal contents are equal data. The form is the model's own
(log entry 2). -/
def Obligations.EveryStepKeepsTheMemoriesCanonical : Prop :=
  ∀ s t : State, step s = .next t →
    (s.globalWf → t.globalWf) ∧ ((∀ p, (s.engine p).wf) → ∀ p, (t.engine p).wf)

/-- Right after reset the memories are in that form. The form and the empty memory are the model's own (log entries 2 to
4). -/
def Obligations.ResetMemoryIsCanonical : Prop :=
  State.reset.globalWf ∧ ∀ p, (State.reset.engine p).wf

/-! ## Vector instructions -/

/-- V.ADD, V.SUB, V.MUL and V.FMA give each active element of VD its value and leave the inactive ones and every other
register, predicate, pointer and memory; a residue check of the result is due. That a row runs one word of its group is
the model's reading (log entry 12). -/
def Obligations.VectorArithmeticGivesItsElements : Prop :=
  ∀ (s : State) (p : PhysE) (c : Place) (w : W64),
    let f := vT w
    let vd := wbits w 45 40
    let a := elem f (s.vreg p c (wbits w 39 34))
    let b := elem f (s.vreg p c (wbits w 33 28))
    let d := elem f (s.vreg p c (wbits w 27 22))
    let gives := fun (i : Instr) (val : Nat → Nat) => ∃ t, exec i s = .next t ∧
      RunsToVreg s t p c vd (s.ctx p c).cur ∧
      elementsAre f (s.vp p c w) (s.vreg p c vd) (t.vreg p c vd) val ∧
      (t.engine p).vchk = (s.engine p).vchk ++ [⟨c, 0, (s.ctx p c).cur.pc, false⟩]
    noInj s p 0 (s.vp p c w) false →
    (s.canRun p c .vAdd w → gives (.vAdd p c) (fun k => f.add (a k) (b k))) ∧
    (s.canRun p c .vSub w → gives (.vSub p c) (fun k => f.sub (a k) (b k))) ∧
    (s.canRun p c .vMul w → gives (.vMul p c) (fun k => f.mul (a k) (b k))) ∧
    (s.canRun p c .vFma w → gives (.vFma p c) (fun k => f.fma (a k) (b k) (d k)))

/-- The operations under parity that write VD: minimum, maximum, the logic operations, the shifts, V.SEL and V.PERM give
each active element its value and leave everything else. -/
def Obligations.VectorMovesGiveTheirElements : Prop :=
  ∀ (s : State) (p : PhysE) (c : Place) (w : W64),
    let f := vT w
    let vd := wbits w 45 40
    let a := fun g => elem g (s.vreg p c (wbits w 39 34))
    let b := fun g => elem g (s.vreg p c (wbits w 33 28))
    let gives := fun (i : Instr) (g : Fmt) (val : Nat → Nat) => ∃ t, exec i s = .next t ∧
      RunsToVreg s t p c vd (s.ctx p c).cur ∧ (t.engine p).vchk = (s.engine p).vchk ∧
      elementsAre g (s.vp p c w) (s.vreg p c vd) (t.vreg p c vd) val
    noInj s p 1 (s.vp p c w) false →
    (s.canRun p c .vMin w → gives (.vMin p c none) f (fun k => f.minMax false (a f k) (b f k))) ∧
    (s.canRun p c .vMax w → gives (.vMax p c none) f (fun k => f.minMax true (a f k) (b f k))) ∧
    (s.canRun p c .vAnd w → gives (.vAnd p c none) .int32 (fun k => a .int32 k &&& b .int32 k)) ∧
    (s.canRun p c .vOr w → gives (.vOr p c none) .int32 (fun k => a .int32 k ||| b .int32 k)) ∧
    (s.canRun p c .vXor w → gives (.vXor p c none) .int32 (fun k => a .int32 k ^^^ b .int32 k)) ∧
    (s.canRun p c .vAndn w → gives (.vAndn p c none) .int32 (fun k => a .int32 k &&& (2 ^ 32 - 1 - b .int32 k))) ∧
    (s.canRun p c .vShl w → gives (.vShl p c none) .int32 (fun k => a .int32 k * 2 ^ (b .int32 k % 32))) ∧
    (s.canRun p c .vShr w → gives (.vShr p c none) .int32 (fun k => a .int32 k / 2 ^ (b .int32 k % 32))) ∧
    (s.canRun p c .vSra w → gives (.vSra p c none) .int32
      (fun k => ((BitVec.ofNat 32 (a .int32 k)).sshiftRight (b .int32 k % 32)).toNat)) ∧
    (s.canRun p c .vSel w → gives (.vSel p c none) .int32
      (fun k => if ((s.ctx p c).cur.vpred (wbits w 15 13)).getLsbD k then a .int32 k else b .int32 k)) ∧
    (s.canRun p c .vPerm w → gives (.vPerm p c none) .int32 (fun k => a .int32 (b .int32 k % 512)))

/-- V.CMP and V.PLOG write predicate VPD alone. V.CMP gives an active lane the condition (both elements' for BF16), taken
together with what the lane held when ACC is 1; V.PLOG gives it the operation on VPA and VPB; an inactive lane keeps what
it held (for V.CMP with ACC 1 as well). That a row runs one word of its group is the model's reading (log entry 12). -/
def Obligations.PredicateWritesGiveTheirLanes : Prop :=
  ∀ (s : State) (p : PhysE) (c : Place) (w : W64),
    let r := (s.ctx p c).cur
    let vpd := wbits w 15 13
    let vp := s.vp p c w
    let f := vT w
    let a := elem f (s.vreg p c (wbits w 39 34))
    let b := elem f (s.vreg p c (wbits w 33 28))
    let gives := fun (i : Instr) (val : Nat → Bool) => ∃ t, exec i s = .next t ∧
      RunsToRec s t p c { r with vp := (t.ctx p c).cur.vp } ∧
      (∀ j, j ≠ vpd → (t.ctx p c).cur.vpred j = r.vpred j) ∧
      (0 < vpd → ∀ k, k < 512 → ((t.ctx p c).cur.vpred vpd).getLsbD k = if vp.getLsbD k then val k else (r.vpred vpd).getLsbD k)
    (s.canRun p c .vCmp w → noInj s p 1 vp true → gives (.vCmp p c none) (fun k =>
      (w.getLsbD 12 && (r.vpred vpd).getLsbD k) ||
      (if f = .bf16 then f.cmp (wbits w 18 16) (a (2 * k)) (b (2 * k)) && f.cmp (wbits w 18 16) (a (2 * k + 1)) (b (2 * k + 1))
       else f.cmp (wbits w 18 16) (a k) (b k)))) ∧
    (s.canRun p c .vPlog w → gives (.vPlog p c) (fun k =>
      let x := (r.vpred (wbits w 12 10)).getLsbD k
      let y := (r.vpred (wbits w 9 7)).getLsbD k
      match wbits w 18 16 with
      | 0 => x && y | 1 => x || y | 2 => x && !y | 3 => x ^^ y | _ => !x))

/-- V.LI, V.SETIB, V.SETRK, V.PTR and V.SUMQ: every lane of VD takes the immediate; VIB takes lanes 0 and 1 of VA; RKk
takes its seed and identifier from VA; the pointer named takes its offset; the summary enters a queue that has room, before
the last `ahead` entries of reductions that land later, and a full queue holds it and sets SUMQ_STAT.HELD. The pointers'
width and that V.SETIB and V.SETRK do not look at VP are the model's readings (log entries 15, 107). -/
def Obligations.VectorSettersWriteTheirRegister : Prop :=
  ∀ (s : State) (p : PhysE) (c : Place) (w : W64),
    let x := s.ctx p c
    let r := x.cur
    let va := s.vreg p c (wbits w 39 34)
    let e : SumEntry := {
      value := BitVec.ofNat 64 (sumValue (wbits w 17 14) (wbits w 13 5) (wbits w 4 2) va (r.vpred (wbits w 45 43)))
      tag := BitVec.ofNat 16 (wbits w 33 18)
      kind := BitVec.ofNat 4 (wbits w 17 14)
      fromRed := false }
    (s.canRun p c .vLi w → ∃ t, exec (.vLi p c) s = .next t ∧ RunsToVreg s t p c (wbits w 45 40) r ∧
      ∀ k, k < 512 → lane (t.vreg p c (wbits w 45 40)) k = BitVec.ofNat 32 (wbits w 31 0)) ∧
    (s.canRun p c .vSetib w → ∃ t, exec (.vSetib p c) s = .next t ∧ RunsToRec s t p c { r with vib := lanePair va }) ∧
    (s.canRun p c .vSetrk w → ∃ t, exec (.vSetrk p c) s = .next t ∧
      RunsToRec s t p c { r with rk := r.rk.set (wbits w 18 17) ⟨lanePair va, lane va 2⟩ }) ∧
    (s.canRun p c .vPtr w → ∃ t, exec (.vPtr p c) s = .next t ∧
      RunsToRec s t p c (match wbits w 45 43 with
        | 0 => { r with cptr := wbits w 39 16 }
        | 1 => { r with eptr := wbits w 39 16 }
        | n => { r with lp := r.lp.set (n - 2) (wbits w 39 16) })) ∧
    (s.canRun p c .vSumq w → r.sumq.length < 32 → x.sumHeld = [] → ∀ ahead,
      let k := r.sumq.length - min ahead (r.sumq.reverse.takeWhile (·.fromRed)).length
      ∃ t, exec (.vSumq p c ahead) s = .next t ∧
        RunsToRec s t p c { r with sumq := r.sumq.take k ++ e :: r.sumq.drop k }) ∧
    (s.canRun p c .vSumq w → r.sumq.length = 32 → x.sumHeld = [] → ∃ t, exec (.vSumq p c 0) s = .next t ∧
      RunsTo s (s.setFld (Reg.sumqStat p c) 6 6 1) t p c (s.engine p) { s.ctxAt p c with sumHeld := [e] } r)

/-- V.CVT with an accepted pair and, where the pair is scaled, an accepted scale: VD takes the converted register, the
exceptions are added to VEC_FLAGS of the context, and VIB rises by the source's count when AI is 1; every other register
of the register file and every other setup register stands. That a row runs one word of its group is the model's reading
(log entry 12). -/
def Obligations.VectorConversionCompletes : Prop :=
  ∀ (s : State) (p : PhysE) (c : Place) (w : W64) (fs fd : Fmt),
    let r := (s.ctx p c).cur
    let vd := wbits w 45 40
    let sw := (lane (s.vreg p c (wbits w 27 22)) 0).toNat
    let scaled := fs.isNarrow || fd.isNarrow
    let rm := Rm.ofCode (wbits w 10 9)
    let rw := fun j => if rm = .sr then r.roundWord (Tab.get {} r.rk (wbits w 7 6)) (r.vib + BitVec.ofNat 64 j) else 0
    let res := convert fs fd rm (w.getLsbD 8) (wbits w 4 2) (s.vp p c w)
      (if scaled then some (Fmt.fp32.decode sw) else none) rw (s.vreg p c (wbits w 39 34)) (s.vreg p c vd)
    let r' := if w.getLsbD 5 then { r with vib := r.vib + BitVec.ofNat 64 fs.count } else r
    s.canRun p c .vCvt w → Fmt.ofCode (wbits w 18 15) = some fs → Fmt.ofCode (wbits w 14 11) = some fd →
    (scaled = true → scaleOk sw = true) → noInj s p 0 (s.vp p c w) false →
    ∃ t, exec (.vCvt p c) s = .next t ∧
      RunsTo s (s.orReg (Reg.vecFlags p c) res.2.word) t p c
        { s.engine p with vreg := (t.engine p).vreg, vchk := (t.engine p).vchk } (s.ctxAt p c) r' ∧
      sameVregs s t p c vd ∧ t.vreg p c vd = res.1

/-- V.LD, V.ST and V.PST at an aligned address inside the share: V.LD gives each active lane its word of the 2,048 bytes, and a
corrected error is counted; an uncorrectable one loads nothing and stops the segment, for a replay, or for good when the word
that failed is held, with another failure of the same cc in its record; V.ST stores each active lane's word and changes no byte
outside them; V.PST stores the 64 bytes of its predicate; with INC the pointer moves on by the access; and a store that would
touch a held range, or an address that is misaligned or beyond the share, halts the context with its code. The pointers' width
and that a misaligned address is reported first are the model's readings (log entries 15, 110). -/
def Obligations.VectorAccessesMoveTheirBytes : Prop :=
  ∀ (s : State) (p : PhysE) (c : Place) (w : W64),
    let so := s.opened p c
    let x := s.ctx p c
    let r := x.cur
    let a := s.vAddr p c w
    let vp := s.vp p c w
    let vd := wbits w 45 40
    let r' := fun n => if w.getLsbD 16 then { r with lp := r.lp.set (wbits w 18 17) ((r.ptr (wbits w 18 17) + n) % 2 ^ 24) } else r
    let base := (s.sandShare p c).1 + a
    let failed := fun (k : Nat) (also : Option Second) => so.failRec p c 0x08 (leBytes 4 (sramAt 0 a 2048 k)) also
    (s.canRun p c .vLd w → s.vAddrBad p c a 2048 = none → noInj s p 1 vp false →
      (∀ err, readDelivers err = true → ∃ t, exec (.vLd p c err none) s = .next t ∧
        RunsTo s (if err = .corrected then s.bump (Reg.sramEcccor p) 1 else s) t p c
          { s.engine p with vreg := (t.engine p).vreg } (s.ctxAt p c) (r' 2048) ∧
        sameVregs s t p c vd ∧
        ∀ k, k < 512 → lane (t.vreg p c vd) k =
          if vp.getLsbD k then BitVec.ofNat 32 (leNat (s.sandBytes p c (a + 4 * k) 4)) else lane (s.vreg p c vd) k)) ∧
    (s.canRun p c .vLd w → s.vAddrBad p c a 2048 = none → ∀ k also u,
      ((so.ctx p c).holds 0 (sramAt 0 a 2048 k) 8 = false → so.countsFails p c (failCounters p 0x08 also) →
        ∃ t, exec (.vLd p c (.uncorrectable k also) u) s = .next t ∧
          StoppedForReplay so t p c (failed k also) none (failCounters p 0x08 also)) ∧
      ((so.ctx p c).holds 0 (sramAt 0 a 2048 k) 8 = true →
        ∃ t, exec (.vLd p c (.uncorrectable k also) u) s = .next t ∧ ((s.ctx p c).shadow = false → (t.ctx p c).st = .halted) ∧
          (t.engine p).vreg = (s.engine p).vreg ∧ (t.engine p).sand = (s.engine p).sand)) ∧
    (s.canRun p c .vSt w → s.vAddrBad p c a 2048 = none → noInj s p 1 vp false → (s.engine p).sand.wf = true →
      (∀ k, k < 512 → vp.getLsbD k = true → (s.ctxAt p c).holds 0 (a + 4 * k) 4 = false) →
      ∃ t, exec (.vSt p c none) s = .next t ∧
        RunsTo s s t p c { s.engine p with sand := (t.engine p).sand } (s.ctxAt p c) (r' 2048) ∧
        (∀ k j, k < 512 → j < 4 → Mem.read (t.engine p).sand (base + 4 * k + j) =
          if vp.getLsbD k then (leBytes 4 (elem .int32 (s.vreg p c (wbits w 39 34)) k)).getD j 0
          else Mem.read (s.engine p).sand (base + 4 * k + j)) ∧
        sandBut s t p c a 2048) ∧
    (s.canRun p c .vPst w → s.vAddrBad p c a 64 = none → (s.engine p).sand.wf = true →
      (s.ctxAt p c).holds 0 a 64 = false →
      ∃ t, exec (.vPst p c) s = .next t ∧
        RunsTo s s t p c { s.engine p with sand := (t.engine p).sand } (s.ctxAt p c) (r' 64) ∧
        (∀ j, j < 64 → Mem.read (t.engine p).sand (base + j) = (leBytes 64 vp.toNat).getD j 0) ∧
        sandBut s t p c a 64) ∧
    (let bad := fun (i : Instr) (code : Nat) => ∃ t, exec i s = .next t ∧ HaltedBy so t p c code 1 r.pc r.bankB
     (s.canRun p c .vLd w → ∀ code err u, s.vAddrBad p c a 2048 = some code → bad (.vLd p c err u) code) ∧
     (s.canRun p c .vSt w → ∀ u, (∀ code, s.vAddrBad p c a 2048 = some code → bad (.vSt p c u) code) ∧
      (s.vAddrBad p c a 2048 = none → (∃ k < 512, vp.getLsbD k = true ∧ (s.ctxAt p c).holds 0 (a + 4 * k) 4 = true) →
        bad (.vSt p c u) fHeld)) ∧
     (s.canRun p c .vPst w → (∀ code, s.vAddrBad p c a 64 = some code → bad (.vPst p c) code) ∧
      (s.vAddrBad p c a 64 = none → (s.ctxAt p c).holds 0 a 64 = true → bad (.vPst p c) fHeld)))

/-- V.COMPRESS stores the active lanes' words (or, with IDX, their logical indices) at CPTR in lane order and moves CPTR on;
with CO it does neither; with CNT the number of active lanes is on its way to the loop-count register. COMPRESS_COUNT_LANDS
writes it there while the context runs on its engine, added when ACC; a later C instruction's write of the same cc stands
instead; and a sum above 32 bits halts the context for its V.COMPRESS. V.EXPAND gives the active lanes the words at EPTR in lane
order and moves EPTR on. The pointers' width is the model's reading (log entry 15). -/
def Obligations.CompressAndExpandInLaneOrder : Prop :=
  ∀ (s : State) (p : PhysE) (c : Place) (w : W64),
    let r := (s.ctx p c).cur
    let vp := s.vp p c w
    let ls := activeLanes vp
    let n := ls.length
    let k : CmpPend := ⟨wbits w 18 16, n, w.getLsbD 14, r.pc, r.bankB⟩
    let words := ls.map (fun i => if w.getLsbD 13 then (r.vib.toNat + i) % 2 ^ 32 else elem .int32 (s.vreg p c (wbits w 39 34)) i)
    (s.canRun p c .vCompress w → noInj s p 1 vp false →
      (w.getLsbD 11 = false → s.sandOk p c r.cptr (4 * n) = true ∧ (s.ctxAt p c).holds 0 r.cptr (4 * n) = false) →
      ∃ t, exec (.vCompress p c none) s = .next t ∧
        RunsTo s s t p c
          (if w.getLsbD 11 then s.engine p
           else { s.engine p with sand := (s.engine p).sand.store ((s.sandShare p c).1 + r.cptr) (words.flatMap (leBytes 4)) })
          { s.ctxAt p c with cmpPend := if w.getLsbD 15 then (s.ctxAt p c).cmpPend ++ [k] else (s.ctxAt p c).cmpPend }
          { r with cptr := if w.getLsbD 11 then r.cptr else (r.cptr + 4 * n) % 2 ^ 24, vib := if w.getLsbD 12 then r.vib + 512 else r.vib }) ∧
    (s.canRun p c .vExpand w → noInj s p 1 vp false → s.sandOk p c r.eptr (4 * n) = true →
      ∀ err, readDelivers err = true → ∃ t, exec (.vExpand p c err none) s = .next t ∧
        RunsTo s (if err = .corrected then s.bump (Reg.sramEcccor p) 1 else s) t p c
          { s.engine p with vreg := (t.engine p).vreg } (s.ctxAt p c) { r with eptr := (r.eptr + 4 * n) % 2 ^ 24 } ∧
        sameVregs s t p c (wbits w 45 40) ∧
        ∀ i, i < 512 → lane (t.vreg p c (wbits w 45 40)) i =
          if vp.getLsbD i then
            BitVec.ofNat 32 (leNat (s.sandBytes p c (r.eptr + 4 * ((List.range i).filter (fun m => vp.getLsbD m)).length) 4))
          else if w.getLsbD 18 then 0 else lane (s.vreg p c (wbits w 45 40)) i) ∧
    (∀ q qs, (s.ctx p c).cmpPend = q :: qs → s.holds? p c = true →
      let v := q.count + if q.acc then (Tab.get 0 r.lc q.n : W32).toNat else 0
      let s1 := s.setCtx p c { s.ctx p c with cmpPend := qs }
      exec (.compressCountLands p c false) s = .next s1 ∧
      (v < 2 ^ 32 → exec (.compressCountLands p c true) s = .next (s.setCtx p c { s.ctx p c with
        cmpPend := qs, cur := { r with lc := r.lc.set q.n (BitVec.ofNat 32 v) } })) ∧
      (2 ^ 32 ≤ v → ∃ t, exec (.compressCountLands p c true) s = .next t ∧ HaltedBy s1 t p c fMalformed 1 q.pc q.bankB))

/-- RESIDUE_CHECK ends the oldest result's check: a sound one changes nothing else; a wrong one, by an injection or by an
upset of the data path, counts, records class 0x04 with the lane and the bundle, and stops its context for a replay. An upset
of an operation under parity stops its context the same way with class 0x05, and its write does not land. A failure of the
same cc is in the same record, and counted too. SUMQ_HELD_WRITE lets the oldest held summary of a context that runs
on its engine enter a queue that has room, and does nothing at a full one or with none held. -/
def Obligations.VectorEngineEvents : Prop :=
  ∀ (s : State) (p : PhysE) (c : Place),
    let x := s.ctx p c
    (∀ k ks, (s.engine p).vchk = k :: ks → k.wrong = false →
      exec (.residueCheck p none) s = .next (s.setEngine p { s.engine p with vchk := ks })) ∧
    ((s.engine p).vchk = [] → ∀ u, exec (.residueCheck p u) s = .next s) ∧
    (∀ k ks u, (s.engine p).vchk = k :: ks → k.wrong = true ∨ u.isSome = true →
      let s1 := s.setEngine p { s.engine p with vchk := ks }
      let also : Option Second := u.bind (·.also)
      let lane := if k.wrong then k.lane else (u.map (fun u => u.lane.toNat)).getD 0
      s.countsFails p k.ctx (failCounters p 0x04 also) → ∃ t, exec (.residueCheck p u) s = .next t ∧
        StoppedForReplay s1 t p k.ctx (s.failRec p k.ctx 0x04 (leBytes 4 lane ++ leBytes 4 k.pc) also) none (failCounters p 0x04 also)) ∧
    (∀ (w : W64) (u : Upset) (i : Instr) (o : EngOp), (i, o) ∈ [(Instr.vMin p c (some u), EngOp.vMin), (.vMax p c (some u), .vMax),
        (.vAnd p c (some u), .vAnd), (.vOr p c (some u), .vOr), (.vXor p c (some u), .vXor), (.vAndn p c (some u), .vAndn),
        (.vShl p c (some u), .vShl), (.vShr p c (some u), .vShr), (.vSra p c (some u), .vSra), (.vSel p c (some u), .vSel),
        (.vPerm p c (some u), .vPerm), (.vCmp p c (some u), .vCmp)] →
      let so := s.opened p c
      s.canRun p c o w → (s.reg (Reg.vecInj p)).getLsbD 0 = false → so.countsFails p c (failCounters p 0x05 u.also) →
      ∃ t, exec i s = .next t ∧
        StoppedForReplay so t p c (so.failRec p c 0x05 (leBytes 4 u.lane.toNat ++ leBytes 4 x.cur.pc) u.also) none
          (failCounters p 0x05 u.also)) ∧
    (∀ (r : ErrRec) (k : Second), (r.joined k).cls = min r.cls k.cls.toNat ∧
      (r.cls ≠ k.cls.toNat → (r.joined k).second = max r.cls k.cls.toNat)) ∧
    (s.holds? p c = true →
      (∀ e es, x.sumHeld = e :: es → exec (.sumqHeldWrite p c) s = .next (if x.cur.sumq.length < 32 then
          s.setCtx p c { x with sumHeld := es, cur := { x.cur with sumq := x.cur.sumq ++ [e] } } else s.setCtx p c x)) ∧
      (x.sumHeld = [] → exec (.sumqHeldWrite p c) s = .next (s.setCtx p c x))) ∧
    (s.holds? p c = false → exec (.sumqHeldWrite p c) s = .next s)

/-! ## Reductions -/

/-- A reduction of active lanes with no finish, into one accumulator, or with SEG into two, that are open or are opened by
START: each takes its active inputs in lane order (with SEG the first those of lanes 0 to 255 and the second those of
lanes 256 to 511), both copies alike, and QIB rises by the elements of a register when AI is 1. The vector registers and
every other accumulator stand. That a row runs one word of its group is the model's reading (log entry 12). -/
def Obligations.ReductionsTakeTheirActiveLanes : Prop :=
  ∀ (s : State) (p : PhysE) (c : Place) (w : W64),
    let x := s.ctx p c
    let takes := fun (i : Instr) (op : QOp) => ∃ t, exec i s = .next t ∧
      RunsTo s s t p c (s.engine p)
        { s.ctxAt p c with qa := (t.ctx p c).qa, qaDup := (t.ctx p c).qaDup, nfc := x.nfc + s.qCounted p c op w } (s.qRec p c w) ∧
      ∀ m, if m ∈ qAccs w then (t.ctx p c).acc m = s.qTook p c op w m ∧ (t.ctx p c).accDup m = s.qTook p c op w m
           else (t.ctx p c).acc m = x.acc m ∧ (t.ctx p c).accDup m = x.accDup m
    s.qReady p c w → w.getLsbD 33 = false → noInj s p 2 (s.pOld p c (wbits w 37 35)) false →
    (s.canRun p c .qSum w → ∀ ahead, takes (.qSum p c ahead none) .sum) ∧
    (s.canRun p c .qSumsq w → ∀ ahead, takes (.qSumsq p c ahead none) .sumsq) ∧
    (s.canRun p c .qMax w → ∀ ahead, takes (.qMax p c ahead none) .max) ∧
    (s.canRun p c .qMin w → ∀ ahead, takes (.qMin p c ahead none) .min) ∧
    (s.canRun p c .qArgmax w → ∀ ahead, takes (.qArgmax p c ahead none) .argmax) ∧
    (s.canRun p c .qArgmin w → ∀ ahead, takes (.qArgmin p c ahead none) .argmin)

/-- A reduction that finishes first takes its active lanes; then its results stand in the lanes of VD from lane L on, or in new
entries of a summary queue that has room for them, before the last `ahead` entries of reductions that land later; the exceptions
of the one rounding are added to VEC_FLAGS; and the accumulators are idle and keep their non-finite counts. Every other
register, lane and accumulator stands. When an upset of the data path makes the two copies differ, nothing is written and the
context stops for a replay with class 0x06. That a row runs one word of its group is the model's reading (log entry 12). -/
def Obligations.FinishesWriteTheirResults : Prop :=
  ∀ (s : State) (p : PhysE) (c : Place) (w : W64),
    let x := s.ctx p c
    let vd := wbits w 28 23
    let l := wbits w 22 14
    let finishes := fun (i : Instr) (ahead : Nat) (op : QOp) =>
      let rs := (qAccs w).map (fun n => (s.qTook p c op w n).result op (wbits w 30 29))
      let ws := rs.flatMap (·.1)
      let es := (rs.flatMap (·.2.1)).map (qEntry w)
      let toSum := wbits w 30 29 = 2
      let k := x.cur.sumq.length - min ahead (x.cur.sumq.reverse.takeWhile (·.fromRed)).length
      (toSum → x.cur.sumq.length + es.length ≤ 32 ∧ x.sumHeld = []) →
      ∃ t, exec i s = .next t ∧
        RunsTo s (s.orReg (Reg.vecFlags p c) (rs.foldl (fun f r => f.or r.2.2) ({} : Flags)).word) t p c
          { s.engine p with vreg := (t.engine p).vreg }
          { s.ctxAt p c with qa := (t.ctx p c).qa, qaDup := (t.ctx p c).qaDup, nfc := x.nfc + s.qCounted p c op w }
          { s.qRec p c w with sumq := if toSum then x.cur.sumq.take k ++ es ++ x.cur.sumq.drop k else x.cur.sumq } ∧
        (∀ m, if m ∈ qAccs w then (t.ctx p c).acc m = { count := (s.qTook p c op w m).count, used := true } ∧
            (t.ctx p c).accDup m = (t.ctx p c).acc m
          else (t.ctx p c).acc m = x.acc m ∧ (t.ctx p c).accDup m = x.accDup m) ∧
        (if toSum then (t.engine p).vreg = (s.engine p).vreg
         else sameVregs s t p c vd ∧ ∀ k, k < 512 → lane (t.vreg p c vd) k =
           if l ≤ k ∧ k < l + ws.length then ws.getD (k - l) 0 else lane (s.vreg p c vd) k)
    (∀ a : Accum, (a.result .sum 0).1 = [BitVec.ofNat 32 (Fmt.fp32.par.encode .rne false 0 a.value).1] ∧
      (a.result .max 0).1 = [BitVec.ofNat 32 (match a.best with | some b => b.toNat | none => 0x7FC00000)]) ∧
    (s.qReady p c w → w.getLsbD 33 = true → noInj s p 2 (s.pOld p c (wbits w 37 35)) false →
    (s.canRun p c .qSum w → ∀ ahead, finishes (.qSum p c ahead none) ahead .sum) ∧
    (s.canRun p c .qSumsq w → ∀ ahead, finishes (.qSumsq p c ahead none) ahead .sumsq) ∧
    (s.canRun p c .qMax w → ∀ ahead, finishes (.qMax p c ahead none) ahead .max) ∧
    (s.canRun p c .qMin w → ∀ ahead, finishes (.qMin p c ahead none) ahead .min) ∧
    (s.canRun p c .qArgmax w → ∀ ahead, finishes (.qArgmax p c ahead none) ahead .argmax) ∧
    (s.canRun p c .qArgmin w → ∀ ahead, finishes (.qArgmin p c ahead none) ahead .argmin)) ∧
    (∀ (u : Upset) (ahead : Nat) (i : Instr) (o : EngOp), (i, o) ∈ [(Instr.qSum p c ahead (some u), EngOp.qSum), (.qSumsq p c ahead (some u), .qSumsq),
        (.qMax p c ahead (some u), .qMax), (.qMin p c ahead (some u), .qMin), (.qArgmax p c ahead (some u), .qArgmax),
        (.qArgmin p c ahead (some u), .qArgmin)] →
      let so := s.opened p c
      s.canRun p c o w → s.qReady p c w → w.getLsbD 33 = true → noInj s p 2 (s.pOld p c (wbits w 37 35)) false →
      so.countsFails p c (failCounters p 0x06 u.also) → ∃ t, exec i s = .next t ∧
        StoppedForReplay so t p c (so.failRec p c 0x06 (leBytes 4 u.lane.toNat ++ leBytes 4 x.cur.pc) u.also) none
          (failCounters p 0x06 u.also))

/-- Q.NFC of used accumulators gives their non-finite counts, as two words each (three, a P96 number, with P96 results) in VD
from lane L on, or as summary entries of kind 0xA before the last `ahead` that land later, and leaves the accumulators; Q.SETIB
sets QIB from lanes 0 and 1. That a row runs one word of its group is the model's reading (log entry 12). -/
def Obligations.NonFiniteCountAndIndexBase : Prop :=
  ∀ (s : State) (p : PhysE) (c : Place) (w : W64),
    let x := s.ctx p c
    let vd := wbits w 28 23
    let l := wbits w 22 14
    let ws := (qAccs w).flatMap (fun n => if wbits w 30 29 = 1 then words96 (p96Int (x.acc n).count.toNat) else words64 (x.acc n).count)
    let es := (qAccs w).map (fun n => qEntry w (0xA, (x.acc n).count))
    let toSum := wbits w 30 29 = 2
    (s.canRun p c .qNfc w → (∀ n ∈ qAccs w, (x.acc n).used = true ∧ x.accDup n = x.acc n) →
      (toSum → x.cur.sumq.length + es.length ≤ 32 ∧ x.sumHeld = []) → ∀ ahead,
      let k := x.cur.sumq.length - min ahead (x.cur.sumq.reverse.takeWhile (·.fromRed)).length
      ∃ t, exec (.qNfc p c ahead none) s = .next t ∧
        RunsTo s (s.orReg (Reg.vecFlags p c) 0) t p c { s.engine p with vreg := (t.engine p).vreg } (s.ctxAt p c)
          { x.cur with sumq := if toSum then x.cur.sumq.take k ++ es ++ x.cur.sumq.drop k else x.cur.sumq } ∧
        (if toSum then (t.engine p).vreg = (s.engine p).vreg
         else sameVregs s t p c vd ∧ ∀ k, k < 512 → lane (t.vreg p c vd) k =
           if l ≤ k ∧ k < l + ws.length then ws.getD (k - l) 0 else lane (s.vreg p c vd) k)) ∧
    (s.canRun p c .qSetib w → ∃ t, exec (.qSetib p c) s = .next t ∧
      RunsToRec s t p c { x.cur with qib := lanePair (s.vOld p c (wbits w 43 38)) })

/-! ## Matrix instructions -/

/-- The M instructions whose checks pass enter the context's pending slot with their descriptor and their row count as
read at issue, and M.SETIB sets MIB; a corrected error of the descriptor's read is counted, and nothing else changes. An
uncorrectable one stops the segment for a replay. What is read at issue, and that the output fields of a pass without LAST
are not checked, are the model's readings (log entries 17, 113). -/
def Obligations.MatrixInstructionsEnterThePendingSlot : Prop :=
  ∀ (s : State) (p : PhysE) (c : Place) (w : W64),
    let x := s.ctx p c
    let so := s.opened p c
    let d := s.mDesc p c w
    let there := so.sandOk p c (64 * wbits w 47 30) 64 = true
    let rows := if passRlc w then (Tab.get 0 x.cur.lc (wbits w 9 7)).toNat else dfld d 16 2
    let entered := fun (t s' : State) (k : MKind) (d : Bytes) (n : Nat) =>
      RunsTo s s' t p c (s.engine p)
        { s.ctxAt p c with mPend := some { kind := k, ctx := c, word := w, desc := d, rows := n, pc := x.cur.pc
                                           bankB := x.cur.bankB, mib := x.cur.mib, step := x.cur.stepNo } }
        x.cur
    let enters := fun (i : ReadErr → Instr) (k : MKind) (n : Nat) (checks : State → Prop) =>
      (checks so → ∃ t, exec (i .ok) s = .next t ∧ entered t s k d n) ∧
      (checks so → ∀ also, ∃ t, exec (i (.linkCrc also)) s = .next t ∧ entered t s k d n) ∧
      (checks (so.bump (Reg.sramEcccor p) 1) → ∃ t, exec (i .corrected) s = .next t ∧ entered t (s.bump (Reg.sramEcccor p) 1) k d n)
    let passOk := fun (trans : Bool) (s : State) => there ∧ passDescOk d (passLast w) = true ∧ ∃ l, (s.engine p).nextBlock = some l ∧
      passFmt d = l.blk.fmtA ∧ rows ≤ 4096 ∧ (passFmt d = .bf16 → rows ≤ 1024) ∧
      (if passMask w then s.sandOk p c (dfld d 8 4) (ceilDiv rows 8) = true
       else ∀ r, r < rows → s.passRowBad p c l.blk trans (passLast w) d r = none)
    (s.canRun p c .mLoadw w → enters (.mLoadw p c) .loadw 0
      (fun s => there ∧ loadDescOk d = true ∧ s.loadRangeBad p c d = false)) ∧
    (s.canRun p c .mPass w → enters (.mPass p c) .pass rows (passOk false)) ∧
    (s.canRun p c .mPasst w → enters (.mPasst p c) .passt rows (passOk true)) ∧
    (s.canRun p c .mFold w → so.siltOk p c (3072 * foldSrc w) (3072 * foldRows w) = true →
      so.siltRowsBad p c (foldDst w) (foldRows w) = none →
      ∃ t, exec (.mFold p c) s = .next t ∧ entered t s .fold [] (foldRows w)) ∧
    (s.canRun p c .mOut w → enters (.mOut p c) .out (dfld d 16 2)
      (fun s => there ∧ passDescOk d true = true ∧ dfld d 16 2 ≤ 4096 ∧
        ∀ r, r < dfld d 16 2 → s.siltOk p c (3072 * (dfld d 18 2 + r)) 3072 = true ∧ s.outRowBad p c d r = none)) ∧
    (s.canRun p c .mSetib w → ∃ t, exec (.mSetib p c) s = .next t ∧
      RunsToRec s t p c { x.cur with mib := lanePair (s.vreg p c (wbits w 45 40)) }) ∧
    (∀ (i : ReadErr → Instr) (o : EngOp), (i, o) ∈ [(Instr.mLoadw p c, EngOp.mLoadw), (.mPass p c, .mPass), (.mPasst p c, .mPasst),
        (.mOut p c, .mOut)] → s.canRun p c o w → there → ∀ k also,
      let a := sramAt 0 (64 * wbits w 47 30) 64 k
      (so.ctx p c).holds 0 a 8 = false → so.countsFails p c (failCounters p 0x08 also) →
      ∃ t, exec (i (.uncorrectable k also)) s = .next t ∧
        StoppedForReplay so t p c (so.failRec p c 0x08 (leBytes 4 a) also) none (failCounters p 0x08 also))

/-- A pending M instruction that can begin leaves the slot: a load reads its block, which the context records under a new serial
number; a pass, forward or transposed, feeds all its rows or those its mask marks, makes the last loaded block the active one
and has its rows in the arrays, the first that reaches the cell of an armed injection with it, and one that feeds none is over
with its token; M.OUT is done, its rows converted and landed, their exceptions added to ARR_TSTAT, and Silt as it was. An
uncorrectable error of what it reads stops its segment for a replay; while a full queue keeps an earlier token of the unit it
does not begin. What was read at issue and that a kept token holds its unit are the model's readings (log entries 17, 102). -/
def Obligations.PendingMatrixInstructionBegins : Prop :=
  ∀ (s : State) (p : PhysE) (c : Nat) (o : MOp),
    let e := s.engine p
    let x := s.ctx p c
    let s1 := s.setCtx p c { x with mPend := none }
    e.holder = some c → x.mPend = some o → o.ctx = c → e.mCanBegin o = true → s.holds? p c = true →
    (s.stuck (.m p c) = true → ∀ err, exec (.pendingMBegin p err) s = .next s) ∧
    (∀ r, r ∈ s.fedRows p o ↔ r < o.rows ∧
      (passMask o.word = true → bit (leNat (s.sandBytes p c (dfld o.desc 8 4) (ceilDiv o.rows 8))) r = true)) ∧
    (s.stuck (.m p c) = false →
    (o.kind = .loadw → ∃ t, exec (.pendingMBegin p .ok) s = .next t ∧
      (t.engine p).mLoad = some (o, ⟨s.readBlock p c o.desc, c, ⟨64 * wbits o.word 47 30, e.nextSerial⟩⟩) ∧
      (t.engine p).nextSerial = e.nextSerial + 1 ∧
      t.ctx p c = { x with mPend := none, cur := { x.cur with block := some ⟨64 * wbits o.word 47 30, e.nextSerial⟩ } } ∧
      t = { s with eng := t.eng } ∧ (∀ j, j ≠ p → t.engine j = s.engine j)) ∧
    (o.kind = .pass ∨ o.kind = .passt → ∀ l, e.block = some l →
      let trans := o.kind == .passt
      let rs := s.fedRows p o
      (passMask o.word = true → ∀ r ∈ rs, s.passRowBad p c l.blk trans (passLast o.word) o.desc r = none) →
      (rs ≠ [] → ∃ t, exec (.pendingMBegin p .ok) s = .next t ∧
        (t.engine p).active = some l ∧ (t.engine p).shadow = none ∧
        let fed := injectFirst (s.reg (Reg.arrInj p)).toNat trans (slotRows l.blk 0 (rs.map (fun r => (r, s.readRow p l.blk trans o r))))
        (t.engine p).flights = e.flights ++ [⟨o, l.blk, fed⟩] ∧
        t.ctx p c = { x with mPend := none } ∧
        t = { s with eng := t.eng, regs := if fed.any (fun f => f.inj.isSome) then (s.arrFired p).regs else s.regs } ∧
        (t.engine p).sand = e.sand ∧ (t.engine p).silt = e.silt ∧ (t.engine p).vreg = e.vreg) ∧
      (rs = [] → exec (.pendingMBegin p .ok) s = .next (s1.deliver p c (.m p c) o.tok))) ∧
    (o.kind = .out → e.sand.wf = true → o.rowsApart → ∃ t, exec (.pendingMBegin p .ok) s = .next t ∧
      (∀ r, r < o.rows → rowLanded t p c o r (o.converted r (s.partials p c (dfld o.desc 18 2 + r))).1) ∧
      (t.reg (Reg.arrTstat p c)) = (List.range o.rows).foldl (fun v r =>
        v ||| BitVec.ofNat 64 (o.converted r (s.partials p c (dfld o.desc 18 2 + r))).2.word) (s.reg (Reg.arrTstat p c)) ∧
      regsBut s t [Reg.arrTstat p c] ∧
      (dfld o.desc 22 1 = 1 → (t.engine p).sand = e.sand) ∧ (dfld o.desc 22 1 ≠ 1 → (t.engine p).vreg = e.vreg) ∧
      (t.engine p).mDone = e.mDone ++ [o] ∧ (t.engine p).silt = e.silt ∧ t.ctx p c = { x with mPend := none } ∧
      t.loam = s.loam ∧ t.clay = s.clay ∧ t.pending = s.pending) ∧
    (∀ k also, let tier := (e.mReads o 0).1
      let a := (e.mReads o k).2
      x.holds tier a (sramWord tier) = false → s.countsFails p c (failCounters p 0x08 also) →
      ∃ t, exec (.pendingMBegin p (.uncorrectable k also)) s = .next t ∧
        StoppedForReplay s1 t p c (s.failRec p c 0x08 (leBytes 4 a) also) none (failCounters p 0x08 also)))

/-- M.FOLD: when its source and destination rows do not meet, each partial of each destination row becomes itself plus the
partial of its source row under P96 addition, and every Silt byte outside the destination rows stands. The order of the
rows is the model's reading (log entry 18), which rows that do not meet do not show. -/
def Obligations.FoldAddsItsRows : Prop :=
  ∀ (s : State) (p : PhysE) (c : Nat) (o : MOp),
    let e := s.engine p
    let w := o.word
    let base := 3072 * (s.siltShare p c).1
    e.holder = some c → (s.ctx p c).mPend = some o → o.ctx = c → o.kind = .fold → e.mCanBegin o = true →
    s.holds? p c = true → s.stuck (.m p c) = false → e.silt.wf = true → (foldDst w + o.rows ≤ foldSrc w ∨ foldSrc w + o.rows ≤ foldDst w) →
    ∃ t, exec (.pendingMBegin p .ok) s = .next t ∧
      (t.engine p).mDone = e.mDone ++ [o] ∧
      (∀ i j, i < o.rows → j < 256 → (t.partials p c (foldDst w + i)).getD j 0 =
        p96Add ((s.partials p c (foldDst w + i)).getD j 0) ((s.partials p c (foldSrc w + i)).getD j 0) % 2 ^ 96) ∧
      (∀ b, (b < base + 3072 * foldDst w ∨ base + 3072 * (foldDst w + o.rows) ≤ b) →
        Mem.read (t.engine p).silt b = Mem.read e.silt b) ∧
      (t.engine p).sand = e.sand ∧ (t.engine p).vreg = e.vreg ∧ t = { s with eng := t.eng }

/-- What the M unit does after issue: a load whose corner comparison passes stands in the shadow registers, and one that
fails, by its block or by an upset, is never swapped in, counts in ARR_LOADFAIL, records class "array load" and stops its
resident context for a replay, with another failure of the same cc in its record; a reload that meets an uncorrectable error of Sand
stops it the same way; the token of the holder's oldest finished instruction enters its LOCAL queue. -/
def Obligations.LoadCompareAndPassToken : Prop :=
  ∀ (s : State) (p : PhysE) (o : MOp) (l : Loaded),
    let e := s.engine p
    let s1 := s.setEngine p { e with mLoad := none, reloading := false }
    (e.mLoad = some (o, l) → ∀ err, (e.reloading = true → err = .ok) →
      (∀ also, l.blk.cornerOk = true → exec (.loadCornerCompare p err false also) s =
        .next (s.setEngine p { e with mLoad := none, reloading := false, shadow := some l })) ∧
      (∀ upset also, l.blk.cornerOk = false ∨ upset = true →
        ((s.ctx p o.ctx).resident = true ∨ (s.ctx p o.ctx).shadow = true → s.countsFails p o.ctx (failCounters p 0x03 also) →
          ∃ t, exec (.loadCornerCompare p err upset also) s = .next t ∧
            (t.engine p).shadow = e.shadow ∧
            StoppedForReplay s1 t p o.ctx (s.failRec p o.ctx 0x03 [] also) none (failCounters p 0x03 also)) ∧
        ((s.ctx p o.ctx).resident = false → (s.ctx p o.ctx).shadow = false → also = none →
          exec (.loadCornerCompare p err upset also) s =
            .next ((s1.bump (Reg.arrLoadfail p) 1).sendRec p (s.failRec p o.ctx 0x03 [] none))))) ∧
    (e.mLoad = some (o, l) → e.reloading = true → ∀ k upset also also',
      let a := (e.mReads o k).2
      (s.ctx p o.ctx).holds 0 a 8 = false → s.countsFails p o.ctx (failCounters p 0x08 also) →
      ∃ t, exec (.loadCornerCompare p (.uncorrectable k also) upset also') s = .next t ∧
        StoppedForReplay s1 t p o.ctx (s.failRec p o.ctx 0x08 (leBytes 4 a) also) none (failCounters p 0x08 also)) ∧
    (∀ c rest, e.holder = some c → s.holds? p c = true → s.stuck (.m p c) = false → takeDone c e.mDone = some (o, rest) →
      exec (.passTokenEntry p) s = .next ((s.setEngine p { e with mDone := rest }).deliver p c (.m p c) o.tok))

/-- A row of a pass leaves the drain. When its check passes, its partials are written to its Silt row with FIRST, and added
there under P96 addition without it, and no Silt byte outside the row changes; with LAST the row they make is converted and
lands as well, and without it Sand and the vector registers stand. A row whose check fails is written nowhere, with the rows of
its slot that fail with it, and those of its slot that pass are written: each failure counts in ARR_CHKFAIL, one record names
their arrays, slot, direction and number, and the context is stopped for a replay. A row that adds and meets an uncorrectable
error of Silt is not written either, and replayed. -/
def Obligations.CheckedRowsAreWrittenOrReplayed : Prop :=
  ∀ (s : State) (p : PhysE) (f : Flight) (fr : FedRow) (others : List Flight) (rest : List FedRow),
    let e := s.engine p
    let o := f.op
    let c := o.ctx
    let row := dfld o.desc 18 2 + fr.row
    let base := 3072 * (s.siltShare p c).1
    let res := f.judge fr
    let left := if rest = [] then others else { f with rows := rest } :: others
    e.flights = f :: others → f.rows = fr :: rest → s.stuck (.m p c) = false →
    let made := if passFirst o.word then res.outs
      else (res.outs.zip (s.partials p c row)).map (fun (y, old) => p96Add old y)
    (res.ok = true → res.outs.length = 256 → e.silt.wf = true → e.sand.wf = true →
      ∀ upset also err, upset.getLsbD 0 = false → readDelivers err = true →
      ∃ t, exec (.arrayRowCheck p err upset also) s = .next t ∧
      (∀ j, j < 256 → (t.partials p c row).getD j 0 =
        (if passFirst o.word then res.outs.getD j 0 else p96Add ((s.partials p c row).getD j 0) (res.outs.getD j 0)) % 2 ^ 96) ∧
      (∀ b, (b < base + 3072 * row ∨ base + 3072 * (row + 1) ≤ b) → Mem.read (t.engine p).silt b = Mem.read e.silt b) ∧
      (passLast o.word = true → rowLanded t p c o fr.row (o.converted fr.row made).1) ∧
      (passLast o.word = false ∨ dfld o.desc 22 1 = 1 → (t.engine p).sand = e.sand) ∧
      (passLast o.word = false ∨ dfld o.desc 22 1 ≠ 1 → (t.engine p).vreg = e.vreg) ∧ (t.engine p).ctx = e.ctx ∧
      regsBut s t [Reg.arrTstat p c, Reg.sramEcccor p] ∧ (t.engine p).flights = left) ∧
    (∀ upset also err, res.ok = false ∨ upset.getLsbD 0 = true →
      let more := (f.beside fr rest upset).1
      let good := (f.beside fr rest upset).2
      let u := good.foldl (fun u g => u.rowPassed p f g) (s.modEngine p (fun e => e.nextRow f rest others))
      let r := s.failRec p c 0x02 (leBytes 4 (arrayMask (fr :: more)) ++ leBytes 4 fr.slot ++
        leBytes 4 (o.kind == .passt).toNat ++ leBytes 4 (1 + more.length)) also
      (s.reg (Reg.arrChkfail p)).toNat + (1 + more.length) < 2 ^ 64 - 1 → s.countsFails p c (failCounters p 0x02 also) →
      ∃ t, exec (.arrayRowCheck p err upset also) s = .next t ∧
      (t.engine p).silt = (u.engine p).silt ∧ (t.engine p).sand = (u.engine p).sand ∧ (t.engine p).vreg = (u.engine p).vreg ∧
      (e.silt.wf = true → ∀ b, (∀ g ∈ good, b < base + 3072 * (dfld o.desc 18 2 + g.row) ∨
        base + 3072 * (dfld o.desc 18 2 + g.row + 1) ≤ b) → Mem.read (t.engine p).silt b = Mem.read e.silt b) ∧
      (t.reg (Reg.arrChkfail p)).toNat = (s.reg (Reg.arrChkfail p)).toNat + (1 + more.length) ∧
      t.recBuf = s.recBuf.set p (Tab.get [] s.recBuf p ++ [r]) ∧
      ((s.ctx p c).shadow = false → (t.ctx p c).rep = .restoring ∧ (t.ctx p c).repFault = some ⟨r.cls, none⟩) ∧
      t = { s with eng := t.eng, regs := t.regs, audit := t.audit, recBuf := t.recBuf } ∧
      regsBut u t (failCounters p 0x02 also ++ [Reg.engHealth p, Reg.auditStat]) ∧ regsBut s u [Reg.arrTstat p c]) ∧
    (∀ upset also k also', res.ok = true → upset.getLsbD 0 = false → passFirst o.word = false →
      let a := sramAt 1 (3072 * row) 3072 k
      (s.ctx p c).holds 1 a 12 = false → s.countsFails p c (failCounters p 0x08 also') →
      ∃ t, exec (.arrayRowCheck p (.uncorrectable k also') upset also) s = .next t ∧
        StoppedForReplay (s.modEngine p (fun e => e.nextRow f rest others)) t p c (s.failRec p c 0x08 (leBytes 4 a) also') none
          (failCounters p 0x08 also'))

/-! ## Control instructions -/

/-- Where an instruction leaves the PC, shown on V.LI and C.NOP: a word with G = 0 goes on to the next word of its group;
the last word of a group goes on to the next group, or, at the END of the innermost loop with iterations left, back to its
body with one iteration less. C.NOP changes nothing else. That a row runs one word of its group is the model's reading
(log entry 12). -/
def Obligations.GroupsAdvanceThroughTheirLoops : Prop :=
  ∀ (s : State) (p : PhysE) (c : Place) (w : W64),
    let x := s.ctx p c
    let advances := fun (t : State) =>
      (wG w = false → (t.ctx p c).gi = x.gi + 1 ∧ (t.ctx p c).cur.pc = x.cur.pc ∧ (t.ctx p c).cur.loops = x.cur.loops) ∧
      (wG w = true → (t.ctx p c).gi = 0 ∧
        (x.cur.loops = [] → (t.ctx p c).cur.pc = x.cur.pc + x.gi + 1 ∧ (t.ctx p c).cur.loops = []) ∧
        ∀ l ls, x.cur.loops = l :: ls →
          (l.stop ≠ x.cur.pc → (t.ctx p c).cur.pc = x.cur.pc + x.gi + 1 ∧ (t.ctx p c).cur.loops = l :: ls) ∧
          (l.stop = x.cur.pc → 1 < l.left → (t.ctx p c).cur.pc = l.body ∧
            (t.ctx p c).cur.loops = { l with left := l.left - 1 } :: ls) ∧
          (l.stop = x.cur.pc → l.left ≤ 1 → ls = [] → (t.ctx p c).cur.pc = x.cur.pc + x.gi + 1 ∧ (t.ctx p c).cur.loops = []))
    (s.canRun p c .vLi w → ∃ t, exec (.vLi p c) s = .next t ∧ advances t) ∧
    (s.canRun p c .cNop w → ∃ t, exec (.cNop p c) s = .next t ∧ advances t ∧ RunsToRec s t p c x.cur)

/-- Where a group does not issue, whatever the class of its first instruction. A fault of the group (a malformed word, a
slot never armed, a token out of order) halts the context with the code, the group's address, the copy and the class, and
other contexts and the memories stand. A hold only notes whether the watchdog counts it and whether it stands at a declared
wait point. A fault that a word behind the first would meet as it issues halts the context before any word of the group issues.
One that the next instruction meets as it runs, shown on a D.GET whose descriptor lies beyond the share, halts the context the
same way. A row whose instruction is not the next changes nothing. Which fault of a group is recorded is the
model's reading (log entries 12 to 14); that a halt touches nothing else and the memories keep what the segment wrote there is
its choice (log entries 22, 116). -/
def Obligations.ProgramFaultsHaltTheirContext : Prop :=
  ∀ (s : State) (p : PhysE) (c : Place),
    let x := s.ctx p c
    let rows : List (Instr × EngOp) := [(.mPass p c .ok, .mPass), (.mFold p c, .mFold), (.vAdd p c, .vAdd), (.vCmp p c none, .vCmp),
      (.qSum p c 0 none, .qSum), (.dGet p c .ok, .dGet), (.dSend p c .ok, .dSend), (.cNop p c, .cNop), (.cWait p c, .cWait), (.cCommit p c, .cCommit)]
    (∀ i o, (i, o) ∈ rows → s.canIssue p c = true → x.gi = 0 →
      (∀ code cls, s.gate p c = .fault code cls → ∃ t, exec i s = .next t ∧ HaltedBy s t p c code cls x.cur.pc x.cur.bankB) ∧
      (∀ counted, s.gate p c = .hold counted →
        exec i s = .next (s.setCtx p c { x with held := counted, waited := x.waited || s.atWaitPoint p c }))) ∧
    (∀ i o, (i, o) ∈ rows → s.canIssue p c = true → x.gi = 0 → s.gate p c = .go → EngOp.ofWord (s.instrAt p c) = some o →
      s.firstRuns p c = true → ∀ code cls, s.laterBad p c = some (code, cls) →
      ∃ t, exec i s = .next t ∧ HaltedBy s t p c code cls x.cur.pc x.cur.bankB) ∧
    (∀ err, let w := s.instrAt p c
      s.canIssue p c = true → 0 < x.gi ∨ s.gate p c = .go → EngOp.ofWord w = some .dGet →
      (s.opened p c).sandOk p c (64 * wbits w 47 30) 64 = false →
      ∃ t, exec (.dGet p c err) s = .next t ∧ HaltedBy (s.opened p c) t p c fBound 3 x.cur.pc x.cur.bankB) ∧
    (∀ i o, (i, o) ∈ rows →
      s.canIssue p c = false ∨ (EngOp.ofWord (s.instrAt p c) ≠ some o ∧ (0 < x.gi ∨ s.gate p c = .go)) → exec i s = .next s)

/-- C.LOOP opens its loop, or with a count of 0 skips its body; C.ARM loads its slot; C.SETLC its loop count; C.STEP adds 1
to the step number, or loads it from VA; C.WAIT pops the head it waited for and, with WRLC, writes its identifier to LCn. -/
def Obligations.ControlInstructionsSetTheirRecord : Prop :=
  ∀ (s : State) (p : PhysE) (c : Place) (w : W64),
    let x := s.ctx p c
    let r := x.cur
    let n := (Tab.get 0 r.lc (wbits w 47 45)).toNat
    let body := r.pc + x.gi + 1
    (s.canRun p c .cLoop w → r.loops.length < 4 → s.loopEndOk p c body (wbits w 44 32) = true → 0 < n →
      ∃ t, exec (.cLoop p c) s = .next t ∧ RunsToRec s t p c r ∧
        (t.ctx p c).cur.loops = ⟨body, wbits w 44 32, n⟩ :: r.loops ∧ (wG w = true → (t.ctx p c).cur.pc = body)) ∧
    (s.canRun p c .cLoop w → r.loops = [] → s.loopEndOk p c body (wbits w 44 32) = true → n = 0 →
      ∃ t, exec (.cLoop p c) s = .next t ∧ RunsToRec s t p c r ∧
        (t.ctx p c).cur.loops = [] ∧ (t.ctx p c).cur.pc = s.afterGroup p c (wbits w 44 32)) ∧
    (s.canRun p c .cArm w → ∃ t, exec (.cArm p c) s = .next t ∧
      RunsToRec s t p c { r with ws := r.ws.set (wbits w 47 43) (BitVec.ofNat 16 (wbits w 42 27)) }) ∧
    (s.canRun p c .cSetlc w → ∃ t, exec (.cSetlc p c) s = .next t ∧
      RunsToRec s t p c { r with lc := r.lc.set (wbits w 47 45) (BitVec.ofNat 32 (wbits w 31 0)) }) ∧
    (s.canRun p c .cStep w → ∃ t, exec (.cStep p c) s = .next t ∧
      RunsToRec s t p c { r with stepNo := if w.getLsbD 47 then lanePair (s.vOld p c (wbits w 45 40)) else r.stepNo + 1 }) ∧
    (s.canRun p c .cWait w → ∀ k ks, (s.ctxAt p c).tokens (wbits w 47 44) = k :: ks → ∃ t, exec (.cWait p c) s = .next t ∧
      RunsTo s s t p c (s.engine p) ((s.ctxAt p c).pop (wbits w 47 44))
        (if w.getLsbD 15 then { r with lc := r.lc.set (wbits w 14 12) (BitVec.ofNat 32 (tokId k)) } else r) ∧
      (t.ctx p c).tokens (wbits w 47 44) = ks)

/-- C.JUMP takes an allowed target and C.SELECT the entry of the posted selection, which it consumes; C.SWAPBANK exchanges
the copies with no loop open; none of them advances a loop. A target outside the body of an open loop is a malformed
instruction. C.COMMIT and C.END stop issue until the segment commits. -/
def Obligations.ControlTransfersTakeTheirTarget : Prop :=
  ∀ (s : State) (p : PhysE) (c : Place) (w : W64),
    let x := s.ctx p c
    let r := x.cur
    (s.canRun p c .cJump w → s.targetOk p c (wbits w 12 0) = true → ∃ t, exec (.cJump p c) s = .next t ∧
      RunsToRec s t p c r ∧ (t.ctx p c).cur.pc = wbits w 12 0 ∧ (t.ctx p c).cur.loops = r.loops ∧ (t.ctx p c).gi = 0) ∧
    (s.canRun p c .cSelect w → ∀ v, x.sel = some v → v.toNat < 64 → (s.imemWord p c v.toNat).toNat < 2 ^ 13 →
      s.targetOk p c (s.imemWord p c v.toNat).toNat = true → ∃ t, exec (.cSelect p c) s = .next t ∧
      RunsTo s s t p c (s.engine p) { s.ctxAt p c with sel := none } r ∧
      (t.ctx p c).cur.pc = (s.imemWord p c v.toNat).toNat ∧ (t.ctx p c).cur.loops = r.loops) ∧
    (let halts := fun (i : Instr) => ∃ t, exec i s = .next t ∧ HaltedBy (s.opened p c) t p c fMalformed 4 r.pc r.bankB
     let leaves := fun (n : Nat) => ∃ l ∈ r.loops, n < l.body ∨ l.stop < n
     (s.canRun p c .cJump w → leaves (wbits w 12 0) → halts (.cJump p c)) ∧
     (s.canRun p c .cSelect w → ∀ v, x.sel = some v → leaves (s.imemWord p c v.toNat).toNat → halts (.cSelect p c))) ∧
    (s.canRun p c .cSwapbank w → r.loops = [] → 64 ≤ wbits w 12 0 → wbits w 12 0 < (s.imemShare p c).2 →
      ∃ t, exec (.cSwapbank p c) s = .next t ∧
      RunsTo s s t p c (s.engine p)
        { s.ctxAt p c with copyA := if r.bankB then .active else .ready, copyB := if r.bankB then .ready else .active }
        { r with bankB := !r.bankB } ∧
      (t.ctx p c).cur.pc = wbits w 12 0) ∧
    (s.canRun p c .cCommit w → (s.ctxAt p c).provHeld = [] → ∃ t, exec (.cCommit p c) s = .next t ∧
      RunsTo s s t p c (s.engine p) { s.ctxAt p c with commit := some ⟨hdescOf w, none, r.pc⟩ } r ∧ t.canIssue p c = false) ∧
    (s.canRun p c .cEnd w → (s.ctxAt p c).provHeld = [] → ∃ t, exec (.cEnd p c) s = .next t ∧
      RunsTo s s t p c (s.engine p) { s.ctxAt p c with commit := some ⟨none, some (BitVec.ofNat 32 (wbits w 31 0)), r.pc⟩ } r ∧
      t.canIssue p c = false)


/-! ## Data movement -/

/-- D.GET, D.PUT, D.SEND, D.GATHER and D.ILOAD: when the descriptor and every row pass the checks of issue, the transfer
is outstanding with its descriptor, rows, token and ordinal, a D.GET from a receive queue takes its chunks in order, and
nothing else of the engine or the module changes but the count of a corrected error. The order of the checks, and that the
shadow of an audit passes them and writes nothing, are the model's readings (log entries 20, 37). -/
def Obligations.TransfersBecomeOutstandingAtIssue : Prop :=
  ∀ (s : State) (p : PhysE) (c : Place) (w : W64),
    let so := s.opened p c
    let x := s.ctxAt p c
    let d := so.sandBytes p c (64 * wbits w 47 30) 64
    let lcv := (Tab.get 0 x.cur.lc (wbits w 10 8)).toNat
    let rows := if w.getLsbD 11 then lcv else dfld d 40 2
    let rxq := dfld d 43 1 % 2 == 1
    let tok : Tok := BitVec.ofNat 16 (wbits w 29 14)
    let q := dfld d 48 4
    let base := Tab.get 0 x.taken q
    let enters := fun (i : ReadErr → Instr) (o : EngOp) (out : Bool) =>
      let f : Xfer := {
        id := x.nextXfer, kind := dKind o, desc := d, tok := tok, prov := w.getLsbD 13, lcmp := w.getLsbD 12, rows := rows
        pc := x.cur.pc, bankB := x.cur.bankB, rxq := rxq, shale := !rxq && !(o == .dSend) && gaTier (xGaddr d) == 4
        ordinal := if out then some x.outNext else none
        suppressed := out && (x.suppress.contains x.outNext || x.shadow)
        chunk := if rxq then base else 0 }
      let runs := fun (err : ReadErr) (s1 s2 : State) =>
        x.shadow = true ∨ s2.dBad p c o d rxq (w.getLsbD 13) (out && x.suppress.contains x.outNext) tok rows = none → ∃ t, exec (i err) s = .next t ∧
          RunsTo s s1 t p c (s.engine p)
            (if x.shadow && o == .dIload then x
             else { x with xfers := x.xfers ++ [f], nextXfer := x.nextXfer + 1
                           outNext := if out then x.outNext + 1 else x.outNext
                           taken := if rxq then x.taken.set q (base + ceilDiv (rows * xRbytes d) 65536) else x.taken }) x.cur
      s.canRun p c o w → so.sandOk p c (64 * wbits w 47 30) 64 = true → xferDescOk o d = true →
      (w.getLsbD 11 = true → lcv ≤ 65535) →
      runs .ok s so ∧ (∀ also, runs (.linkCrc also) s so) ∧ runs .corrected (s.bump (Reg.sramEcccor p) 1) (so.bump (Reg.sramEcccor p) 1)
    enters (.dGet p c) .dGet false ∧ enters (.dPut p c) .dPut true ∧ enters (.dSend p c) .dSend true ∧
    enters (.dGather p c) .dGather false ∧ enters (.dIload p c) .dIload false

/-- The next piece of a transfer in Loam, Clay, Sand, Silt or a receive queue lands once its context runs on its engine, no
check of its data is to come, and no full queue keeps an earlier token of the unit: the bytes of a D.GET or D.GATHER in the
local share, byte for byte, with every other byte of the module as it was; those of a D.PUT in their tier, and of one that is
suppressed nowhere; those of a move inside the engine as they were read ahead. The next piece follows it, or after a row's last
piece the next row, with the row's elements in the digest. A piece of a D.ILOAD enters the instruction queue of 64 words while
that has room, and the payload words of an accepted stream go on into their copy. A corrected error is counted; an uncorrectable
one of Loam or Clay lands nothing and stops the segment for a replay that remembers the address. A row of a D.GATHER that a
check refuses halts the context. That a suppressed D.PUT is known by its ordinal, that a kept token holds the unit, and what a
shadow's transfers move, are the model's readings (log entries 21, 102, 37). -/
def Obligations.PiecesLandInTheirPlace : Prop :=
  ∀ (s : State) (p : PhysE) (c : Place) (f : Xfer),
    let x := s.ctx p c
    let e := s.engine p
    let d := f.desc
    let silt := xSilt d
    let l := xLocal d f.row + f.off
    let own := s.ownEngine p (xGaddr d)
    let at_ := (if silt then 3072 * (s.siltShare p c).1 else (s.sandShare p c).1) + l
    let after := fun (s1 t : State) (sent : Bytes → Ctx → Ctx) (bs : Bytes) => ∃ ah, (own = false → ah = []) ∧
      let row := f.buf ++ bs
      (f.off + bs.length < xRbytes d → CtxOnly s1 t p c (x.setXfer { f with ahead := ah, off := f.off + bs.length, buf := row })) ∧
      (xRbytes d ≤ f.off + bs.length → f.dead = true →
        CtxOnly s1 t p c (x.setXfer { f with ahead := ah, row := f.row + 1, off := 0, buf := [] })) ∧
      (xRbytes d ≤ f.off + bs.length → f.dead = false → ∀ digs, s1.digestRow p c d f.row row = some digs →
        CtxOnly s1 t p c ({ sent row x with digs := digs }.setXfer { f with ahead := ah, row := f.row + 1, off := 0, buf := [] }))
    x.xfer f.id = some f → f.row < f.rows → f.shale = false → f.dead = true ∨ s.holds? p c = true →
    (x.shadow = true → s.holds? p c = true → f.kind ≠ .send → ∀ err merge,
      exec (.transferPieceLanding p c f.id err merge) s = .next (s.shadowPiece p c f)) ∧
    (x.shadow = false → s.stuck (if f.rxq then .rxq p c else .locked p c) = false →
    (f.kind = .get ∨ f.kind = .put → ∀ r off, s.pieceAt p c f r off = .inr (gaTier (xGaddr d), s.nextPiece p d (xRemote d r) off)) ∧
    (f.kind = .gather → ∀ r off, (off = 0 → (s.gatherRow p c f r).2 = none) →
      s.pieceAt p c f r off = .inr (gaTier (s.gatherRow p c f r).1, s.nextPiece p d (gaOff (s.gatherRow p c f r).1) off)) ∧
    (f.kind = .gather → f.rxq = false → ∀ code err, s.pieceAt p c f f.row f.off = .inl code →
      ∃ t, exec (.transferPieceLanding p c f.id err .ok) s = .next t ∧ HaltedBy s t p c code 3 f.pc f.bankB) ∧
    (∀ tier a n, f.rxq = false → s.pieceAt p c f f.row f.off = .inr (tier, a, n) →
      let now := s.pieceBytes p c f f.row f.off tier a n
      let bs := if own then (match f.ahead with | (_, _, b) :: _ => b | [] => now) else now
      (f.kind = .get ∨ f.kind = .gather → ∀ err, err = .ok ∨ err = .corrected →
        let s0 := if err = .corrected then s.bumpOpt (s.tierCounter tier a false) else s
        let s1 := s0.localStore p c silt l bs
        (f.dead = true ∨ (s1.digestRow p c d f.row (f.buf ++ bs)).isSome = true) →
        ∃ t, exec (.transferPieceLanding p c f.id err .ok) s = .next t ∧ after s1 t (fun _ x => x) bs ∧
          (silt = false → e.sand.wf = true → (t.engine p).silt = e.silt ∧
            (∀ k, k < bs.length → Mem.read (t.engine p).sand (at_ + k) = bs.getD k 0) ∧
            ∀ b, (b < at_ ∨ at_ + bs.length ≤ b) → Mem.read (t.engine p).sand b = Mem.read e.sand b) ∧
          (silt = true → e.silt.wf = true → (t.engine p).sand = e.sand ∧
            (∀ k, k < bs.length → Mem.read (t.engine p).silt (at_ + k) = bs.getD k 0) ∧
            ∀ b, (b < at_ ∨ at_ + bs.length ≤ b) → Mem.read (t.engine p).silt b = Mem.read e.silt b)) ∧
      (f.kind = .put → s.leaveHeld p c f = false → f.suppressed = true ∨ s.landHeld tier a bs.length = false →
        let s1 := if f.suppressed then s else s.tierStore tier a bs
        (f.dead = true ∨ (s1.digestRow p c d f.row (f.buf ++ bs)).isSome = true) →
        ∃ t, exec (.transferPieceLanding p c f.id .ok .ok) s = .next t ∧ after s1 t (fun row x => x.auditData row) bs) ∧
      (f.kind = .put → s.leaveHeld p c f = true → ∀ err merge, exec (.transferPieceLanding p c f.id err merge) s = .next s) ∧
      (f.kind = .get ∨ f.kind = .gather → tier = 2 ∨ tier = 3 → ∀ k also,
        let u := sectorAt tier a n k
        let cls := if tier = 2 then 0x0A else 0x0B
        x.repFault = none → s.countsFails p c (failCounters p cls also) →
        ∃ t, exec (.transferPieceLanding p c f.id (.uncorrectable k also) .ok) s = .next t ∧
          StoppedForReplay s t p c (s.failRec p c cls (s.sectorDetail tier u) also) (some (u + tier * 2 ^ 44))
            (failCounters p cls also)) ∧
      (f.kind = .iload → own = false → x.ringStream = none →
        (512 ≤ x.iq.length → ∀ err merge, exec (.transferPieceLanding p c f.id err merge) s = .next s) ∧
        (x.iq.length < 512 → ∃ t, exec (.transferPieceLanding p c f.id .ok .ok) s = .next t ∧
          t = { s with eng := t.eng } ∧ (∀ j, j ≠ p → s.mirror p c ≠ some j → t.engine j = s.engine j) ∧
          (t.engine p).sand = e.sand ∧ (t.engine p).silt = e.silt ∧
          let bs := x.iq ++ now
          (x.stream = none → (t.ctx p c).iq = bs.take 512) ∧
          ∀ st, x.stream = some st →
            let m := min (st.count - st.got) (bs.length / 8)
            (t.ctx p c).iq = (bs.drop (8 * m)).take 512 ∧
            (t.ctx p c).stream = some { st with got := st.got + m, crc := (bs.take (8 * m)).foldl (crcByte polyCrc32c) st.crc } ∧
            ∀ i, i < m → st.start + st.got + i < (s.imemShare p c).2 →
              Tab.get 0 (if st.bankB then (t.engine p).imemB else (t.engine p).imemA)
                ((s.imemShare p c).1 + st.start + st.got + i) = BitVec.ofNat 64 (dfld bs (8 * i) 8)))) ∧
    (f.rxq = true → f.kind = .get → ∀ a n, s.rxqPiece p c f = some (a, n) →
      let bs := s.sandBytes p c a n
      let s1 := s.localStore p c silt l bs
      (f.dead = true ∨ (s1.digestRow p c d f.row (f.buf ++ bs)).isSome = true) →
      ∃ t, exec (.transferPieceLanding p c f.id .ok .ok) s = .next t ∧
        (f.off + n < xRbytes d → CtxOnly s1 t p c (x.setXfer { f with off := f.off + n, buf := f.buf ++ bs }))))

/-- A transfer whose last piece has landed completes while its context runs on its engine: it is no longer outstanding and
its token enters the context's own queue, or, of a D.PUT with an ENGINE token, that of the context whose share it wrote. A
D.SEND of one chunk is handed off as its packets once its half has room; a LOST half, or one without room, takes nothing, and a
provisional one goes without waiting for its checks and is kept until its CONFIRM. A
D.PUT to Shale is complete for the context with its last piece, and its token enters at SHALE_COMPLETION; a Shale read is
complete there, and one of which a request fails, poisoned or by an error of the Clay that backs it, counts, lands nothing and
stops the segment for a replay. What a halted segment keeps, and that a kept token holds its unit, are the model's readings
(log entries 22, 102). -/
def Obligations.TransfersCompleteWithTheirToken : Prop :=
  ∀ (s : State) (p : PhysE) (c : Place) (f : Xfer),
    let x := s.ctx p c
    let d := f.desc
    let q := dfld d 48 4
    let h := s.sendHalf q
    let data := s.localStream p c d f.rows
    let free := s.stuck (.locked p c) = false
    (x.xfer f.id = some f → s.stuck (if f.rxq then .rxq p c else .locked p c) = false → f.rows ≤ f.row →
      f.kind = .get ∨ f.kind = .put ∨ f.kind = .gather → f.shale = false ∨ f.rows = 0 →
      (tokClass f.tok ≠ 1 → tokClass f.tok ≠ 5 → f.dead = false → s.holds? p c = true →
        exec (.lockedTransferComplete p c f.id) s = .next ((s.setCtx p c ((x.doneXfer f).notOwed f)).deliver p c
          (if f.rxq then .rxq p c else .locked p c) f.tok)) ∧
      (tokClass f.tok = 1 → f.tok ≠ 0 → f.suppressed = false → ∀ p', s.physOf (gaLe (xGaddr d)) = some p' →
        exec (.lockedTransferComplete p c f.id) s =
          .next ((s.setCtx p c ((x.doneXfer f).notOwed f)).deliver p' (gaCtx (xGaddr d)) (.locked p c) f.tok))) ∧
    (x.xfer f.id = some f → x.shadow = false → free → s.holds? p c = true → f.prov = true ∨ s.checksDue p c = false → f.kind = .send → f.suppressed = false →
      f.chunk = 0 →
      (f.prov = false → f.lcmp = false → xDigest d = 0 → h.p96 = false → data.length ≤ 65536 → x.nextChunk q h = h.hchunk →
        h.sstate ≠ 3 → h.room data.length = true →
        ∃ t, exec (.dChunkHandoff p c f.id .ok) s = .next t ∧ t = { s with eng := t.eng, send := t.send } ∧
          t.sendHalf q = h.hand (dieOf p) false true f.tok data ∧ (t.ctx p c).xfers = (x.doneXfer f).xfers ∧
          (t.ctx p c).cur = x.cur ∧ (t.engine p).sand = (s.engine p).sand ∧ (t.engine p).silt = (s.engine p).silt) ∧
      (f.prov = true → x.st ≠ .halted → f.lcmp = false → xDigest d = 0 → h.p96 = false → data.length ≤ 65536 → x.nextChunk q h = h.hchunk →
        h.sstate ≠ 3 → h.room data.length = true →
        ∃ t, exec (.dChunkHandoff p c f.id .ok) s = .next t ∧ t = { s with eng := t.eng, send := t.send } ∧
          t.sendHalf q = { h.hand (dieOf p) true true f.tok data with provs := (t.sendHalf q).provs } ∧
          ⟨f.tok, p, c, f.ordinal, h.hchunk, true⟩ ∈ (t.sendHalf q).provs ∧ (t.ctx p c).xfers = (x.doneXfer f).xfers) ∧
      (h.sstate = 3 → ∀ err, exec (.dChunkHandoff p c f.id err) s = .next s)) ∧
    (x.xfer f.id = some f → x.shadow = false → free → s.holds? p c = true → s.checksDue p c = false → f.shale = true → f.kind = .put →
      f.row + 1 = f.rows → f.dead = false → s.shaleDown (xRemote d f.row + f.off) = false →
      let n := min (2048 - (xRemote d f.row + f.off) % 2048) (xRbytes d - f.off)
      let l := xLocal d f.row + f.off
      let bs := s.localBytes p c (xSilt d) l n
      let s1 := if f.suppressed then s else s.shaleStore (xRemote d f.row + f.off) bs
      xRbytes d ≤ f.off + n → (s1.digestRow p c d f.row (f.buf ++ bs)).isSome = true →
      ∃ t, exec (.dChunkHandoff p c f.id .ok) s = .next t ∧ t = { s1 with eng := t.eng } ∧
        (t.ctx p c).shaleOut = x.shaleOut ++ [{ f with row := f.rows, off := 0, buf := [] }] ∧
        (t.ctx p c).xfers = x.xfers.filter (fun u => u.id != f.id)) ∧
    (s.stuck (.shale p c) = false →
      (∀ u, x.shaleOut.find? (fun t => t.id == u.id) = some u → ∀ err, exec (.shaleCompletion p c u.id err) s =
        .next ((s.setCtx p c { x with shaleOut := x.shaleOut.filter (fun v => v.id != u.id) }).deliver p c (.shale p c) u.tok)) ∧
      (x.xfer f.id = some f → x.shadow = false → x.shaleOut.find? (fun t => t.id == f.id) = none → f.shale = true →
        f.kind = .get ∨ f.kind = .gather → 0 < f.rows → (∀ a ∈ s.shaleUnits p c f, s.shaleDown a = false) →
        (∀ s2, s.shaleRows p c f = some s2 → exec (.shaleCompletion p c f.id .ok) s =
          .next ((s2.modCtx p c (·.doneXfer f)).deliver p c (.shale p c) f.tok)) ∧
        (∀ k also,
          let a := (s.shaleUnits p c f).getD (k % max 1 (s.shaleUnits p c f).length) 0
          let b := s.backing 4 a
          let cls := if b.1 = 3 then 0x0B else 0x0C
          x.repFault = none → s.countsFails p c (failCounters p cls also) →
          ∃ t, exec (.shaleCompletion p c f.id (.uncorrectable k also)) s = .next t ∧
            StoppedForReplay s t p c (s.failRec p c cls (s.sectorDetail b.1 b.2) also) (some (b.2 + b.1 * 2 ^ 44)) (failCounters p cls also))))

/-- A held token enters its queue at the tail once an entry is free, one of class LOCAL or CORE while its context runs on its
engine; nothing enters a full queue. The watchdog takes a counted
hold, of a group, of a commit or of the control core, that has reached its limit to a program fault with EXPIRED; where none
has, nothing changes. That the sender keeps the count is the model's choice (log entry 11). -/
def Obligations.HeldTokensEnterAndTheWatchdogExpires : Prop :=
  ∀ (s : State) (p : PhysE) (c : Place) (k : Fin 7) (v : Tok) (pr : Producer) (vs : List (Tok × Producer)) (cc : Nat),
    let x := s.ctx p c
    let due := s.counted p c = true ∧ s.heldLimit p c ≤ cc
    let coreDue := s.ccHeld p c = true ∧ 1024 * s.fld (Reg.tokwd p c) 15 0 ≤ cc
    (x.shadow = false → (k.val = 0 ∨ k.val = 2) → s.holds? p c = false → exec (.heldTokenEntry p c k) s = .next s) ∧
    (x.shadow = false → (k.val ≠ 0 ∧ k.val ≠ 2 ∨ s.holds? p c = true) → Tab.get [] x.heldTok k.val = (v, pr) :: vs →
      exec (.heldTokenEntry p c k) s = .next (s.setCtx p c
        (if (x.tokens k.val).length < 32 then
          { x with heldTok := x.heldTok.set k.val vs, queue := x.queue.set k.val (x.tokens k.val ++ [v]) } else x))) ∧
    (due → ∃ t, exec (.waitExpired p c false cc) s = .next t ∧
      HaltedBy s t p c fExpired (s.heldClass p c) (match x.commit with | some r => r.pc | none => x.cur.pc) x.cur.bankB) ∧
    (coreDue → ∃ t, exec (.waitExpired p c true cc) s = .next t ∧ HaltedBy s t p c fExpired 7 0 x.cur.bankB ∧
      (x.shadow = false → (t.ctx p c).ccFpc = x.cur.ccpc)) ∧
    (¬due → exec (.waitExpired p c false cc) s = .next s) ∧
    (¬coreDue → exec (.waitExpired p c true cc) s = .next s)

/-! ## Streams and commits -/

/-- A stream of a D.ILOAD or of a ring, as its words stand in the instruction queue. An accepted header makes the copy it names
LOADING, and the payload that has come in enters that copy; the copy that runs, the memories and the registers stand. One that
is malformed, or names the ACTIVE copy, is refused: a D.ILOAD's halts its context, and a ring's is completed with its failure.
A correct seal makes the copy READY and completes the stream; a wrong one makes it EMPTY, completes a ring's stream with
status 0x07 and why, and stops a D.ILOAD's segment for a replay, or for good when the stream has failed before and is held. What
lands in an audited region lands in its shadow's too (R527). -/
def Obligations.StreamsLoadTheCopyTheyName : Prop :=
  ∀ (s : State) (p : PhysE) (c : Place) (xf : Option Xfer),
    let x := s.ctx p c
    let e := s.engine p
    let h : W64 := BitVec.ofNat 64 (leNat (x.iq.take 8))
    let b := h.getLsbD 47
    let form := wbits h 63 48 = 0xA5E1 ∧ wbits h 19 0 = 0
    let copy := if b then x.copyB else x.copyA
    let runs := xf.isSome = true → s.holds? p c = true
    s.streamFrom p c = some xf →
    (x.stream = none → 8 ≤ x.iq.length → runs →
      (form → copy ≠ .active → ∃ t, exec (.instructionStreamHeader p c) s = .next t ∧
        let bs := x.iq.drop 8 ++ x.behindQ
        let n := min (wbits h 46 33) (bs.length / 8)
        t = { s with eng := t.eng } ∧ (∀ j, j ≠ p → s.mirror p c ≠ some j → t.engine j = s.engine j) ∧
        (∀ j, j ≠ c → t.ctx p j = s.ctx p j) ∧
        t.ctx p c = { (x.setCopy b .loading).fillQ (bs.drop (8 * n)) with
          stream := some { bankB := b, start := wbits h 32 20, count := wbits h 46 33, iload := xf.isSome, got := n
                           crc := (bs.take (8 * n)).foldl (crcByte polyCrc32c) 0xFFFFFFFF } } ∧
        t.engine p = { e with ctx := (t.engine p).ctx, imemA := (t.engine p).imemA, imemB := (t.engine p).imemB } ∧
        (if b then (t.engine p).imemA = e.imemA else (t.engine p).imemB = e.imemB) ∧
        ∀ i, i < n → wbits h 32 20 + i < (s.imemShare p c).2 →
          Tab.get 0 (if b then (t.engine p).imemB else (t.engine p).imemA) ((s.imemShare p c).1 + wbits h 32 20 + i) =
            BitVec.ofNat 64 (dfld bs (8 * i) 8)) ∧
      (∀ f, xf = some f →
        (¬form → ∃ t, exec (.instructionStreamHeader p c) s = .next t ∧ HaltedBy (s.streamRec p c 5) t p c fMalformed 3 f.pc f.bankB) ∧
        (form → copy = .active → ∃ t, exec (.instructionStreamHeader p c) s = .next t ∧ HaltedBy s t p c fActive 3 f.pc f.bankB)) ∧
      (∀ g, x.ringStream = some g → xf = none → ¬form → ∃ t, exec (.instructionStreamHeader p c) s = .next t ∧
        t.ctx p c = { x with ringStream := none, iq := [] } ∧ t.rings = (s.complete g.ring g.idx 0x07 5).rings)) ∧
    (∀ st also, x.stream = some st →
      let k := s.sealFail p c st (x.streamLen xf) x.sealWord
      let ends := fun (cp : CopySt) => { x.setCopy st.bankB cp with stream := none, iq := [] }
      (x.sealDue st xf = false → exec (.streamSealLands p c also) s = .next s) ∧
      (x.sealDue st xf = true →
        (∀ f, xf = some f → s.holds? p c = true → s.stuck (.locked p c) = false →
          let u := (s.setCtx p c { x with stream := none, iq := [] }).copyState p c st.bankB .empty
          let v := if !st.badForm (x.streamLen xf) x.sealWord && st.badCrc x.sealWord then u.bump (Reg.cuffIlfail p) 1 else u
          (k = 0 → ∃ t, exec (.streamSealLands p c also) s = .next t ∧ t = { s with eng := t.eng } ∧
            t.ctx p c = ((ends .ready).doneXfer f).deliver (.locked p c) f.tok ∧
            ∀ j, j ≠ p → s.mirror p c ≠ some j → t.engine j = s.engine j) ∧
          (k ≠ 0 → s.loadHeld p c f = false → v.countsFails p c (failCounters p 0x09 also) →
            ∃ t, exec (.streamSealLands p c also) s = .next t ∧
              StoppedForReplay v t p c (s.failRec p c 0x09 (leBytes 4 k) also) (some (gaOff (xGaddr f.desc) + 2 * 2 ^ 44))
                (failCounters p 0x09 also) ∧
              (x.shadow = false → (if st.bankB then (t.ctx p c).copyB else (t.ctx p c).copyA) = .empty)) ∧
          (k ≠ 0 → s.loadHeld p c f = true → x.shadow = false →
            ∃ t, exec (.streamSealLands p c also) s = .next t ∧ (t.ctx p c).st = .halted)) ∧
        (∀ g, x.ringStream = some g → xf = none →
          (k = 0 → ∃ t, exec (.streamSealLands p c also) s = .next t ∧
            t = { s with eng := t.eng, rings := (s.complete g.ring g.idx 0 0).rings } ∧
            t.ctx p c = { ends .ready with ringStream := none } ∧
            ∀ j, j ≠ p → s.mirror p c ≠ some j → t.engine j = s.engine j) ∧
          (k ≠ 0 → ∃ t, exec (.streamSealLands p c also) s = .next t ∧ t.ctx p c = { ends .empty with ringStream := none } ∧
            t.rings = (s.complete g.ring g.idx 0x07 (BitVec.ofNat 64 k)).rings))))

/-- A segment commits once everything before its C.COMMIT has completed: what a replay would restore is what the context then
holds, with the sticky flags, its held ranges are those of the list named, and its run count is 1. C.END's commit leaves the
context ENDED as well. A list that is refused, or a piece of the log or of an operation that finds no slot, halts the context at
its C.COMMIT. With it the digest entries stand in the partition's log in order, the sequence operations are released in posting
order (CAPTURE, RETIRE, RELEASE and ADMIT write their entry and move their slot's REFCNT; one whose entry is in another state is
refused), the completions held for the segment are written, RED_NFCNT rises by the non-finite inputs, and a replay that passes
after one engine fault is counted as transient. While something before the C.COMMIT has not completed, nothing happens. The
order of the checks, of the operations' own checks, and what is recorded of a selection are the model's readings (log entries
19, 25, 26, 27, 28, 35). -/
def Obligations.CommitsRecordTheSegmentBoundary : Prop :=
  ∀ (s : State) (p : PhysE) (c : Place) (r : CommitReq),
    let x := s.ctx p c
    let cur := { x.cur with arrfl := s.reg (Reg.arrTstat p c), vecfl := s.reg (Reg.vecFlags p c) }
    let made := fun (held : List HRange) => Ctx.record { x with cur := cur } held
    let done := (s.digestLog p c).bind (fun v => (v.batchSwitches p c).releaseOps p c x.seqOps)
    let q := x.part
    x.commit = some r → x.shadow = false →
    (s.commits p c = false → ∀ err table, exec (.segmentCommit p c err table) s = .next s) ∧
    (s.commits p c = true →
      (∀ code, s.commitList p c r = .inl code → ∃ t, exec (.segmentCommit p c .ok .ok) s = .next t ∧
        HaltedBy s t p c code 4 r.pc x.cur.bankB) ∧
      (∀ held, s.commitList p c r = .inr held → done = none → ∃ t, exec (.segmentCommit p c .ok .ok) s = .next t ∧
        HaltedBy s t p c fSlot 4 r.pc x.cur.bankB) ∧
      (∀ held, s.commitList p c r = .inr held → x.seqOps = [] → s.logOn q = false → x.hostPopped = [] → x.taken = [] → x.nfc = 0 →
        x.rep = .idle → s.audit = none →
        (r.ends = none → exec (.segmentCommit p c .ok .ok) s = .next (s.setCtx p c (made held))) ∧
        ((made held).saved = cur ∧ (made held).hranges = held ∧ (made held).run = 1 ∧
          (made held).queue = x.queue ∧ (made held).popped = [] ∧ (made held).commit = none) ∧
        (∀ code, r.ends = some code → ∃ t, exec (.segmentCommit p c .ok .ok) s = .next t ∧
          t.ctx p c = { made held with st := .ended } ∧ (t.engine p).sand = (s.engine p).sand ∧
          t = { s with eng := t.eng, ev := t.ev, regs := t.regs, out := t.out, msixPend := t.msixPend, recBuf := t.recBuf
                       recLost := t.recLost })) ∧
      (∀ held u, s.commitList p c r = .inr held → done = some u → x.taken = [] → s.audit = none → r.ends = none →
        ∃ t, exec (.segmentCommit p c .ok .ok) s = .next t ∧
          t.ctx p c = made held ∧ t.loam = u.loam ∧ t.reqs = u.reqs ∧
          (∀ i k, HostTag.ack i k ∈ x.hostPopped → ∀ d ∈ (Tab.get {} s.rings i).fetched, d.idx = k → d.status = none →
            { d with status := some (0, 0) } ∈ (Tab.get {} t.rings i).fetched) ∧
          ((s.reg (Reg.redNfcnt p c)).toNat + x.nfc.toNat < 2 ^ 64 - 1 →
            (t.reg (Reg.redNfcnt p c)).toNat = (s.reg (Reg.redNfcnt p c)).toNat + x.nfc.toNat) ∧
          (x.rep = .running → x.migFrom = none → x.engFails = 1 → (s.reg Reg.rplTransient).toNat + 1 < 2 ^ 64 - 1 →
            (Tab.get [] u.recBuf blkReplay).length < 8 →
            (t.reg Reg.rplTransient).toNat = (s.reg Reg.rplTransient).toNat + 1 ∧
            ∃ k ∈ Tab.get [] t.recBuf blkReplay, k.cls = 0x17 ∧ k.run = 2))) ∧
    -- the digest log
    (let es := (sortDigs x.digs).map (logEntry x.cur.stepNo (decide (1 < x.run)) ((s.leOf p).getD 63))
     let n := 2 ^ s.fld (Reg.dglSize q) 4 0
     let head := (s.reg (Reg.dglHead q)).toNat
     let used := (head + 2 ^ 32 - (s.reg (Reg.dglTail q)).toNat) % 2 ^ 32
     let place := fun (i : Nat) => s.fld (Reg.dglBase q) 43 12 * 4096 + 32 * ((head + i) % n)
     s.logOn q = true → s.globalWf → (∀ i < es.length, s.epochMeets (place i) 32 = false) → head < 2 ^ 32 → (s.reg (Reg.dglTail q)).toNat < 2 ^ 32 →
     used + es.length ≤ n → (∀ i < es.length, s.slotsOk q ((s.leOf p).getD 63) c 2 (place i) 32 true = true) →
     ∃ v, s.digestLog p c = some v ∧ (v.reg (Reg.dglHead q)).toNat = (head + es.length) % 2 ^ 32 ∧
       (∀ i < es.length, v.loamBytes (place i) 32 = es.getD i []) ∧ regsBut s v [Reg.dglHead q] ∧
       ∀ a, (∀ i < es.length, a < place i ∨ place i + 32 ≤ a) → v.loamBytes a 1 = s.loamBytes a 1) ∧
    -- the sequence operations
    (∀ o : SeqOp,
      let le := (s.leOf p).getD 63
      let a := s.seqEntry q o.entry.toNat
      let e := s.loamBytes a 32
      let st := dfld e 16 1 % 8
      let slot := dfld e 17 1 % 4
      let cnt := fun (u : State) (n : Nat) => u.fld (Reg.epsStat n) 27 8
      let writes := fun (bs : Bytes) (v : State) => s.releaseOp p c o = some v ∧ v.loamBytes a bs.length = bs ∧
        ∀ b, (b < a ∨ a + bs.length ≤ b) → v.loamBytes b 1 = s.loamBytes b 1
      s.globalWf → s.epochMeets a 64 = false → s.slotsOk q le c 2 a 32 false = true → s.slotsOk q le c 2 a 32 true = true →
      (seqKind o.op = some .capture → ∀ n, s.currentSlot q = some n →
        (st = 0 → cnt s n < 2 ^ 20 - 1 → ∃ v, writes (List.replicate 16 0 ++ entryTail 2 n 0 (s.reg (Reg.epsId n)).toNat) v ∧
          cnt v n = cnt s n + 1) ∧
        (st ≠ 0 → s.releaseOp p c o = some (s.opRefused p c o))) ∧
      (seqKind o.op = some .retire →
        (st = 1 → ∃ v, writes (e.take 16 ++ entryTail 3 slot (bits o.op.toNat 11 4) (dfld e 24 8)) v ∧ cnt v slot = cnt s slot - 1) ∧
        (st ≠ 1 → s.releaseOp p c o = some (s.opRefused p c o))) ∧
      (seqKind o.op = some .release →
        (st = 2 → ∃ v, writes (e.take 16 ++ entryTail 0 (dfld e 17 1) 0 (dfld e 24 8)) v ∧ cnt v slot = cnt s slot - 1) ∧
        (st = 3 → ∃ v, writes (e.take 16 ++ entryTail 0 (dfld e 17 1) 0 (dfld e 24 8)) v ∧ cnt v slot = cnt s slot) ∧
        (st ≠ 2 → st ≠ 3 → s.releaseOp p c o = some (s.opRefused p c o))) ∧
      (seqKind o.op = some .admitSeq → ∀ n k at_, s.currentSlot q = some n → s.nextRequest q = some (k, at_) →
        (st = 0 → cnt s n < 2 ^ 20 - 1 → s.slotsOk q le c 2 at_ 64 false = true → s.slotsOk q le c 2 a 64 true = true →
          let rec_ := s.loamBytes at_ 64
          ∃ v, writes ((rec_.drop 8).take 8 ++ rec_.take 8 ++ entryTail 1 n 0 (s.reg (Reg.epsId n)).toNat ++ rec_.drop 32) v ∧
            cnt v n = cnt s n + 1 ∧ Tab.get [] v.reqs q = (Tab.get [] s.reqs q).filter (fun u => u.seq != k.seq) ∧
            (s.strict = true → v.reg (Reg.rollHead q) = s.reg (Reg.rollHead q) + 1)) ∧
        (st ≠ 0 → s.releaseOp p c o = some (s.opRefused p c o))))

/-! ## The control core -/

/-- The control core's standard instructions: the integer operations, the jumps, branches, loads and stores write rd,
memory and pc as RISC-V does, in the cycles given, and change nothing else but the count of a corrected error; a lockstep
mismatch, or an uncorrectable error, counts and stops the segment for a replay, with another failure of the same cc in its
record; a fetch outside the share is a program
fault. The cycles are those of the model's untimed reading, and FENCE's is its choice (log entries 29, 114). -/
def Obligations.ControlCoreRunsStandardInstructions : Prop :=
  ∀ (s : State) (p : PhysE) (c : Place) (o : CcOp) (len : Nat) (u : CcUpset) (s1 : State),
    let x := s.ctx p c
    let r := x.cur
    let pc : W32 := BitVec.ofNat 32 r.ccpc
    let next := pc + BitVec.ofNat 32 len
    let does := fun (rd : Nat) (v pc : W32) (cyc : Nat) => ∃ t, exec (.ccInstruction p c u) s = .next t ∧
      CtxOnly s1 t p c { x with ccWait := 0, cur := r.ccDone rd v pc cyc }
    s.ccCan p c = true →
    ((u = .none ∧ s1 = s) ∨ (u = .eccCorrected ∧ s1 = s.bump (Reg.ccEcccor p) 1) → s1.ccFetch p c = some (o, len) →
      (∀ a rd n v, o = .aluI a rd n v → does rd (a.run (r.xreg n) v) next a.cycles) ∧
      (∀ a rd n m, o = .alu a rd n m → does rd (a.run (r.xreg n) (r.xreg m)) next a.cycles) ∧
      (∀ rd v, o = .lui rd v → does rd v next 1) ∧
      (∀ rd v, o = .auipc rd v → does rd (pc + v) next 1) ∧
      (∀ rd v, o = .jal rd v → does rd next (pc + v) 2) ∧
      (∀ rd n v, o = .jalr rd n v → does rd next ((r.xreg n + v) &&& ~~~ 1) 2) ∧
      (∀ f n m v, o = .branch f n m v →
        if branchTaken f (r.xreg n) (r.xreg m) then does 0 0 (pc + v) 2 else does 0 0 next 1) ∧
      (o = .fence → does 0 0 next 1) ∧
      (∀ f rd n v i, o = .load f rd n v → (r.xreg n + v).toNat % 2 ^ (f % 4) = 0 →
        s1.ccData p c (r.xreg n + v).toNat (2 ^ (f % 4)) = some i →
        let y := leNat (Mem.bytes (s.engine p).ccD ((s1.ccDShare p c).1 + i) (2 ^ (f % 4)))
        does rd (if f < 4 then (BitVec.ofNat (8 * 2 ^ (f % 4)) y).signExtend 32 else BitVec.ofNat 32 y) next 2) ∧
      (∀ f n m v i, o = .store f n m v → (r.xreg n + v).toNat % 2 ^ f = 0 → s1.ccData p c (r.xreg n + v).toNat (2 ^ f) = some i →
        x.journal.length < 1024 → (s.engine p).ccD.wf = true → ∃ t, exec (.ccInstruction p c u) s = .next t ∧
          Mem.bytes (t.engine p).ccD ((s1.ccDShare p c).1 + i) (2 ^ f) = leBytes (2 ^ f) (r.xreg m).toNat ∧
          (∀ b, (b < (s1.ccDShare p c).1 + i ∨ (s1.ccDShare p c).1 + i + 2 ^ f ≤ b) →
            Mem.read (t.engine p).ccD b = Mem.read (s.engine p).ccD b) ∧
          t = { s1 with eng := t.eng } ∧ (∀ j, j ≠ p → t.engine j = s.engine j) ∧ (∀ j, j ≠ c → t.ctx p j = s.ctx p j) ∧
          t.engine p = { s.engine p with ctx := (t.engine p).ctx, ccD := (t.engine p).ccD } ∧
          t.ctx p c = { x with ccWait := 0, journal := (t.ctx p c).journal, cur := r.ccDone 0 0 next 1 })) ∧
    (∀ also,
      let counts := fun (cls : Nat) => Reg.ccLockfail p :: (failCounters p cls also).drop 1
      (s.countsFails p c (counts 0x07) → ∃ t, exec (.ccInstruction p c (.lockstep also)) s = .next t ∧
        StoppedForReplay s t p c (s.failRec p c 0x07 [] also) none (counts 0x07)) ∧
      ((∀ k, also = some k → k.cls.toNat ≠ 0x07) → s.countsFails p c (counts 0x08) →
        ∃ t, exec (.ccInstruction p c (.eccUncorrectable also)) s = .next t ∧
          StoppedForReplay s t p c (s.failRec p c 0x08 [] also) none (counts 0x08))) ∧
    (s.ccFetch p c = none → ∃ t, exec (.ccInstruction p c .none) s = .next t ∧ HaltedBy s t p c fBound 7 0 r.bankB ∧
      (x.shadow = false → (t.ctx p c).ccFpc = r.ccpc))

/-- A CSR instruction that only reads gives rd the CSR's value and writes nothing, or holds while a Sand feed runs whose
bytes the CSR is to show; a write to a loop count sets that loop count, or, when an instruction of the engine writes it in
the same cc, is lost and shown in XSTAT.LCLOST; a number outside the tables is a program fault. EBREAK stops the core when
a debug session armed it, with nothing else changed, and is a program fault otherwise. Where the pc stands after an EBREAK
is the model's reading (log entry 33). -/
def Obligations.CsrAccessesAndEbreak : Prop :=
  ∀ (s : State) (p : PhysE) (c : Place) (f3 rd rs1 num len : Nat),
    let x := s.ctx p c
    let r := x.cur
    let next := BitVec.ofNat 32 r.ccpc + BitVec.ofNat 32 len
    let old : W32 := Tab.get 0 r.lc (num - 0x808)
    let faults := fun (i : Instr) => ∃ t, exec i s = .next t ∧ HaltedBy s t p c fMalformed 7 0 r.bankB ∧
      (x.shadow = false → (t.ctx p c).ccFpc = r.ccpc)
    s.ccCan p c = true →
    (s.ccFetch p c = some (.csr f3 rd rs1 num, len) →
      (f3 = 2 ∨ f3 = 6 → rs1 = 0 → ∀ v, s.csrRead p c num = some v → ∃ t, exec (.csrAccess p c false) s = .next t ∧
        CtxOnly s t p c (if runningCsr num = true ∧ r.feed.isSome = true then
            { x with ccWait := 4, cur := { r with cycle := r.cycle + 1 } }
          else { x with ccWait := 0, cur := r.ccDone rd v next 1 })) ∧
      (f3 = 1 → 0x808 ≤ num → num ≤ 0x80F →
        (∃ t, exec (.csrAccess p c false) s = .next t ∧ CtxOnly s t p c
          { x with ccWait := 0, cur := Rec.ccDone { r with lc := r.lc.set (num - 0x808) (r.xreg rs1) } rd old next 1 }) ∧
        ∃ t, exec (.csrAccess p c true) s = .next t ∧ CtxOnly s t p c
          { x with ccWait := 0, cur := Rec.ccDone { r with csr := { r.csr with lclost := true } } rd old next 1 }) ∧
      (s.csrRead p c num = none → faults (.csrAccess p c false))) ∧
    (s.ccFetch p c = some (.ebreak, len) →
      (x.dbgArm = true → ∃ t, exec (.ebreak p c) s = .next t ∧
        CtxOnly s t p c { x with ccHalt := true, cur := { r with ccpc := r.ccpc + len } }) ∧
      (x.dbgArm = false → faults (.ebreak p c)))

/-- xsq.pop takes the oldest summary and latches it, or holds on an empty queue; xsel posts a selection when none stands,
holds while one stands, and a selection of 64 or above is a malformed instruction at its C.SELECT; xtok puts its CORE
token into a queue with room; the four operations of xseq are posted in order. Nothing else changes. That a hold is one
attempt of one cycle is the model's choice (log entry 29). -/
def Obligations.ExtensionMessagesLeaveInOrder : Prop :=
  ∀ (s : State) (p : PhysE) (c : Place) (len : Nat),
    let x := s.ctx p c
    let r := x.cur
    let next := BitVec.ofNat 32 r.ccpc + BitVec.ofNat 32 len
    let does := fun (i : Instr) (y : Ctx) (r' : Rec) (rd : Nat) (v : W32) => ∃ t, exec i s = .next t ∧
      CtxOnly s t p c { y with ccWait := 0, cur := r'.ccDone rd v next 1 }
    let posts := fun (i : Instr) (k : SeqKind) (arg : Nat) => ∀ n m,
      let e := r.xreg n
      let op := r.xreg m
      let q := Reg.rollSeqt x.part
      s.ccFetch p c = some (.xseq n m, len) → seqKind op = some k → op.toNat = 16 * arg + op.toNat % 16 → arg < 256 →
      (k = .retire → arg ≠ 0) → (k ≠ .retire → arg = 0) → (k = .admitSeq → s.admitBad p c = false) →
      e.toNat < 65536 → s.flag q 57 = true → e.toNat < s.fld q 56 40 → x.seqOps.length < 64 →
      does i { x with seqOps := x.seqOps ++ [⟨e, op⟩] } r 0 0
    s.ccCan p c = true →
    (∀ rd y ys, s.ccFetch p c = some (.xsqPop rd, len) → r.sumq = y :: ys →
      does (.xsqPop p c) x { r with sumq := ys, csr := { r.csr with latch := y } } rd (y.value.setWidth 32)) ∧
    (∀ rd, s.ccFetch p c = some (.xsqPop rd, len) → r.sumq = [] → ∃ t, exec (.xsqPop p c) s = .next t ∧
      CtxOnly s t p c { x with ccWait := 1, cur := { r with cycle := r.cycle + 1 } }) ∧
    (∀ n, s.ccFetch p c = some (.xsel n, len) → x.sel = none → does (.xsel p c) { x with sel := some (r.xreg n) } r 0 0) ∧
    (∀ n v, s.ccFetch p c = some (.xsel n, len) → x.sel = some v → ∃ t, exec (.xsel p c) s = .next t ∧
      CtxOnly s t p c { x with ccWait := 2, cur := { r with cycle := r.cycle + 1 } }) ∧
    (∀ w v, s.canRun p c .cSelect w → x.sel = some v → 64 ≤ v.toNat → ∃ t, exec (.cSelect p c) s = .next t ∧
      HaltedBy (s.opened p c) t p c fMalformed 4 r.pc r.bankB) ∧
    (∀ n k, s.ccFetch p c = some (.xtok n, len) → coreTok (r.xreg n) = some k → k ≠ 0 → x.coreFull = false →
      does (.xtok p c) { x with queue := x.queue.set 2 (x.tokens 2 ++ [k]) } r 0 0) ∧
    posts (.admitSeq p c) .admitSeq 0 ∧ posts (.capture p c) .capture 0 ∧ (∀ a, posts (.retire p c) .retire a) ∧
    posts (.release p c) .release 0

/-- The program lane takes the low byte, halfword or word of a register into the running value while no Sand feed runs;
xcrc.sand starts a feed of its range, and its completion takes the range's bytes and enters its token. xrn.go latches the
configuration, and its completion stores the words of R246 or R247 to Sand, enters the token, and changes no other byte.
Both complete while the context runs on its engine. A range held by the segment is a program fault with HELD,
at the end of a fill too, and an
uncorrectable error of what a feed reads stops the segment for a replay. That a feed or a fill takes effect as a whole at
its completion is the model's reading (log entry 30). -/
def Obligations.ChecksAndRandomNumbersOfTheCore : Prop :=
  ∀ (s : State) (p : PhysE) (c : Place) (n len : Nat),
    let x := s.ctx p c
    let r := x.cur
    let k := r.csr
    let next := BitVec.ofNat 32 r.ccpc + BitVec.ofNat 32 len
    let does := fun (i : Instr) (r' : Rec) => ∃ t, exec i s = .next t ∧
      CtxOnly s t p c { x with ccWait := 0, cur := r'.ccDone 0 0 next 1 }
    let holdsIt := fun (i : Instr) => ∃ t, exec i s = .next t ∧ HaltedBy s t p c fHeld 7 0 r.bankB
    let feeds := fun (i : Instr) (f : Nat) => s.ccFetch p c = some (.xcrc f n, len) → r.feed = none →
      does i { r with csr := { k with run := (leBytes (2 ^ f) (r.xreg n).toNat).foldl (crcByte k.polynomial) k.run } }
    let after := fun (l : Nat) => BitVec.ofNat 32 r.ccpc + BitVec.ofNat 32 l
    let fill := fun (tok : Tok) => ({ seed := k.rnSeed, id := k.rnId, w3 := if k.rnStep then r.stepNo.setWidth 32 else k.rnW3
                                      ib := k.rnIb, dst := k.rnDst.toNat, cnt := k.rnCnt.toNat, seq := k.rnMode
                                      src := k.rnSrc.toNat, tok := tok, pc := r.ccpc } : RnFill)
    let len := if k.rnMode then 16 * k.rnCnt.toNat else 4 * k.rnCnt.toNat
    let free := s.watched p c = true ∧ s.stuck (.core p c) = false
    (s.ccCan p c = true → feeds (.xcrcB p c) 0 ∧ feeds (.xcrcH p c) 1 ∧ feeds (.xcrcW p c) 2 ∧
      (∀ tok l, s.ccFetch p c = some (.xcrcSand n, l) → r.feed = none → coreTok (r.xreg n) = some tok → 0 < k.cuffLen.toNat →
        k.cuffLen.toNat ≤ 2 ^ 24 → s.sandOk p c k.cuffSrc.toNat k.cuffLen.toNat = true →
        (x.holds 0 k.cuffSrc.toNat k.cuffLen.toNat = true → holdsIt (.xcrcSand p c)) ∧
        (x.holds 0 k.cuffSrc.toNat k.cuffLen.toNat = false → ∃ t, exec (.xcrcSand p c) s = .next t ∧
          CtxOnly s t p c { x with ccWait := 0, cur := Rec.ccDone { r with feed := some ⟨k.cuffSrc.toNat, k.cuffLen.toNat, tok⟩ } 0 0 (after l) 1 })) ∧
      (∀ tok l, s.ccFetch p c = some (.xrnGo n, l) → r.fill = none → coreTok (r.xreg n) = some tok → k.fillOk = true →
        s.sandOk p c k.rnDst.toNat len = true → (k.rnMode = true → s.sandOk p c k.rnSrc.toNat (16 * k.rnCnt.toNat) = true) →
        (x.holds 0 k.rnDst.toNat len = true → holdsIt (.xrnGo p c)) ∧
        (x.holds 0 k.rnDst.toNat len = false → ∃ t, exec (.xrnGo p c) s = .next t ∧
          CtxOnly s t p c { x with ccWait := 0, cur := Rec.ccDone { r with fill := some (fill tok) } 0 0 (after l) 1 }))) ∧
    (∀ f, r.feed = some f → free →
      let v := (s.sandBytes p c f.src f.len).foldl (crcByte k.polynomial) k.run
      (∃ t, exec (.cuffSandFeedComplete p c .ok) s = .next t ∧
        CtxOnly s t p c (Ctx.deliver { x with cur := { r with feed := none, csr := { k with run := v } } } (.core p c) f.tok)) ∧
      (∀ j also, let a := sramAt 0 f.src f.len j
        x.holds 0 a 8 = false → s.countsFails p c (failCounters p 0x08 also) →
        ∃ t, exec (.cuffSandFeedComplete p c (.uncorrectable j also)) s = .next t ∧
          StoppedForReplay s t p c (s.failRec p c 0x08 (leBytes 4 a) also) none (failCounters p 0x08 also))) ∧
    (∀ f, r.fill = some f → free → (s.engine p).sand.wf = true →
      let n := if f.seq then 16 * f.cnt else 4 * f.cnt
      (x.holds 0 f.dst n = true → ∃ t, exec (.randomFillComplete p c .ok) s = .next t ∧ HaltedBy s t p c fHeld 7 0 r.bankB ∧
        (x.shadow = false → (t.ctx p c).ccFpc = f.pc)) ∧
      (x.holds 0 f.dst n = false → ∃ t, exec (.randomFillComplete p c .ok) s = .next t ∧
      (f.seq = false → ∀ j, j < f.cnt → let i := f.ib.toNat + j
        t.sandBytes p c (f.dst + 4 * j) 4 = leBytes 4
          ((philox f.seed (BitVec.ofNat 32 (i / 4)) (BitVec.ofNat 32 (i / 4 / 2 ^ 32)) f.id f.w3).getD (i % 4) 0).toNat) ∧
      (f.seq = true → ∀ j m, j < f.cnt → m < 4 → let d := s.sandBytes p c (f.src + 16 * j) 12
        t.sandBytes p c (f.dst + 16 * j + 4 * m) 4 = leBytes 4
          ((philox f.seed (BitVec.ofNat 32 (dfld d 0 4)) (BitVec.ofNat 32 (dfld d 4 4)) f.id (BitVec.ofNat 32 (dfld d 8 4))).getD m 0).toNat) ∧
      sandBut s t p c f.dst n ∧ t = { s with eng := t.eng } ∧
      t.ctx p c = Ctx.deliver { x with cur := { r with fill := none } } (.core p c) f.tok))

/-! ## Replay, migration and audit -/

/-- Restoration puts a context with no loaded block and no unconfirmed transfer back to its commit: its record, its popped
tokens at the heads of their queues (and LOCAL, CORE and SHALE as recorded), its stored words undone, its flags as recorded,
the landed transfers whose tokens were to come, and the ordinals of its completed outbound transfers to suppress; its run number
rises. After the first fault of an engine class it runs again on its engine; after a second its engine migrates to a spare, or
without one becomes suspect and takes its next rung; a fault on the spare classifies the first engine as good or suspect, and the
segment ends. The second fault of one address of a tier marks what failed, and the third ends the segment. The first group of the
replay counts in RPL_RUNS. When the run number rises, what becomes of a selection and of held tokens, and which spare is taken,
are the model's readings (log entries 28, 35, 36). -/
def Obligations.ReplaysRestoreTheCommitState : Prop :=
  ∀ (s : State) (p : PhysE) (c : Place),
    let x := s.ctx p c
    let health := fun (t : State) (j : Nat) => t.fld (Reg.engHealth j) 2 0
    let stands := fun (t : State) (offs : List Nat) =>
      (t.ctx p c).cur = x.saved ∧ (t.ctx p c).rep = .waiting ∧ (t.ctx p c).run = x.run + 1 ∧
      (t.ctx p c).suppress = x.outDone ∧ (t.ctx p c).sel = x.savedSel ∧ (t.ctx p c).journal = [] ∧ (t.ctx p c).xfers = x.savedX ∧
      (∀ k, k < 7 → (t.ctx p c).tokens k =
        if k = 0 ∨ k = 2 ∨ k = 5 then Tab.get [] x.savedQ k else Tab.get [] x.popped k ++ x.tokens k) ∧
      (t.engine p).ccD = x.journal.foldl (fun m kv => m.store ((s.ccDShare p c).1 + kv.1) (leBytes 4 kv.2.toNat)) (s.engine p).ccD ∧
      t.reg (Reg.arrTstat p c) = x.saved.arrfl ∧ t.reg (Reg.vecFlags p c) = x.saved.vecfl ∧
      regsBut s t ([Reg.arrTstat p c, Reg.vecFlags p c] ++ offs) ∧
      (t.engine p).sand = (s.engine p).sand ∧ (t.engine p).silt = (s.engine p).silt ∧ (t.engine p).vreg = (s.engine p).vreg ∧
      t.loam = s.loam ∧ t.clay = s.clay ∧ (∀ j, j ≠ p → t.engine j = s.engine j)
    let next := fun (P : State → Prop) => ∃ t, exec (.restorationComplete p c) s = .next t ∧ P t
    let ends := fun (t : State) => (t.ctx p c).st = .halted ∧ (t.reg Reg.rplUnrecov).toNat = (s.reg Reg.rplUnrecov).toNat + 1 ∧
      (t.engine p).sand = (s.engine p).sand ∧ t.loam = s.loam
    (x.rep = .restoring → x.shadow = false → x.xfers.any (fun t => t.dead && !s.lostSend t) = false → (s.engine p).mLoad = none →
      s.unconfirmed p c = false → x.saved.block = none → s.audit = none → ∀ f, x.repFault = some f →
      (2 ≤ f.cls ∧ f.cls ≤ 8 →
        (x.engFails = 0 → next (fun t => stands t [] ∧ (t.ctx p c).engFails = 1 ∧ (t.engine p).migrate = (s.engine p).migrate)) ∧
        (1 ≤ x.engFails → x.migFrom = none →
          (∀ q, s.spareFor p = some q → next (fun t => stands t [] ∧ (t.engine p).migrate = some q)) ∧
          (s.spareFor p = none → s.fld (Reg.engHealth p) 5 3 < 4 → next (fun t => stands t [Reg.engHealth p, Reg.rplSuspect] ∧
            health t p = 2 ∧ t.fld (Reg.engHealth p) 5 3 = s.fld (Reg.engHealth p) 5 3 + 1))) ∧
        (1 ≤ x.engFails → (s.reg Reg.rplUnrecov).toNat + 1 < 2 ^ 64 - 1 → ∀ p0 : PhysE, x.migFrom = some p0.val →
          next (fun t => ends t ∧ health t p0 = (if health s p0 = 2 then 3 else 1) ∧
            (health s p0 ≠ 2 → t.flag Reg.spareSet p0 = true)))) ∧
      (f.cls < 2 ∨ 8 < f.cls →
        (x.sameAddr < 2 → next (fun t => stands t [])) ∧
        (x.sameAddr = 2 → ∀ a, f.addr = some a → a / 2 ^ 44 = 2 → next (fun t => stands t [] ∧ s.hbmRow (gaOff a) ∈ t.repair)) ∧
        (3 ≤ x.sameAddr → (s.reg Reg.rplUnrecov).toNat + 1 < 2 ^ 64 - 1 → next ends))) ∧
    (x.rep = .waiting → s.holds? p c = true → (s.engine p).migrate = none → (s.engine p).reloading = false →
      (s.reg Reg.rplRuns).toNat + 1 < 2 ^ 64 - 1 → ∃ t, exec (.replayFirstIssue p c) s = .next t ∧
        t.ctx p c = { x with rep := .running } ∧ (t.reg Reg.rplRuns).toNat = (s.reg Reg.rplRuns).toNat + 1 ∧
        t.loam = s.loam ∧ (t.engine p).sand = (s.engine p).sand)

/-- When nothing of a partition replays, migrates or is unloaded, the end of its stall lets every context of it issue, and a
shadow that was copied from it, and changes nothing else. A migration, once every context of the engine has stopped, gives the
spare the engine's memories, contexts and context registers and the logical number; the engine is left without contexts. Which
spare is taken is the model's choice (log entry 36). -/
def Obligations.StallsEndAndMigrationsMoveTheEngine : Prop :=
  ∀ (s : State) (q : PartId) (p : PhysE) (dst n : Nat),
    let e := s.engine p
    ((∀ pc ∈ s.residents q, (s.ctx pc.1 pc.2).rep ≠ .restoring ∧ (s.ctx pc.1 pc.2).rep ≠ .waiting ∧
        (s.engine pc.1).migrate = none ∧ (s.ctx pc.1 pc.2).going = false) →
      let shadow := fun (j c : Nat) => ∃ a, s.audit = some a ∧ a.spare = j ∧ a.c = c ∧ (s.ctx j c).shadow = true ∧ (s.ctx j c).part = q.val
      ∃ t, exec (.partitionStallEnd q) s = .next t ∧ ContextsOnly s t ∧
        ∀ j c, (shadow j c → t.ctx j c = { s.ctx j c with stalled := false }) ∧
          (¬shadow j c → t.ctx j c =
            if (j, c) ∈ s.residents q then { s.ctx j c with stalls := false, stalled := false } else s.ctx j c)) ∧
    (e.migrate = some dst → dst ≠ p → dst < 52 → s.leOf p = some n → (∀ c, c < 4 → (e.at c).still = true) →
      ∃ t, exec (.migrationReentry p) s = .next t ∧
        (t.engine dst).sand = e.sand ∧ (t.engine dst).silt = e.silt ∧ (t.engine dst).vreg = e.vreg ∧ (t.engine dst).ccD = e.ccD ∧
        (t.engine dst).imemA = e.imemA ∧ (t.engine dst).imemB = e.imemB ∧ (t.engine dst).migrate = none ∧
        (∀ c, c < 4 → (t.ctx dst c).cur = (e.at c).cur ∧ (t.ctx dst c).st = (e.at c).st ∧
          t.reg (Reg.sandShare dst c) = s.reg (Reg.sandShare p c) ∧ t.reg (Reg.vecFlags dst c) = s.reg (Reg.vecFlags p c)) ∧
        (t.engine p).ctx = [] ∧ t.fld (Reg.leMap n) 5 0 = dst ∧ t.flag Reg.spareSet dst = false ∧
        t.fld (Reg.engHealth dst) 2 0 = 0 ∧ t.loam = s.loam ∧ t.clay = s.clay)

/-- While Gauntlet's firmware runs, a probed engine that passes is an unassigned spare at that rung; one that fails is tried at
the next rung, and after the fourth it is retired and no engine holds its number. An audit that falls due takes the rotation's
next engine and place with the first spare, or is late while one runs. The shadow's commit only keeps its results; runs that
agree in their accumulators and their audit digests count and clear RECHECK; a difference counts a mismatch, sends a record of
class 0x16 and is audited again, and a second one of the same engine makes it suspect. A dropped audit names its engine next and
takes the shadow from the spare. Which spare is taken, the steps of a shadow, and where the rung of a probe is kept are the
model's choices (log entries 36 to 38). -/
def Obligations.ProbesAndAuditsJudgeEngines : Prop :=
  ∀ (s : State) (p : PhysE) (le : Fin 48) (c : Place) (spare : Nat) (rest : List Nat) (digs shade : List DigAcc)
    (sum step dig upset : W64) (pop : Tab (List Tok)),
    let buf := Tab.get [] s.recBuf blkReplay
    let rung := (s.engine p).probeRung + 1
    let h := fun (t : State) => t.fld (Reg.engHealth p) 2 0
    let own := sum ^^^ upset
    let agrees := digsAgree digs shade = true ∧ dig = own
    (h s = 3 → s.gaunt.restarting = false →
      (∃ t, exec (.engineProbe p true) s = .next t ∧ (t.engine p).probeRung = 0 ∧ h t = 1 ∧ t.flag Reg.spareSet p = true ∧
        (∀ n, s.leOf p = some n → t.fld (Reg.leMap n) 5 0 = 63) ∧ t.loam = s.loam) ∧
      (rung < 4 → ∃ t, exec (.engineProbe p false) s = .next t ∧ h t = 3 ∧ t.fld (Reg.engHealth p) 5 3 = rung ∧
        t = { s.setEngine p { s.engine p with probeRung := rung } with regs := t.regs, recBuf := t.recBuf, recLost := t.recLost }) ∧
      (4 ≤ rung → ∃ t, exec (.engineProbe p false) s = .next t ∧ h t = 4 ∧
        (∀ n, s.leOf p = some n → t.fld (Reg.leMap n) 5 0 = 63) ∧
        ∀ c, c < 4 → (s.ctx p c).resident = true → (t.ctx p c).st = .halted)) ∧
    (h s = 3 → s.gaunt.restarting = true → ∀ passed, exec (.engineProbe p passed) s = .next s) ∧
    (s.spareList = spare :: rest → s.flag Reg.auditCtl 0 = true →
      (s.audit = none → s.auditFrom (s.fld Reg.auditStat 7 2) = some (le.val, p.val, c.val) →
        ∃ t, exec (.auditStart le c) s = .next t ∧ t.audit = some { le := le, p := p, c := c, spare := spare } ∧
          t = { s with audit := t.audit, regs := t.regs } ∧ regsBut s t [Reg.auditStat]) ∧
      (s.audit ≠ none → exec (.auditStart le c) s = .next (s.setFld Reg.auditStat 1 1 1))) ∧
    (∀ a, s.audit = some a →
      ((s.ctx p c).shadow = true → (s.ctx p c).commit.isSome = true → s.commits p c = true → ∀ err table,
        exec (.segmentCommit p c err table) s = .next ({ s with
          audit := some { a with shade := some ((s.ctx p c).digs, (s.ctx p c).audit) } }.setCtx p c
            { s.ctx p c with commit := none, st := .waiting })) ∧
      (a.p = p.val ∨ a.spare = p.val → a.c = c.val → a.le < 48 →
        let t := s.dropAudit p c
        t.audit = none ∧ t.fld Reg.auditStat 7 2 = a.le ∧ regsBut s t [Reg.auditStat] ∧ (∀ j, j ≠ a.spare → t.engine j = s.engine j) ∧
        ((s.ctx a.spare c).shadow = true → t.ctx a.spare c = {} ∧ (t.engine a.spare).holder = none) ∧
        ((s.ctx a.spare c).shadow = false → t.eng = s.eng))) ∧
    (s.audit = some { le := le, p := p, c := c, spare := spare, begun := true, orig := some (digs, sum, step), popped := pop
                      shade := some (shade, dig) } → spare ≠ p.val →
      (agrees → (s.reg Reg.auditRuns).toNat + 1 < 2 ^ 64 - 1 → ∃ t, exec (.auditCompare upset) s = .next t ∧
        t.audit = none ∧ t.flag Reg.auditStat 10 = false ∧ (t.reg Reg.auditRuns).toNat = (s.reg Reg.auditRuns).toNat + 1 ∧
        (t.engine p).auditCtx = (c.val + 1) % 4 ∧ t.reg Reg.auditMismatch = s.reg Reg.auditMismatch ∧ t.recBuf = s.recBuf ∧
        p.val ∉ t.auditBad ∧ ((s.ctx spare c).shadow = true → t.ctx spare c = {})) ∧
      (¬agrees → (s.reg Reg.auditMismatch).toNat + 1 < 2 ^ 64 - 1 →
        (p.val ∉ s.auditBad → buf.length < 8 →
          ∃ t r, exec (.auditCompare upset) s = .next t ∧ t.audit = none ∧ t.flag Reg.auditStat 10 = true ∧
            (t.reg Reg.auditMismatch).toNat = (s.reg Reg.auditMismatch).toNat + 1 ∧ Tab.get [] t.recBuf blkReplay = buf ++ [r] ∧
            r.cls = 0x16 ∧ r.detail = leBytes 8 own.toNat ++ leBytes 8 dig.toNat ∧ t.reg Reg.auditRuns = s.reg Reg.auditRuns ∧
            p.val ∈ t.auditBad) ∧
        (p.val ∈ s.auditBad → h s ≠ 4 → s.flag Reg.spareSet p = false →
          ∃ t, exec (.auditCompare upset) s = .next t ∧ t.audit = none ∧ p.val ∉ t.auditBad ∧
            (t.reg Reg.auditMismatch).toNat = (s.reg Reg.auditMismatch).toNat + 1 ∧
            (if (List.range 4).any (fun j => (s.ctx p j).resident) then
               h t = 2 ∧ ∀ k, s.spareFor p = some k → (t.engine p).migrate = some k
             else h t = 3))))

/-! ## Periods and slices -/

/-- At a period boundary with no sweep, reset or stall pending, a corrected scrub counts, and every debug halt, resume and
step that was asked for takes effect; the contexts of a partition that resets stop; each channel of a Clay sweep serves its
sector, whose check symbols then record the current generation. A page of the CXL sweep is read under the old generation,
the pointer passes it, it is written back, and every other byte of the device stands; the last page ends the rotation and
zeroes the old generation's key. That a refresh changes no state, that a resume starts the control core too, and at which
boundary it enters are the model's readings (log entries 85, 89). -/
def Obligations.PeriodBoundariesStopWhatWaits : Prop :=
  ∀ (s : State) (q : PartId) (clay : Bool) (addr : BitVec 44),
    let cor := if clay then Reg.clayCor else Reg.loamCor
    (s.rot = [] → (∀ j, j < 8 → (s.partx j).clearing = none) → s.flag Reg.engsetRst 53 = false →
      (∀ p c, (s.ctx p c).stalls = false ∧ (s.engine p).migrate = none) → (s.reg cor).toNat + 1 < 2 ^ 64 - 1 →
      ∃ t, exec (.periodBoundary .corrected clay addr) s = .next t ∧
        ContextsOnly s { t with regs := s.regs } ∧ (t.reg cor).toNat = (s.reg cor).toNat + 1 ∧ regsBut s t [cor] ∧
        ∀ p c, let x := s.ctx p c
          t.ctx p c = if x.dbgReq then { x with
              dbgReq := false, dbgHalt := true, dbgSteps := 0, dbgGo := none, dbgPhase := if x.dbgHalt then x.dbgPhase else 0 }
            else match x.dbgGo with
              | some 0 => { x with dbgGo := none, dbgHalt := false, dbgSteps := 0, ccHalt := false }
              | some n => { x with dbgGo := none, dbgHalt := false, dbgSteps := n }
              | none => x) ∧
    ((s.partx q).clearing = some .reset → ∃ t, exec (.periodBoundary .ok clay addr) s = .next t ∧
      ∀ pc ∈ s.residents q, (t.ctx pc.1 pc.2).going = true ∧ (t.ctx pc.1 pc.2).st ≠ .running) ∧
    (∀ r, s.rot = [(q.val, r)] → r.i + 1 < 32 * r.chunks → s.keyless q = false → s.clayGen.wf = true →
      ∃ t, exec (.periodBoundary .ok clay addr) s = .next t ∧ t.rot = [(q.val, { r with i := r.i + 1 })] ∧
        (∀ a ∈ s.sweepSectors q r.i, t.clayGen.read (a / 64) = BitVec.ofNat 8 (s.keyGen q)) ∧
        t.loam = s.loam ∧ t.cxl0 = s.cxl0 ∧ t.cxl1 = s.cxl1 ∧ t.keys = s.keys) ∧
    (∀ r port a, s.rot.find? (fun kv => kv.1 == q.val) = some (q.val, r) → r.ptr < r.cxl →
      s.shaleAt (s.cxlPage q r.ptr) = .cxl port a →
      let r' : Rot := { r with ptr := r.ptr + 1 }
      let page := fun (t : State) (regs : Tab W64) (rot : Tab Rot) (keys : Tab (List (BitVec 256))) =>
        t = ({ s with rot := rot, regs := regs, keys := keys }).shaleStore (s.cxlPage q r.ptr) (s.shaleBytes (s.cxlPage q r.ptr) 4096) ∧
        regsBut s t [Reg.rotStat q] ∧ t.cxlMem (!port) = s.cxlMem (!port) ∧
        ∀ b, (b < a ∨ a + 4096 ≤ b) → Mem.read (t.cxlMem port) b = Mem.read (s.cxlMem port) b
      (0 < r'.left → ∃ t, exec (.cxlSweepPage q) s = .next t ∧ page t t.regs (s.rot.set q r') s.keys ∧
        t.flag (Reg.rotStat q) 0 = true) ∧
      (r'.left = 0 → ∃ t, exec (.cxlSweepPage q) s = .next t ∧
        page t t.regs (s.rot.del q) (s.keys.del (2 * q + (1 - s.fld (Reg.rotStat q) 1 1))) ∧ t.flag (Reg.rotStat q) 0 = false))

/-- The trigger of a slice reaches every engine whose entry is due and no other: a context that the slice names keeps its
engine; a switch under way is replaced, or ends where the later slice runs nothing; otherwise a switch begins. At its
deadline, which a run-out or a replay puts off, the outgoing context stops and the engine waits for the incoming one, or
stands idle where the slice has none; an entry gives the context the engine and ends the switch, and begins the load of its
recorded block where another is resident. Memories stand. That
a deadline comes as a row, and what a replay puts off, are the model's choices (log entries 11, 61). -/
def Obligations.SlicesSwitchContexts : Prop :=
  ∀ (s : State) (k : Fin 8) (now : W64) (p : PhysE) (c : Place) (w : Switch),
    let sn := s.at_ now
    let e := s.engine p
    let out := (w.stopped || s.runsOut p w || s.replayKeeps p)
    (s.slicing = true → s.slicePeriod ≠ 0 → s.sched.a ≤ now.toNat →
      now.toNat < s.sched.a + (s.slicePeriod - s.sched.s) + s.sched.d → ∃ t, exec (.sliceTrigger k now) s = .next t ∧
        t = { s with time := sn.time, sched := t.sched, eng := t.eng } ∧
        ∀ j, j < 52 →
          let v := s.sliceEnt j k
          let at_ := sn.triggerAt (seStart v)
          let f := s.engine j
          if sn.sliceDue j k now.toNat then
            match f.switch with
            | some w => t.engine j =
                if w.stopped = true ∧ s.sliceRuns j k = false then { f with last := some k.val, slice := some k.val, switch := none }
                else { f with last := some k.val, switch := some { w with slice := k, trigger := at_ } }
            | none =>
              if seIdle v = false ∧ f.holder = some (seCtx v) then t.engine j = { f with last := some k.val, slice := some k.val }
              else
                t.engine j = { f with
                  last := some k.val, ctx := (t.engine j).ctx
                  switch := some { slice := k, trigger := at_, since := at_, stopped := false
                                   seg := match f.holder with | some c => (s.ctx j c).segNo | none => 0 } } ∧
                ∀ c, t.ctx j c = if f.holder = some c then { s.ctx j c with waited := false } else s.ctx j c
          else t.engine j = f) ∧
    (e.switch = some w → out = true → exec (.switchDeadline p) s = .next s) ∧
    (e.switch = some w → out = false → e.holder = some c.val → (s.ctx p c).st = .running → seCtx (s.sliceEnt p w.slice) ≠ c →
      ∃ t, exec (.switchDeadline p) s = .next t ∧ t = { s with eng := t.eng } ∧
        (if s.sliceRuns p w.slice then
          t.engine p = { e with holder := none, switch := some { w with stopped := true }, ctx := (t.engine p).ctx }
        else t.engine p = { e with holder := none, switch := none, slice := some w.slice, ctx := (t.engine p).ctx }) ∧
        t.ctx p c = { s.ctx p c with st := .waiting, held := false } ∧ ∀ j, j ≠ c → t.ctx p j = s.ctx p j) ∧
    ((s.ctx p c).st = .ready ∨ (s.ctx p c).st = .waiting → (s.ctx p c).going = false →
      s.resetting (s.ctx p c).part = false → e.idleUnits = true → (s.ctx p c).cur.block = none →
      (e.switch = none → s.slicing = false → e.holder = none →
        ∃ t, exec (.contextEntry p c now) s = .next t ∧ t = { s with time := sn.time, eng := t.eng } ∧
          t.engine p = { e with holder := some c, ctx := (t.engine p).ctx } ∧ t.ctx p c = { s.ctx p c with st := .running } ∧
          ∀ j, j ≠ c → t.ctx p j = s.ctx p j) ∧
      (e.switch = some w → w.stopped = true → seCtx (s.sliceEnt p w.slice) = c → seIdle (s.sliceEnt p w.slice) = false →
        ∃ t, exec (.contextEntry p c now) s = .next t ∧
          t = { s with time := sn.time, eng := t.eng, sched := t.sched, regs := t.regs, recBuf := t.recBuf, recLost := t.recLost } ∧
          t.engine p = { e with holder := some c, slice := some w.slice, switch := none, ctx := (t.engine p).ctx } ∧
          t.ctx p c = { s.ctx p c with st := .running } ∧ (∀ j, j ≠ c → t.ctx p j = s.ctx p j) ∧
          regsBut s t [Reg.sliceLate] ∧ (s.overrun w.trigger now.toNat = 0 → t.sched = s.sched ∧ t.regs = s.regs))) ∧
    (∀ r, (s.ctx p c).st = .ready ∨ (s.ctx p c).st = .waiting → (s.ctx p c).going = false → s.resetting (s.ctx p c).part = false →
      e.idleUnits = true → e.switch = none → s.slicing = false → e.holder = none → (s.ctx p c).cur.block = some r →
      (s.ctx p c).mPend.any (fun o => o.kind == .loadw) = false → e.blockIs c r = false →
      ∃ t, exec (.contextEntry p c now) s = .next t ∧ t = { s with time := sn.time, eng := t.eng } ∧
        t.engine p = { e with holder := some c, ctx := (t.engine p).ctx, mLoad := (t.engine p).mLoad, reloading := true } ∧
        (∃ o, (t.engine p).mLoad = some (o, ⟨s.readBlock p c (s.sandBytes p c r.ld 64), c, r⟩) ∧ o.kind = .loadw ∧ o.ctx = c) ∧
        t.ctx p c = { s.ctx p c with st := .running } ∧ ∀ j, j ≠ c → t.ctx p j = s.ctx p j)

/-! ## Partitions -/

/-- A partition that is enabled takes fresh keys and begins the clearing of its Loam; a disabled one loses its keys; a reset
begins with RESETTING. When the zeroing ends every byte of the partition's Loam reads 0 and every other byte what it read, and
the partition's epoch slots are FREE (log entry 130); a completed reset frees the contexts, closes the Tilth contexts and
completes the descriptors of the partition. What a reset completes and when a zeroing takes effect are the model's readings (log
entries 59, 60). -/
def Obligations.PartitionsAreClearedBetweenUses : Prop :=
  ∀ (s : State) (q : PartId),
    let lo := s.fld (Reg.partMem q) 9 0 * 2 ^ 30
    let n := s.fld (Reg.partMem q) 19 10 * 2 ^ 30
    let ring0 := s.fld (Reg.partRing q) 11 0
    (s.takesWrite (Reg.partCtl q) 4 1 → s.partOn q = false → ∃ t, exec (.partitionEnable q) s = .next t ∧
      t.partOn q = true ∧ t.resetting q = true ∧ t.flag (Reg.sealStat q) 1 = true ∧ (t.partx q).clearing = some .enable ∧
      Tab.get [] t.keys (2 * q) = drawKeys s.fresh 2 ∧ Tab.get [] t.keys (2 * q + 1) = drawKeys (s.fresh + 2) 2 ∧
      t.fresh = s.fresh + 4 ∧
      regsBut s t [Reg.partCtl q, Reg.rotStat q, Reg.sealStat q] ∧ t.eng = s.eng ∧ t.loam = s.loam) ∧
    (s.takesWrite (Reg.partCtl q) 4 0 → s.partOn q = true → ∃ t, exec (.partitionDisable q) s = .next t ∧
      t.partOn q = false ∧ (∀ kv ∈ t.keys, kv.1 ≠ 2 * q.val ∧ kv.1 ≠ 2 * q.val + 1) ∧
      regsBut s t [Reg.partCtl q, Reg.rotStat q] ∧ t.eng = s.eng ∧ t.loam = s.loam) ∧
    (s.takesWrite (Reg.partCtl q) 4 3 → s.partOn q = true → ∃ t, exec (.partitionReset q) s = .next t ∧
      t.resetting q = true ∧ (t.partx q).clearing = some .reset ∧ t.partOn q = true ∧ regsBut s t [Reg.partCtl q] ∧
      t.eng = s.eng ∧ t.loam = s.loam ∧ t.keys = s.keys) ∧
    ((s.partx q).clearing = some .enable → ∃ t, exec (.loamZeroingComplete q) s = .next t ∧
      (∀ a, lo ≤ a → a < lo + n → t.loamBytes a 1 = [0]) ∧
      (∀ a, (a < lo ∨ lo + n ≤ a) → t.loamBytes a 1 = s.loamBytes a 1) ∧
      (∀ k, k < 4 → t.epState k = if s.fld (Reg.epsStat k) 5 3 = q.val then 0 else s.epState k) ∧
      t.resetting q = false ∧ (t.partx q).clearing = none ∧ t.clay = s.clay ∧ t.eng = s.eng) ∧
    ((s.partx q).clearing = some .reset →
      (∀ pc ∈ s.residents q, (s.ctx pc.1 pc.2).xfers = [] ∧ (s.engine pc.1).mLoad = none ∧ (s.engine pc.1).flights = []) →
      ∃ t, exec (.partitionResetComplete q) s = .next t ∧ t.resetting q = false ∧ (t.partx q).clearing = none ∧
        (t.partx q).resets = (s.partx q).resets + 1 ∧ (∀ pc ∈ s.residents q, t.ctx pc.1 pc.2 = {}) ∧
        (∀ j, s.fld (Reg.partTilth q) 19 0 ≤ j → j < s.fld (Reg.partTilth q) 19 0 + s.fld (Reg.partTilth q) 40 20 →
          t.sendHalf j = {} ∧ t.recvHalf j = {}) ∧
        (∀ r, ring0 ≤ r → r < ring0 + s.fld (Reg.partRing q) 24 12 → ∀ d ∈ (t.ring r).fetched, d.status ≠ none) ∧
        t.reg (Reg.dglHead q) = 0 ∧ t.reg (Reg.dglTail q) = 0 ∧ t.loam = s.loam)


/-! ## Setup registers -/

/-- A write of a listed register that no rule refuses takes its effect, and one that the register's rule or a retired engine's
window refuses changes nothing but the setup block's records; so does one that the write path itself refuses, by the setup
policy, before READY or in a restart, and one of another size or alignment than the register's. A write to an offset that the
map does not list does nothing, nor does one in a disabled engine's window. A plain register then holds the fields written,
which TOKWD shows. The request buffer of the mailbox takes 4 and 8 bytes anywhere in it, and its response buffer and the PBA
keep what they hold. A dword of an MSI-X table holds what was written to it on PF0 and, from READY, on an enabled VF, which has
no registers beside. A 32-bit read of the low half of a wide register answers it and latches the high half, which the read of
the high half answers and clears; a narrow register is answered without a latch. What is refused and the one latch of PF0 are
the model's readings (log entries 9, 39, 42, 94). -/
def Obligations.RegisterAccessesTakeEffect : Prop :=
  ∀ (s : State) (off : BitVec 26) (v : W64) (r : RegAt) (p : PhysE) (c : Place),
    let a := off.toNat
    let stage := s.fld Reg.bootStat 3 0
    let plain := ¬ (0xC1000 ≤ a ∧ a < 0xC3000) ∧ ¬ (0x1D000 ≤ a ∧ a < 0x1D040) ∧ ¬ (0x1E000 ≤ a ∧ a < 0x20000)
    let health := match windowOf a with | some p => s.fld (Reg.engHealth p) 2 0 | none => 0
    let closed := s.pathRefused .host a (gauntletRegs.contains r.off)
    let write := fun (n : Nat) => exec (.registerWrite (.func 0) off n v) s
    s.boot.hostDown = false →
    (regAt a = some r → r.row.wide = true → r.byte = 0 → exec (.halfReadLatch 0 off) s = .next
      { s with latch := s.latch.set r.off (BitVec.ofNat 32 (s.readReg r / 2 ^ 32))
               out := s.out ++ [.readData 0 (BitVec.ofNat 32 (s.readReg r))] }) ∧
    (regAt a = some r → r.row.wide = true → r.byte = 4 → exec (.halfReadLatch 0 off) s = .next
      { s with latch := s.latch.del r.off
               out := s.out ++ [.readData 0 (Tab.get (BitVec.ofNat 32 (s.readReg r / 2 ^ 32)) s.latch r.off)] }) ∧
    (regAt a = some r → r.row.wide = false → exec (.halfReadLatch 0 off) s = .next
      { s with out := s.out ++ [.readData 0 (BitVec.ofNat 32 (s.readBar0 a 4))] }) ∧
    (plain → regAt a = some r → r.byte = 0 → closed = false → write r.row.size = .next (
      if health = 5 then s
      else if health = 4 ∨ s.regRefused false r v.toNat = true then s.refuseSetup
      else s.regWrite r v.toNat)) ∧
    (plain → regAt a = some r → ∀ n, closed = true ∨ n ≠ r.row.size ∨ r.byte ≠ 0 →
      write n = .next (if health = 5 then s else s.refuseSetup)) ∧
    (plain → regAt a = none → ∀ n, write n = .next s) ∧
    (0xC1000 ≤ a → a < 0xC2000 → ∀ n, write n = .next (
      if s.pathRefused .host a true = true ∨ (n ≠ 4 ∧ n ≠ 8) ∨ 0xC2000 < a + n then s.refuseSetup
      else { s with gaunt := { s.gaunt with mbxReq := s.gaunt.mbxReq.store (a - 0xC1000) (leBytes n v.toNat) } })) ∧
    ((0xC2000 ≤ a ∧ a < 0xC3000) ∨ (0x1D000 ≤ a ∧ a < 0x1D040) → ∀ n, write n = .next (
      if s.pathRefused .host a (decide (0xC2000 ≤ a)) = true ∨ (n ≠ 4 ∧ n ≠ 8) ∨ a % n ≠ 0 then s.refuseSetup else s)) ∧
    (0x1E000 ≤ a → a < 0x20000 → ∀ n, s.pathRefused .host a false = true ∨ (n ≠ 4 ∧ n ≠ 8) ∨ a % n ≠ 0 →
      write n = .next s.refuseSetup) ∧
    (∀ k, k < 2048 → s.pathRefused .host (0x1E000 + 4 * k) false = false → s.msixPend = [] →
      exec (.registerWrite (.func 0) (BitVec.ofNat 26 (0x1E000 + 4 * k)) 4 v) s = .next
        { s with msixTab := s.msixTab.set k (if k % 4 = 3 then v.setWidth 32 &&& 1 else v.setWidth 32) }) ∧
    (∀ (f : Func) (k : Nat), 0 < f.val → (s.partx (f.val - 1)).vf = true → k < 256 → s.msixPend = [] →
      exec (.registerWrite (.func f) (BitVec.ofNat 26 (4 * k)) 4 v) s = .next (
        if stage < 7 ∨ stage = 15 then s.refuseSetup
        else { s with msixTab := s.msixTab.set (2 ^ 16 * f + k) (if k % 4 = 3 then v.setWidth 32 &&& 1 else v.setWidth 32) }) ∧
      exec (.halfReadLatch f off) s = .next { s with out := s.out ++ [.readData f (BitVec.ofNat 32 (s.readVf f a))] }) ∧
    (s.takesWrite (Reg.tokwd p c) 4 v.toNat → v.toNat < 2 ^ 32 →
      ∃ t, exec (.registerWrite (.func 0) (BitVec.ofNat 26 (Reg.tokwd p c)) 4 v) s = .next t ∧
        t.fld (Reg.tokwd p c) 31 0 = v.toNat ∧ regsBut s t [Reg.tokwd p c] ∧ t = { s with regs := t.regs }) ∧
    s.refuseSetup = { s with recBuf := s.refuseSetup.recBuf, recLost := s.refuseSetup.recLost }

/-- DET_CTL, the self-test and the injections: an accepted write sets STRICT and LOCK, starts a self-test on the engines that
hold numbers (and the spares with SPARES), asks a running one to stop, or arms an injection; a self-test that ends leaves BUSY
0, DONE 1, FAIL 1 when an engine of it mismatched, and NPST_FAIL with the engines that did. That rows of their own write through
PF0 is the model's choice (log entry 40). -/
def Obligations.StrictModeSelfTestAndInjections : Prop :=
  ∀ (s : State) (p : PhysE) (strict lock spares : Bool) (v : W64),
    let only := fun (i : Instr) (offs : List Nat) (post : State → Prop) =>
      ∃ t, exec i s = .next t ∧ regsBut s t offs ∧ t.eng = s.eng ∧ t.loam = s.loam ∧ post t
    (s.takesWrite Reg.detCtl 4 (strict.toNat + 2 * lock.toNat) → only (.detCtlStrictWrite strict lock) [Reg.detCtl] (fun t =>
      t.strict = strict ∧ t.flag Reg.detCtl 1 = (s.flag Reg.detCtl 1 || lock))) ∧
    (s.takesWrite Reg.detCtl 4 (s.strict.toNat + 2) → only .detCtlLockSet [Reg.detCtl] (fun t =>
      t.strict = s.strict ∧ t.flag Reg.detCtl 1 = true)) ∧
    (s.takesWrite Reg.npstCtl 4 (1 + 2 * spares.toNat) → only (.npstStart spares false) [Reg.npstCtl, Reg.npstStat] (fun t =>
      t.flag Reg.npstStat 0 = true ∧ t.npstAbort = false ∧
      ∀ j, j < 52 → t.npstEng.getLsbD j = ((s.leOf j).isSome || (spares && s.flag Reg.spareSet j)))) ∧
    (s.takesWrite Reg.npstCtl 4 (4 + 2 * s.fld Reg.npstCtl 1 1) → s.flag Reg.npstStat 0 = true →
      only .npstAbort [Reg.npstCtl] (fun t => t.npstAbort = true)) ∧
    (s.flag Reg.npstStat 0 = true → s.libStaged = none →
      only (.selfTestEnd false []) [Reg.npstStat, Reg.npstFail, Reg.npstFirst] (fun t =>
        t.fld Reg.npstStat 3 0 = 2 ∧ t.reg Reg.npstFail = 0 ∧ t.reg Reg.npstFirst = 0)) ∧
    (s.flag Reg.npstStat 0 = true → ∀ fails : List TestFail,
      let fs := fails.filter (fun f => s.npstEng.getLsbD f.p)
      ∃ t, exec (.selfTestEnd false fails) s = .next t ∧ t.fld Reg.npstStat 3 0 = 2 + 4 * (fs != []).toNat ∧
        (∀ j, j < 52 → t.flag Reg.npstFail j = fs.any (fun f => f.p.val == j)) ∧ t.loam = s.loam) ∧
    (s.takesWrite (Reg.vecInj p) 8 v.toNat → only (.vecInjArm p v) [Reg.vecInj p] (fun t =>
      t.fld (Reg.vecInj p) 16 0 = bits v.toNat 16 0 ∧ t.flag (Reg.vecInj p) 17 = (s.flag (Reg.vecInj p) 17 && !v.getLsbD 17))) ∧
    (s.takesWrite (Reg.arrInj p) 8 v.toNat → only (.arrInjArm p v) [Reg.arrInj p] (fun t =>
      t.fld (Reg.arrInj p) 26 0 = bits v.toNat 26 0 ∧ t.flag (Reg.arrInj p) 27 = (s.flag (Reg.arrInj p) 27 && !v.getLsbD 27)))

/-- A switch request of the slot tables or of the switch tables pends; the swap turns the active copy over and clears the
request; it leaves the slot tables' inactive copy equal to the new active one, and the send halves whose path the new switch
tables do not hold valid fail over, no others. An engine set's reset, asked for by software or through Gauntlet, takes the
engines of MASK and begins with BUSY; when it ends those engines are clear, but for what a retired one's window shows, BUSY
reads 0, FAILED says whether an engine of the set failed, and an engine outside the set is untouched. What the inactive copy
holds after a swap is the model's reading (log entry 44). -/
def Obligations.TableSwapsAndEngineSetResets : Prop :=
  ∀ (s : State) (g : BitVec 3) (now : W64) (mask : BitVec 52),
    let begun := fun (t : State) => t.flag Reg.engsetRst 53 = true ∧ t.fld Reg.engsetRst 51 0 = mask.toNat ∧ t.engSet = mask ∧
      regsBut s t [Reg.engsetRst] ∧ t.eng = s.eng ∧ t.loam = s.loam
    (s.takesWrite Reg.slotCtl 4 1 → exec .slotSwitchRequest s = .next (s.setFld Reg.slotCtl 1 1 1)) ∧
    (s.flag Reg.slotCtl 1 = true → ∃ t, exec .slotTableSwap s = .next t ∧ t.slotCopy = 1 - s.slotCopy ∧
      t.flag Reg.slotCtl 1 = false ∧ (∀ k, k < 1024 → t.slotTable 0 k = t.slotTable 1 k ∧
        t.slotTable t.slotCopy k = s.slotTable (1 - s.slotCopy) k) ∧
      t = { s with regs := t.regs, slots := t.slots } ∧ regsBut s t [Reg.slotCtl]) ∧
    (s.takesWrite Reg.swCtl 4 (1 + 8 * g.toNat) → ∃ t, exec (.swSwitchRequest g) s = .next t ∧
      t.flag Reg.swCtl 1 = true ∧ t.fld Reg.swCtl 5 3 = g.toNat ∧ t.swAt = s.time.toNat ∧ t.swCopy = s.swCopy ∧
      regsBut s t [Reg.swCtl]) ∧
    (s.flag Reg.swCtl 1 = true → s.swapTime ≤ now.toNat → ∃ t, exec (.switchTableSwap now) s = .next t ∧
      ∃ u, u = { s with time := (s.at_ now).time, regs := u.regs } ∧ regsBut s u [Reg.swCtl] ∧
        u.swCopy = 1 - s.swCopy ∧ u.flag Reg.swCtl 1 = false ∧ t = u.failDown ∧ t.swtab = s.swtab ∧
        ((∀ x, u.pathDown (u.sendHalf x) = false) → t = u)) ∧
    (s.takesWrite Reg.engsetRst 8 (mask.toNat + 2 ^ 52) → (∀ p, (s.engine p).migrate = none) → s.audit = none →
      ∃ t, exec (.engsetReset (.func 0) mask) s = .next t ∧ begun t) ∧
    (s.boot.powered = true → s.gaunt.restarting = false → s.pathRefused .gauntlet Reg.engsetRst false = false →
      s.engsetRefused (mask.toNat + 2 ^ 52) = false → (∀ p, (s.engine p).migrate = none) → s.audit = none →
      ∃ t, exec (.engsetReset .gauntlet mask) s = .next t ∧ begun t) ∧
    (s.flag Reg.engsetRst 53 = true → (∀ p c, (s.ctx p c).resident = false) →
      ∃ t, exec (.engsetResetComplete 0) s = .next t ∧ t.flag Reg.engsetRst 53 = false ∧ t.flag Reg.engsetRst 54 = false ∧
        t.engSet = 0 ∧ ∀ p, p < 52 → t.engine p =
          if s.engSet.getLsbD p then (match (s.engine p).kept with | some k => { kept := some k } | none => {}) else s.engine p) ∧
    (∀ failed, s.flag Reg.engsetRst 53 = true → ∃ t, exec (.engsetResetComplete failed) s = .next t ∧
      t.flag Reg.engsetRst 53 = false ∧
      t.flag Reg.engsetRst 54 = (List.range 52).any (fun p => s.engSet.getLsbD p && failed.getLsbD p))


/-! ## Host rings -/

/-- A submission doorbell sets TAIL and a completion or event doorbell consumes entries; a value outside the ring sets ERR
and stops its fetching. A write that is not an aligned one of 32 bits does nothing, nor does one to a page that stands
for no ring. An enabled ring starts anew with phase 1; an event ring with entry 0 and phase 1. Other rings
stand. A full ring's doorbell and the details of a ring error are the model's (log entries 46, 47). -/
def Obligations.DoorbellsAndEnablesMoveTheirRing : Prop :=
  ∀ (s : State) (f : Func) (page : BitVec 13) (h : W32) (v : W64) (r e k : Nat) (er : Fin 9),
    let g := s.ring r
    let sel := s.fld Reg.ringSel 11 0
    let gs := s.ring sel
    let x := Tab.get ({} : EvRing) s.ev e
    let only := fun (i : Instr) (r : Nat) (g' : Ring) => ∃ t, exec i s = .next t ∧ t = { s with rings := t.rings } ∧
      t.ring r = g' ∧ ∀ j, j ≠ r → t.ring j = s.ring j
    (s.doorbellRing f page.toNat = some r → g.on = true →
      (h.toNat < g.size → only (.submissionDoorbell f page true h) r { g with tail := h.toNat }) ∧
      (g.size ≤ h.toNat → ∃ t, exec (.submissionDoorbell f page true h) s = .next t ∧ t.ring r = { g with err := true, stop := true }) ∧
      (h.toNat < g.size → consumed g.size g.cqtail g.unread h.toNat = some k →
        only (.completionDoorbell f page true h) r { g with unread := g.unread - k }) ∧
      (h.toNat < g.size → consumed g.size g.cqtail g.unread h.toNat = none → ∃ t,
        exec (.completionDoorbell f page true h) s = .next t ∧ t.ring r = { g with err := true, stop := true })) ∧
    (exec (.submissionDoorbell f page false h) s = .next s ∧ exec (.completionDoorbell f page false h) s = .next s ∧
      exec (.eventRingDoorbell f page false h) s = .next s) ∧
    (s.doorbellRing f page.toNat = none → ∀ word, exec (.submissionDoorbell f page word h) s = .next s ∧
      exec (.completionDoorbell f page word h) s = .next s) ∧
    (s.doorbellEvent f page.toNat = some e → s.flag (Reg.evrCfg e) 0 = true → h.toNat < 2 ^ s.fld (Reg.evrCfg e) 5 1 →
      consumed (2 ^ s.fld (Reg.evrCfg e) 5 1) (s.fld (Reg.evrStat e) 15 0) x.used h.toNat = some k →
      exec (.eventRingDoorbell f page true h) s = .next { s with ev := s.ev.set e { x with used := x.used - k } }) ∧
    (s.takesWrite Reg.ringCfg 8 v.toNat →
      (v.getLsbD 0 = true → only (.ringEnable v) sel { sqb := gs.sqb, cqb := gs.cqb, cfg := BitVec.ofNat 64 (v.toNat % 2 ^ 33), phase := true, err := gs.err }) ∧
      (v.getLsbD 0 = false → only (.ringDisable v) sel { gs with cfg := BitVec.ofNat 64 (v.toNat % 2 ^ 33) })) ∧
    (s.takesWrite (Reg.evrCfg er) 4 h.toNat → h.getLsbD 0 = true → ∃ t, exec (.eventRingEnable er h) s = .next t ∧
      t.flag (Reg.evrCfg er) 0 = true ∧ t.reg (Reg.evrStat er) = BitVec.ofNat 64 (2 ^ 16) ∧ (Tab.get {} t.ev er).used = 0 ∧
      regsBut s t [Reg.evrCfg er, Reg.evrStat er] ∧ t = { s with regs := t.regs, ev := t.ev })

/-- A descriptor is fetched at HEAD, starts in its turn, and completes at once when its header fails; a completion gives
its descriptor the status and changes nothing outside its ring; its entry is written to the host in ring order with the
ring's phase; the ring's interrupt is sent by its count and by its timer. NOP does nothing but complete. A read that fails,
or for a sealed partition comes outside its function's IDE stream, is a ring error. The ring of the module's own sequencers
takes their five commands and writes no completions. Which check comes first, what an interrupt counts and the sequencers'
ring are the model's readings and choice (log entries 48, 58, 140). -/
def Obligations.DescriptorsRunInRingOrder : Prop :=
  ∀ (s : State) (r : RingId) (bs : Bytes) (ide : Bool) (d : Desc) (ds : List Desc) (st dt : Nat) (dw : W64),
    let n := r.toNat
    let g := s.ring n
    let others := fun (t : State) => ∀ j, j ≠ n → t.ring j = s.ring j
    let fetches := fun (t : State) => t = { s with rings := t.rings, fresh := s.fresh + 1 } ∧ others t ∧ t.ring n =
      { g with head := (g.head + 1) % g.size, fetched := g.fetched ++ [{ idx := g.head, raw := fitBytes 64 bs, seq := s.fresh }] }
    let at_ := g.sqb.toNat + 64 * g.head
    let sealed := match s.ringPart n with | some q => s.sealedPart q | none => false
    (g.on = true → g.stop = false → n = intRing ∨ g.head ≠ g.tail → g.fetched.length + g.unread < g.size →
      (s.ringWindow n false at_ 64 = true → sealed = false ∨ ide = true →
        n = intRing → dfld (fitBytes 64 bs) 0 2 ∈ internalOps → ∃ t, exec (.descriptorFetch r (.got bs ide)) s = .next t ∧ fetches t) ∧
      (s.ringWindow n false at_ 64 = true → sealed = false ∨ ide = true →
        n ≠ intRing → ∃ t, exec (.descriptorFetch r (.got bs ide)) s = .next t ∧ fetches t) ∧
      (sealed = true → exec (.descriptorFetch r (.got bs false)) s = .next (s.ringError n 3)) ∧
      (∀ k, exec (.descriptorFetch r (.failed k)) s = .next (s.ringError n 3))) ∧
    (g.startable = some d → g.headerFails d = none →
      exec (.descriptorStart r) s = .next (s.modDesc n d.idx (fun e => { e with started := true }))) ∧
    (g.startable = some d → g.headerFails d = some (st, dt) →
      exec (.descriptorStart r) s = .next ((s.modDesc n d.idx (fun e => { e with started := true })).finish n d st dt)) ∧
    (let t := s.finish n d st dt
     t = { s with rings := t.rings } ∧ others t ∧ t.ring n = { g with fetched := g.fetched.map (fun e => if e.idx = d.idx then
      { e with ran := true, status := (match e.status with | some x => some x | none => some (st, BitVec.ofNat 64 dt)) } else e) }) ∧
    (s.cmd n 0x01 = some d → exec (.nop r) s = .next (s.finish n d 0 0)) ∧
    (n = intRing → g.fetched = d :: ds → d.status = some (st, dw) →
      exec (.completionWrite r true) s = .next (s.modRing n (fun g => { g with fetched := ds }))) ∧
    (n ≠ intRing → g.fetched = d :: ds → d.status = some (st, dw) → s.ringWindow n true (g.cqb.toNat + 16 * g.cqtail) 16 = true →
      ∃ t, exec (.completionWrite r true) s = .next t ∧ t = { s with rings := t.rings, out := t.out } ∧ others t ∧
        t.out = s.out ++ [.hostWrite (BitVec.ofNat 64 (g.cqb.toNat + 16 * g.cqtail)) ((d.raw.drop 4).take 4 ++ leBytes 2 d.idx ++
          leBytes 1 st ++ leBytes 1 g.phase.toNat ++ leBytes 8 dw.toNat) (s.ringIde n)] ∧
        t.ring n = { g with fetched := ds, cqtail := (g.cqtail + 1) % g.size, unread := g.unread + 1, since := g.since + 1
                            phase := (if g.cqtail + 1 = g.size then !g.phase else g.phase) }) ∧
    (let f := match s.ringPart n with | some q => s.funcOf q | none => 0
     let vec := bits g.cfg.toNat 16 8
     (bits g.cfg.toNat 24 17 ≠ 0 → bits g.cfg.toNat 24 17 ≤ g.since →
      exec (.msixInterrupt r false) s = .next ((s.modRing n (fun g => { g with since := 0 })).interrupt f vec)) ∧
     (bits g.cfg.toNat 32 25 ≠ 0 → 0 < g.since →
      exec (.msixInterrupt r true) s = .next ((s.modRing n (fun g => { g with since := 0 })).interrupt f vec)) ∧
     (vec < (if f = 0 then 512 else 64) → s.msixMasked f vec = false → s.interrupt f vec = { s with out := s.out ++ [.msix f vec] }))

/-- COPY stores the host's bytes at its range, in Loam at their place and no other byte; COPY to the host writes the range out
and stores nothing, and where the tier's read meets an uncorrectable error it completes with BOUND and moves nothing; a read of
the host that fails completes with the address of the request that failed, and for a sealed partition so does one that comes
outside its IDE stream; TOKEN enters the target's HOST queue, and with ACKSEG does not complete yet; STREAM becomes the target's
next stream, 64 words of it in its instruction queue; a frame of the host enters the queue of its egress with the module's
source address, but a Tilth frame is discarded and counted; and a receive buffer is posted. Which status and detail a bad COPY
gets, and that an epoch slot's region keeps its bytes, are the model's readings (log entries 49, 50, 57, 122, 123). -/
def Obligations.RingCommandsMoveHostData : Prop :=
  ∀ (s : State) (r : RingId) (d : Desc) (bs : Bytes) (ide : Bool) (p c : Nat),
    let n := r.toNat
    let haddr := dfld d.raw 8 8
    let ga := dfld d.raw 16 8
    let buf := dfld d.raw 16 8
    let len := dfld d.raw 24 8
    let up := bit (dfld d.raw 32 1) 0
    let e := 2 * (dfld d.raw 8 1 % 16) + dfld d.raw 8 1 / 16 % 2
    let tok : Tok := BitVec.ofNat 16 (dfld d.raw 10 2)
    let sealed := match s.ringPart n with | some q => s.sealedPart q | none => false
    let runs := fun (t : State) => t.rings = (s.modDesc n d.idx (fun d => { d with ran := true })).rings
    (s.cmd n 0x02 = some d → s.copyFails n d = none →
      (up = true → exec (.copy r (.got bs ide) .ok) s = .next
        ((s.emit (.hostWrite (BitVec.ofNat 64 haddr) (s.rangeRead (gaTier ga) (gaOff ga) len) (s.ringIde n))).finish n d 0 0)) ∧
      (up = true → ∀ k also, ∃ t, exec (.copy r (.got bs ide) (.uncorrectable k also)) s = .next t ∧
        t.rings = (s.finish n d 4 (s.ownId * 2 ^ 47 + gaTier ga * 2 ^ 44 + sectorAt (gaTier ga) (gaOff ga) len k)).rings ∧
        t = { s with rings := t.rings, regs := t.regs, recBuf := t.recBuf, recLost := t.recLost }) ∧
      (up = false → ∀ k err, exec (.copy r (.failed k) err) s = .next (s.finish n d 0x12 (haddr + k))) ∧
      (up = false → sealed = true → ∀ err, exec (.copy r (.got bs false) err) s = .next (s.finish n d 0x12 haddr)) ∧
      (up = false → sealed = false ∨ ide = true → exec (.copy r (.got bs ide) .ok) s = .next ((s.rangeStore (gaTier ga) (gaOff ga) (fitBytes len bs)).finish n d 0 0)) ∧
      (up = false → sealed = false ∨ ide = true → gaTier ga = 2 → bs.length = len → s.loam.wf = true → s.epochMeets (gaOff ga) len = false →
        ∃ t, exec (.copy r (.got bs ide) .ok) s = .next t ∧
        t.rings = (s.finish n d 0 0).rings ∧ t = { s with loam := t.loam, rings := t.rings } ∧
        t.loamBytes (gaOff ga) len = bs ∧
        ∀ a, (a < gaOff ga ∨ gaOff ga + len ≤ a) → t.loamBytes a 1 = s.loamBytes a 1)) ∧
    (s.cmd n 0x03 = some d → tokClass tok = 4 → s.target n (dfld d.raw 8 1) = some (p, c) → (s.ctx p c).hostRoom = true →
      let ack := bit (dfld d.raw 9 1) 0
      (ack = true → (s.ctx p c).st ≠ .halted) → ∃ t, exec (.token r) s = .next t ∧
        (if ack then runs t else t.rings = (s.finish n d 0 0).rings) ∧
        CtxOnly s { t with rings := s.rings } p c { s.ctx p c with
          queue := (s.ctx p c).queue.set 4 ((s.ctx p c).tokens 4 ++ [tok])
          hostTags := (s.ctx p c).hostTags ++ [if ack then .ack n d.idx else .plain] }) ∧
    (let m := dfld d.raw 24 4
     s.cmd n 0x04 = some d → m % 8 = 0 → 24 ≤ m → m ≤ 65552 → s.ringWindow n false buf m = true →
      s.target n (dfld d.raw 8 1) = some (p, c) → s.flag (Reg.imemShare p c) 9 = false → (s.ctx p c).ringStream = none →
      (s.ctx p c).stream = none → sealed = false ∨ ide = true → ∃ t, exec (.stream r (.got bs ide)) s = .next t ∧ runs t ∧
        CtxOnly s { t with rings := s.rings } p c { s.ctx p c with
          ringStream := some ⟨n, d.idx, m, (fitBytes m bs).drop 512⟩, iq := (fitBytes m bs).take 512 }) ∧
    (let m := dfld d.raw 10 2
     s.cmd n 0x0F = some d → 60 ≤ m → m ≤ 4196 → s.ringWindow n false buf m = true → s.flag Reg.hvpCfg 0 = true →
      s.idValid = true → s.hvpQueued + m ≤ 262144 → bs.length = m → (∀ x ∈ udpPort bs, x.1 ≠ s.fld Reg.tilthCfg 15 0) →
      sealed = false ∨ ide = true → ∃ t, exec (.frameTx r (.got bs ide)) s = .next t ∧ runs t ∧
        t.egQueue e 20 = s.egQueue e 20 ++ [bs.take 6 ++ s.srcMac 0x20 ++ bs.drop 12] ∧ t.eng = s.eng ∧ t.loam = s.loam) ∧
    (let m := dfld d.raw 10 2
     s.cmd n 0x0F = some d → 60 ≤ m → m ≤ 4196 → s.ringWindow n false buf m = true → s.flag Reg.hvpCfg 0 = true →
      s.idValid = true → bs.length = m → sealed = false ∨ ide = true → ∀ x, udpPort bs = some x → x.1 = s.fld Reg.tilthCfg 15 0 →
      exec (.frameTx r (.got bs ide)) s = .next ((s.bump Reg.tilthBadhdr 1).finish n d 0 0)) ∧
    (let m := dfld d.raw 24 2
     s.cmd n 0x10 = some d → 4196 ≤ m → s.ringWindow n true buf m = true → ∃ t, exec (.frameRx r) s = .next t ∧ runs t ∧
        t.hvpRx = insertBuf ⟨n, d.idx, BitVec.ofNat 64 buf, m, d.seq⟩ s.hvpRx ∧ t = { s with rings := t.rings, hvpRx := t.hvpRx })

/-- A context load that fails a check of its image changes nothing; one that passes leaves the place resident in the
ring's partition, with copy A active and the Sand share of the image. An unload frees the place. SETUP writes its register
or is refused. A slot table, an entry of a switch table that is in range, and the halves of a Tilth context are loaded as
given, into the inactive copies; a slot or an entry out of range refuses the load. The
sequencers' own ring runs the table loads and the register writes too, as closed to software as they are. A read of the image
that fails loads nothing. The order of the checks, and what a field out of range that no check names does, are the model's
(log entries 51 to 54, 134, 140). -/
def Obligations.RingCommandsLoadContextsAndTables : Prop :=
  ∀ (s : State) (r : RingId) (d : Desc) (f b data : Bytes) (ide : Bool) (p q c code : Nat) (x : RegAt) (t' : State),
    let n := r.toNat
    let fails := fun (i : Instr) (st dt : Nat) => exec i s = .next (s.finish n d st dt)
    let reads := (match s.ringPart n with | some q => s.sealedPart q | none => false) = false ∨ ide = true
    let loads := s.cmd n 0x05 = some d ∧ s.ringWindow n false (dfld d.raw 16 8) (dfld d.raw 24 8) = true ∧
      s.ringWindow n false (dfld d.raw 32 8) 64 = true ∧ s.flag Reg.npstStat 0 = false ∧ s.loadCase n (dfld d.raw 8 1) = none ∧
      s.ringPart n = some q ∧ s.physOf (dfld d.raw 8 1 % 64) = some p ∧ c = dfld d.raw 8 1 / 64 % 4
    (loads → reads → s.imageFails q f d.raw (dfld d.raw 24 8) = some code → fails (.ctxLoad r (.got f ide) (.got b ide)) 0x10 code) ∧
    (loads → ∀ k x, fails (.ctxLoad r (.failed k) x) 0x12 (dfld d.raw 16 8 + k)) ∧
    (loads → reads → s.loadCtx n d f b = .inl t' → ∃ t, exec (.ctxLoad r (.got f ide) (.got b ide)) s = .next t ∧
      (t.ctx p c).resident = true ∧ (t.ctx p c).part = q ∧ (t.ctx p c).copyA = .active ∧ t.loam = s.loam ∧
      t.sandShare p c = (4096 * (dfld d.raw 12 2 % 4096), 4096 * (dfld f 40 4 / 4096 % 4096)) ∧
      (s.audit = none → ∀ j, j ≠ p → t.engine j = s.engine j)) ∧
    (s.cmd n 0x06 = some d → s.ringPart n = some q → s.target n (dfld d.raw 8 1) = some (p, c) → (s.ctx p c).xfers = [] →
      (s.engine p).mLoad = none → (s.engine p).flights = [] → ∃ t, exec (.ctxUnload r) s = .next t ∧ t.ctx p c = {} ∧ t.loam = s.loam ∧
        ∀ j, j ≠ p → t.engine j = (s.dropAudit p c).engine j) ∧
    (let wide := bit (dfld d.raw 12 1) 0
     let v := if wide then dfld d.raw 16 8 else dfld d.raw 16 8 % 2 ^ 32
     s.cmd n 0x07 = some d → regAt (dfld d.raw 8 4) = some x → x.byte = 0 → x.row.size = (if wide then 8 else 4) →
     ¬ (0xC1000 ≤ dfld d.raw 8 4 ∧ dfld d.raw 8 4 < 0xC3000) →
      ¬ (0x1D000 ≤ dfld d.raw 8 4 ∧ dfld d.raw 8 4 < 0x20000) →
      s.pathRefused (if n = intRing then .sequencer else .setup) (dfld d.raw 8 4) (gauntletRegs.contains x.off) = false → v < 2 ^ 64 →
      let health := match windowOf (dfld d.raw 8 4) with | some p => s.fld (Reg.engHealth p) 2 0 | none => 0
      exec (.setup r) s = .next (
        if health = 5 then s.finish n d 0 0
        else if health = 4 ∨ s.regRefused false x v = true then s.refuseSetup.finish n d 3 6
        else (s.regWrite x v).finish n d 0 0)) ∧
    (let chan := dfld d.raw 8 2
     let m := dfld d.raw 24 2
     let ws : List W32 := (List.range m).map (fun i => BitVec.ofNat 32 (dfld data (4 * i) 4))
     let copy := 1 - s.slotCopy
     let u := { s with slots := s.slots.set (1024 * copy + chan) ws }
     s.cmd n 0x08 = some d → chan < 838 → 0 < m → m ≤ 1024 → s.ringWindow n false (dfld d.raw 16 8) (4 * m) = true → reads →
      (u.firstBadSlot copy chan 0 (refreshEnd chan) 0 (validSlots ws) = none →
        exec (.slotLoad r (.got data ide)) s = .next (u.finish n d 0 0)) ∧
      (∀ i, u.firstBadSlot copy chan 0 (refreshEnd chan) 0 (validSlots ws) = some i →
        fails (.slotLoad r (.got data ide)) 8 (chan + i * 2 ^ 32))) ∧
    (let first := dfld d.raw 12 4
     let table := dfld d.raw 8 1
     let size := (swShape table).1
     s.cmd n 0x09 = some d → table < 5 → dfld d.raw 24 4 = 1 → first < (swShape table).2 →
      s.ringWindow n false (dfld d.raw 16 8) size = true → data.length = size → reads →
      (s.swEntryBad table first data = true → fails (.swtabLoad r (.got data ide)) 8 (table + first * 2 ^ 32)) ∧
      (s.swEntryBad table first data = false → table ≠ 2 → table ≠ 3 → ∃ t, exec (.swtabLoad r (.got data ide)) s = .next t ∧
        t = { s with rings := (s.finish n d 0 0).rings, swtab := s.swtab.set (swKey (1 - s.swCopy) table 0 first) data })) ∧
    (let k := dfld d.raw 8 4
     let lo := s.fld (Reg.partTilth q) 19 0
     s.cmd n 0x0A = some d → (s.ringPart n = some q ∧ lo ≤ k ∧ k < lo + s.fld (Reg.partTilth q) 40 20) ∨ n = intRing → dfld d.raw 12 1 = 3 →
      (recvOf (dfld d.raw 32 16)).rstate < 2 → (recvOf (dfld d.raw 32 16)).kind < 6 → (s.recvHalf k).rstate = 0 →
      (s.sendHalf k).sstate = 0 → ∃ t, exec (.tilthLoad r) s = .next t ∧ t.sendHalf k = sendOf (dfld d.raw 16 16) ∧
        t.recvHalf k = recvOf (dfld d.raw 32 16) ∧ (∀ j, j ≠ k → t.sendHalf j = s.sendHalf j ∧ t.recvHalf j = s.recvHalf j) ∧
        t = { s with send := t.send, recv := t.recv, rings := (s.finish n d 0 0).rings })

/-- A request's record is written at its list slot and the request waits; an admission batch waits for its token, which enters
the admitting context's HOST queue with its switch; an epoch load makes a free slot LOADING with its expected records, and READY
at once when none is expected; an epoch switch makes a READY slot CURRENT and the slot before it DRAINING, or FREE when no entry
holds it; a switch to the CURRENT slot changes nothing; under STRICT = 1, or for a slot that is neither, it is refused. The
order of the checks, when a batch's token enters and that the owner of a load from the sequencers' ring is the partition of its
region are the model's readings and choice (log entries 55, 56, 140). -/
def Obligations.RingCommandsDriveRolloutsAndEpochs : Prop :=
  ∀ (s : State) (r : RingId) (d : Desc) (q p c : Nat),
    let n := r.toNat
    let done := fun (t : State) => t.rings = (s.finish n d 0 0).rings
    let mine := s.ringPart n = some q
    let owner := fun (dest : Nat) => if n = intRing then (List.range 8).find? (fun q => s.ownsLoam q dest 1) else s.ringPart n
    (let seq : W64 := BitVec.ofNat 64 (dfld d.raw 8 8)
     let m := s.fld (Reg.rollReq q) 44 40
     let slot := seq.toNat % 2 ^ m
     let a := s.fld (Reg.rollReq q) 39 12 * 4096 + 64 * slot
     let rs := Tab.get [] s.reqs q
     mine → s.cmd n 0x0B = some d → 6 ≤ m → m ≤ 16 → s.reg (Reg.rollHead q) ≤ seq → (∀ x ∈ rs, x.seq ≠ seq ∧ x.slot ≠ slot) →
      s.ownsLoam q a 64 = true → s.epochMeets a 64 = false → s.loam.wf = true → d.raw.length = 64 →
        ∃ t, exec (.request r) s = .next t ∧ done t ∧
        Tab.get [] t.reqs q = rs ++ [⟨seq, slot⟩] ∧
        t.loamBytes a 64 = leBytes 8 seq.toNat ++ (d.raw.drop 16).take 8 ++ List.replicate 16 0 ++ (d.raw.drop 24).take 32 ∧
        (∀ b, (b < a ∨ a + 64 ≤ b) → t.loamBytes b 1 = s.loamBytes b 1) ∧ t.regs = s.regs ∧ t.eng = s.eng) ∧
    (s.cmd n 0x0C = some d → s.admitter n = some (p, c) →
      exec (.admitBatch r) s = .next (s.modDesc n d.idx (fun d => { d with ran := true }))) ∧
    (mine → (s.ring n).fetched.find? (fun d => d.ran && d.status.isNone && d.op == 0x0C) = some d → s.admitter n = some (p, c) →
      let sw := bit (dfld d.raw 10 1) 0
      let slot := dfld d.raw 10 1 / 2 % 4
      (s.ctx p c).hostRoom = true → (sw = true → (s.epState slot = 2 ∨ s.epState slot = 3) ∧ s.fld (Reg.epsStat slot) 5 3 = q) →
        ∃ t, exec (.admitBatchTokenEntry r) s = .next t ∧ done t ∧
        CtxOnly s { t with rings := s.rings } p c { s.ctx p c with
          queue := (s.ctx p c).queue.set 4 ((s.ctx p c).tokens 4 ++ [mkTok 4 (dfld d.raw 8 2)])
          hostTags := (s.ctx p c).hostTags ++ [.batch (if sw then some slot else none)] }) ∧
    (let e := dfld d.raw 8 1
     let key := dfld d.raw 9 1
     let k := dfld d.raw 36 4
     let id : W64 := BitVec.ofNat 64 (dfld d.raw 16 8)
     owner (dfld d.raw 40 8) = some q → s.cmd n 0x0D = some d → e < 4 → q < 8 → s.epState e = 0 → dfld d.raw 40 8 % 65536 = 0 →
      s.epochMeets (dfld d.raw 40 8) (k * 65536) = false → s.ownsLoam q (dfld d.raw 40 8) (k * 65536) = true → 16 ≤ key →
        key ≤ 23 → (s.keys.any (fun x => x.1 == key)) = true →
      (key, ⟨BitVec.ofNat 64 (dfld d.raw 24 8), id, q⟩) ∈ s.gcmTag → 0 < k → ∃ t, exec (.epochLoad r) s = .next t ∧ done t ∧
        t.epState e = 1 ∧ t.fld (Reg.epsStat e) 5 3 = q ∧ t.fld (Reg.epsStat e) 27 8 = 0 ∧ t.reg (Reg.epsId e) = id ∧
        t.fld (Reg.epsProg e) 63 32 = k ∧ regsBut s t [Reg.epsStat e, Reg.epsId e, Reg.epsProg e] ∧
        (Tab.get {} t.eps e).key = key ∧ (Tab.get {} t.eps e).got = [] ∧ t.loam = s.loam) ∧
    (let e := dfld d.raw 8 1
     let key := dfld d.raw 9 1
     let id : W64 := BitVec.ofNat 64 (dfld d.raw 16 8)
     owner (dfld d.raw 40 8) = some q → s.cmd n 0x0D = some d → e < 4 → q < 8 → s.epState e = 0 → dfld d.raw 40 8 % 65536 = 0 →
      dfld d.raw 36 4 = 0 →
      s.epochMeets (dfld d.raw 40 8) 0 = false → s.ownsLoam q (dfld d.raw 40 8) 0 = true → 16 ≤ key → key ≤ 23 →
      (s.keys.any (fun x => x.1 == key)) = true → (key, ⟨BitVec.ofNat 64 (dfld d.raw 24 8), id, q⟩) ∈ s.gcmTag →
      ∃ t, exec (.epochLoad r) s = .next t ∧ t.epState e = 2 ∧
        t.fld (Reg.epsStat e) 5 3 = q ∧ t.reg (Reg.epsId e) = id ∧ t.loam = s.loam) ∧
    (let e := dfld d.raw 8 1
     let old := s.currentSlot q
     mine → s.cmd n 0x0E = some d → e < 4 →
      (s.strict = true → exec (.epochSwitch r) s = .next (s.finish n d 0x0B 0)) ∧
      (s.strict = false → (s.epState e ≠ 2 ∧ s.epState e ≠ 3) ∨ s.fld (Reg.epsStat e) 5 3 ≠ q →
        exec (.epochSwitch r) s = .next (s.finish n d 0x03 9)) ∧
      (s.strict = false → s.fld (Reg.epsStat e) 5 3 = q →
        (s.epState e = 3 → exec (.epochSwitch r) s = .next (s.finish n d 0 0)) ∧
        (s.epState e = 2 → ∃ t, exec (.epochSwitch r) s = .next t ∧ done t ∧ t.epState e = 3 ∧
          (∀ o, old = some o → t.epState o = if s.fld (Reg.epsStat o) 27 8 = 0 then 0 else 4) ∧
          regsBut s t (Reg.epsStat e :: old.toList.map Reg.epsStat) ∧ t.eng = s.eng ∧ t.loam = s.loam)))

/-! ## Power, clocks and starts -/

/-- A module reset, by MOD_RST#, by RESET over I3C, by the loss of input power or by a thermal trip, clears every memory, ring,
engine and key and puts every register but ENG_HEALTH, and SPARE_SET for a retired engine, to its reset value; the fuses, the
SVN and the copies in the store stand, and each area is what its valid copy of the higher sequence number holds, and each log
what batches have written, after the batch in progress where hold-up power completes it; the store has the loss or the trip.
Power-good begins a start at stage 0, warm when saved settings of this module are found, derives the secrets and closes the read
path of UDS. What survives a reset, what rows do without power, and how copies are kept are the model's readings (log entries
69, 70, 72, 126). -/
def Obligations.ModuleResetsKeepOnlyTheStore : Prop :=
  ∀ (s : State) (sensor : Byte),
    let cleared := fun (u t : State) => t.eng = [] ∧ t.loam = [] ∧ t.clay = [] ∧ t.cxl0 = [] ∧ t.cxl1 = [] ∧ t.rings = [] ∧ t.clayGen = [] ∧
      t.keys = [] ∧ t.send = [] ∧ t.recv = [] ∧ t.parts = [] ∧ t.boot.powered = false ∧ t.fuse = s.fuse ∧ t.svn = s.svn ∧
      t.pending = s.pending ∧ t.out = s.out ++ [.power false] ∧ t.emmc = u.emmc ∧ t.store.log = u.logs.log ∧
      t.store.hist = u.logs.hist ∧ (∀ i, u.found .fwA = .image i → t.store.slotA = i) ∧
      (∀ i, u.found .fwB = .image i → t.store.slotB = i) ∧ (∀ r l p, u.found .plan = .plan r l p → t.store.mrec = r ∧ t.store.plan = p) ∧
      (∀ o ks b h m p r f k, u.found .sealed = .sealed o ks b h m p r f k → t.store.owner = o ∧ t.setKeys = ks ∧ t.store.lastB = b ∧
        t.store.health = h ∧ t.store.repairs = r ∧ t.store.soft = f) ∧
      (∀ r, u.found .saved = .saved r → t.store.saved = r) ∧
      (∀ p, p < 52 → t.flag Reg.spareSet p =
        ((resetReg s.fuse Reg.spareSet).getLsbD p && decide (Tab.get 0 t.store.health p < 8))) ∧
      ∀ off, (∀ p, p < 52 → off ≠ Reg.engHealth p) → off ≠ Reg.spareSet → t.reg off = resetReg s.fuse off
    (s.boot.powered = true →
      (∃ t, exec .modRst s = .next t ∧ cleared s t ∧ t.store.losses = s.logs.losses ∧ t.store.trip = s.store.trip) ∧
      (∃ t, exec .i3cReset s = .next t ∧ cleared s t ∧ t.store.losses = s.logs.losses ∧ t.store.trip = s.store.trip) ∧
      (∃ t, exec .inputPowerLoss s = .next t ∧ cleared s.endBatch t ∧ t.store.losses = ringPush logCap s.endBatch.logs.losses s.time) ∧
      (∃ t, exec (.thermalTrip sensor) s = .next t ∧ cleared s.endBatch t ∧ t.store.trip = some (sensor, s.bonnet.lastAt) ∧
        t.boot.thermtrip = true)) ∧
    (s.boot.powered = false → ∃ t, exec .powerGood s = .next t ∧ t.boot.powered = true ∧ t.boot.thermtrip = false ∧
      t.stage = 0 ∧ t.fld Reg.bootStat 5 4 = s.savedOk.toNat ∧ t.flag Reg.bootStat 16 = s.store.trip.isSome ∧
      t.out = s.out ++ [.power true] ∧ regsBut s t [Reg.bootStat] ∧ t.store = s.store ∧ t.loam = s.loam ∧
      t.gaunt.sek = s.fuse.sek ∧ t.gaunt.udsOpen = false)

/-- A sample sets TEL_PWR, TEL_TEMP and HOLDUP_STAT to its readings and asks for the highest clock at which its load keeps the
caps; Bonnet moves the core clock one step toward what the limits ask for, and while Gauntlet restarts only down, over the
fused cap. A batch starts that the hold-up energy allows; the copies it writes are not valid until it has ended, and those of
one that wrote all are then valid under the store key with the next sequence number; its end answers an OFF_REQUEST with SAFE.
The settings are saved with their time and the module they are of. A rail over its voltage shuts down alone: without its core
rail an engine issues nothing, without the SerDes or the P-die rail no port is up. How samples, steps and batches are judged and
what a rail takes with it are the model's choices (log entries 71, 72, 139). -/
def Obligations.TelemetryClockAndStore : Prop :=
  ∀ (s : State) (x : Sample) (now : W64) (size k : Nat) (rail : Rail),
    let energy := s.fld Reg.holdupStat 15 0
    (s.boot.powered = true → ∃ t, exec (.telemetrySample x now) s = .next t ∧ t.fld Reg.telPwr 15 0 = x.pin.toNat ∧
      t.fld Reg.telPwr 31 16 = x.vin.toNat ∧ t.fld Reg.telTemp 7 0 = x.tj0.toNat ∧ t.fld Reg.telTemp 15 8 = x.tj1.toNat ∧
      t.fld Reg.holdupStat 15 0 = x.eavail.toNat ∧ t.time = (s.at_ now).time ∧ t.bonnet.lastAt = now ∧
      t.bonnet.cap = capK s.fuse x (s.fld Reg.lockedClk 11 0) ∧
      regsBut s t [Reg.telPwr, Reg.telTemp, Reg.holdupStat, Reg.lockedClk] ∧ t.eng = s.eng ∧ t.loam = s.loam) ∧
    (s.boot.powered = true → 2 ≤ s.stage → s.stage ≠ 15 → s.gaunt.restarting = false → s.fld Reg.rplPolicy 3 1 ≤ s.crungBy.length →
      s.clockK = k →
      k ≤ s.fuse.kmax → ∃ t, exec .bonnetStep s = .next t ∧
      t.clockK = (if k < s.targetK then k + 1 else if s.targetK < k then k - 1 else k) ∧
      regsBut s t [Reg.lockedClk] ∧ t.eng = s.eng ∧ t.loam = s.loam) ∧
    (s.boot.powered = true → 2 ≤ s.stage → s.stage ≠ 15 → s.gaunt.restarting = false → s.crungBy.length < s.fld Reg.rplPolicy 3 1 →
      ∃ t, exec .bonnetStep s = .next t ∧ t.fld Reg.rplPolicy 3 1 + 1 = s.fld Reg.rplPolicy 3 1 ∧
      regsBut s t [Reg.lockedClk, Reg.rplPolicy] ∧ t.eng = s.eng ∧ t.loam = s.loam) ∧
    (s.boot.powered = true → 2 ≤ s.stage → s.stage ≠ 15 → s.gaunt.restarting = true → s.clockK = k → k < s.fuse.kmax →
      ∃ t, exec .bonnetStep s = .next t ∧ t.clockK = (if s.bonnet.overCap then k + 1 else k) ∧ regsBut s t [Reg.lockedClk] ∧
        t.eng = s.eng ∧ t.loam = s.loam) ∧
    (s.gauntletUp = true → s.mgmt.off = false → s.mgmt.batch = none → 0 < size → batchPasses energy (min size 4096) = true →
      ∃ t b, exec (.storeBatchWrite size) s = .next t ∧ t.mgmt.batch = some b ∧ b.size ≤ size ∧
        b.size ≤ 4194304 ∧ batchPasses energy b.size = true ∧ b.whole = decide (size ≤ b.size) ∧ t.flag Reg.holdupStat 16 = false ∧
        regsBut s t [Reg.holdupStat] ∧ t.store = s.settle.store ∧ b.logs = s.settle.store.logs ∧ t.logs = s.logs ∧
        (∀ a ∈ areas, s.found a ≠ s.settle.area a → (a, s.copyTarget a, s.settle.area a) ∈ b.writes) ∧
        (∀ w ∈ b.writes, ∃ c, t.copyOf w.1 w.2.1 = some c ∧ c.torn = true) ∧
        ∀ a k, (∀ w ∈ b.writes, (w.1, w.2.1) ≠ (a, k)) → t.copyOf a k = s.copyOf a k) ∧
    (∀ b, s.mgmt.batch = some b → ∃ t, exec .storeBatchComplete s = .next t ∧ t.mgmt.batch = none ∧ t.regs = s.regs ∧
      t.store = s.store ∧ t.logs = (if b.whole then b.logs else s.logs) ∧ (b.whole = false → t.emmc = s.emmc) ∧
      (b.whole = true → (b.writes.map (·.1)).Nodup → ∀ w ∈ b.writes, ∃ c, t.copyOf w.1 w.2.1 = some c ∧ c.val = w.2.2 ∧
        c.torn = false ∧ c.seq = BitVec.ofNat 64 (max (s.copySeq w.1 false) (s.copySeq w.1 true) + 1) ∧
        c.tag = areaTag s.gaunt.sek w.1 c.seq c.val) ∧
      t.out = if s.mgmt.off then s.out ++ [.i3cSafe] else s.out) ∧
    (s.gauntletUp = true → ∃ t, exec .offRequest s = .next t ∧ t.mgmt.off = true ∧ t.flag Reg.holdupStat 16 = true ∧
      regsBut s t [Reg.holdupStat] ∧ t.store = s.store ∧ t.out = if s.mgmt.batch = none then s.out ++ [.i3cSafe] else s.out) ∧
    (7 ≤ s.stage → s.stage ≤ 9 → s.flag Reg.holdupStat 16 = false → s.gaunt.restarting = false →
      let r : SavedRec := ⟨s.fuse.serial, s.fuse.steppingC0, (s.boot.running.map (fun f => f.seq)).getD 0, s.time, s.boot.items⟩
      exec .savedSettingsWrite s = .next (
        if s.boot.full = true ∨ (s.boot.moved = true ∧ ∀ o, s.store.saved = some o → o.savedAt.toNat + 86400000000000 ≤ s.time.toNat) then
          { s with store := { s.store with saved := some r }, boot := { s.boot with full := false, moved := false } }
        else s)) ∧
    (rail ∈ s.boot.railsOff → exec (.overVoltageShutdown rail) s = .next s) ∧
    (rail ∉ s.boot.railsOff → ∃ t, exec (.overVoltageShutdown rail) s = .next t ∧ t.boot.railsOff = s.boot.railsOff ++ [rail] ∧
      t.loam = s.loam ∧ t.clay = s.clay ∧
      (rail ≠ .vserdes → rail ≠ .vpdie → t = { s with boot := t.boot }) ∧
      (rail = .vserdes ∨ rail = .vpdie → ∀ n : PortId, t.portUp n = false) ∧ (rail = .vpdie → t.boot.hostDown = true) ∧
      (rail = .vcore0 → ∀ (p : PhysE) (c : Place), dieOf p = 0 → t.canIssue p c = false) ∧
      (rail = .vcore1 → ∀ (p : PhysE) (c : Place), dieOf p ≠ 0 → t.canIssue p c = false))

/-- A start goes through its stages: Gauntlet boots the slot that booted last when it verifies under the fused keys, with the
clock at the floor; each later stage follows when its activities succeed, stage 2 once Bonnet's steps have brought the clock
to its target, stage 6 once the self-test has ended with engines enough, and the start fails with its cause when they do not; a
planned start activates the firmware it has brought, then stores its plan and enters JOB_READY, or reports its link map where a
port falls short of a plan that is not rate-tolerant. Ports come up in the width that their lanes and MODE allow and change their
LINK_STAT; in recovery mode a verified image starts anew and the time-out fails the start. Which cause is taken when two
hold, what a planned start brings, and the link event's detail are the model's readings (log entries 74 to 76). -/
def Obligations.StartsGoThroughTheirStages : Prop :=
  ∀ (s : State) (o : StageOutcome) (f img : FwImage) (port : PortId) (l : LinkState) (items : List ItemTrain) (mgmtUp : Bool),
    let goes := fun (k : Nat) => ∃ t, exec (.stageAdvance o) s = .next t ∧ t.stage = k ∧ t.fld Reg.bootStat 63 32 = o.ms.toNat ∧
      t.loam = s.loam ∧ (k ≠ 5 → t.send = s.send) ∧ (s.send = [] → t.send = [])
    let fails := fun (cause : Nat) => ∃ t, exec (.stageAdvance o) s = .next t ∧ t.stage = 15 ∧ t.fld Reg.bootStat 15 8 = cause ∧
      t.loam = s.loam
    let w := s.linkFields port l
    let good := (l.good &&& modeLanes (s.fld (Reg.portCfg port) 1 0)).toNat
    let link := (w.width0 != 0).toNat + w.width0 * 2 + w.width1 * 8 + good * 32 + w.degraded.toNat * 512
    (s.boot.powered = true → s.gaunt.restarting = false →
      (s.stage = 0 → (o.tempOk = true → goes 1) ∧ (o.tempOk = false → fails 7)) ∧
      (s.stage = 1 → s.boot.recovery = false → (if s.store.lastB then s.store.slotB else s.store.slotA) = some f →
        s.fuse.trusts f = true → s.svn ≤ f.svn → (if s.store.lastB then o.fwBOk else o.fwAOk) = true → o.tempOk = true → goes 2 ∧ ∃ t, exec (.stageAdvance o) s = .next t ∧ t.boot.running = some f ∧
          t.store.lastB = s.store.lastB ∧ t.fld Reg.bootStat 5 4 = (s.savedFor f).toNat ∧ t.lib = libOf f ∧ t.clockK = s.fuse.kmax ∧ t.svn = (if f.raiseSvn then max s.svn f.svn else s.svn)) ∧
      (s.stage = 1 → (o.tempOk = false → fails 7) ∧
        (o.tempOk = true → s.boot.recovery = true → exec (.stageAdvance o) s = .next s)) ∧
      (s.stage = 1 → s.boot.recovery = false → o.tempOk = true → s.store.slotA = none → s.store.slotB = none →
        exec (.stageAdvance o) s = .next { s with boot := { s.boot with recovery := true } }) ∧
      (s.stage = 2 → (o.railOk = false ∨ s.boot.railsOff ≠ [] ∨ s.boot.lostRefs ≠ [] → fails 2) ∧
        (o.railOk = true → s.boot.railsOff = [] → s.boot.lostRefs = [] →
        (o.tempOk = false → fails 7) ∧ (o.tempOk = true → s.clockK = s.targetK → goes 3) ∧
        (o.tempOk = true → s.clockK ≠ s.targetK → exec (.stageAdvance o) s = .next s))) ∧
      (s.stage = 3 → (o.pDieOk = false → fails 3) ∧ (o.pDieOk = true → o.tempOk = true → goes 4) ∧
        (o.pDieOk = true → o.tempOk = false → fails 7)) ∧
      (s.stage = 4 → let n := ((s.startEngines o.failEng).startTest o.selfFail).inService
        (o.hbmOk = false → fails 4) ∧ (o.hbmOk = true → o.lpOk = false → fails 5) ∧
        (o.hbmOk = true → o.lpOk = true → n < 40 → fails 6) ∧ (o.hbmOk = true → o.lpOk = true → 40 ≤ n → o.tempOk = false → fails 7) ∧
        (o.hbmOk = true → o.lpOk = true → 40 ≤ n → o.tempOk = true → goes 5)) ∧
      (s.stage = 5 → (o.tempOk = true → goes 6) ∧ (o.tempOk = false → fails 7)) ∧
      (s.stage = 6 → let n := ((s.startEngines o.failEng).startTest o.selfFail).inService
        (n < 40 → fails 6) ∧ (40 ≤ n → o.tempOk = true → goes 7) ∧ (40 ≤ n → o.tempOk = false → fails 7)) ∧
      (s.stage = 8 → (∀ i, s.planFirmware o = some i → ∃ t, exec (.stageAdvance o) s = .next t ∧ t.gaunt.restarting = true ∧
          t.gaunt.newImage = true ∧ t.gaunt.loam = some i ∧ t.loam = s.loam) ∧
        (s.planFirmware o = none → s.goPlan o = none → exec (.stageAdvance o) s = .next s) ∧
        (∀ p, s.planFirmware o = none → s.goPlan o = some p →
          let u := if s.store.plan = some p then s
            else ({ s with store := { s.store with plan := some p } }.installTables p).matchAll
          (p.tolerant = true ∨ u.portShort p = false → ∃ t, exec (.stageAdvance o) s = .next t ∧ t.stage = 9 ∧
            t.store.plan = some p ∧ t.loam = s.loam ∧ t.ring intRing = {} ∧
            ∀ k, 0xFFF00 ≤ k → k < 0x100000 → t.sendHalf k = {} ∧ t.recvHalf k = {}) ∧
          (p.tolerant = false → u.portShort p = true →
            exec (.stageAdvance o) s = .next { u with out := u.out ++ [.mgmt (.links none u.linkMap)] })))) ∧
    (s.portsLive = true → s.fld (Reg.linkStat port) 9 0 ≠ link →
      (w.up = true → s.portUp port = false → ∃ t, exec (.portTrainingComplete port l items) s = .next t ∧
        t.fld (Reg.linkStat port) 9 0 = link ∧ t.flag (Reg.linkStat port) 10 = true ∧ t.eng = s.eng ∧ t.loam = s.loam) ∧
      (∃ t, exec (.linkChange port l) s = .next t ∧ t.fld (Reg.linkStat port) 9 0 = link ∧ t.flag (Reg.linkStat port) 10 = true ∧
        (∀ m : PortId, m ≠ port → t.reg (Reg.linkStat m) = s.reg (Reg.linkStat m)) ∧ t.eng = s.eng ∧ t.loam = s.loam)) ∧
    (s.boot.recovery = true → s.fuse.trusts img = true → s.svn ≤ img.svn → ∃ t, exec (.recoveryImage img) s = .next t ∧
      t.store.slotA = some img ∧ t.boot.recovery = false ∧ t.stage = 0 ∧ t.store.slotB = s.store.slotB) ∧
    (s.boot.recovery = true → ∃ t, exec (.recoveryImageTimeout mgmtUp) s = .next t ∧ t.stage = 15 ∧ t.fld Reg.bootStat 15 8 = 1)

/-! ## Links -/

/-- A host link reset ends the rings' descriptors and enables and takes every locked interface to ERROR, and keeps contexts'
records and memory; the release of PERST# brings the link back. Interfaces are locked, started and stopped in order; an IDE set
replaces the other of its stream; references lost and returned show in REFCLK_STAT; a failed CXL link stops the contexts that
wait for it, and their requests there never complete. What a link reset clears, and the order of TDISP and IDE requests, are the
model's (log entries 65 to 68). -/
def Obligations.LinksGoDownAndComeBack : Prop :=
  ∀ (s : State) (f : Func) (on port : Bool) (strm : Fin 10) (ref : RefClk) (p : PhysE) (c : Place) (a : Nat) (rest : List Nat),
    let q := f.val - 1
    let tdi := fun (i : Instr) (v : Tdi) => exec i s = .next (s.modPartx q (fun x => { x with tdi := v }))
    (∃ t, exec .hostLinkReset s = .next t ∧ t.boot.hostDown = true ∧ t.boot.perst = true ∧ t.loam = s.loam ∧ t.clay = s.clay ∧
      (∀ r, r ≠ intRing → (t.ring r).on = false ∧ (t.ring r).fetched = []) ∧ t.ring intRing = s.ring intRing ∧ (∀ e, e < 9 → t.flag (Reg.evrCfg e) 0 = false) ∧
      (∀ k, k < 8 → (t.partx k).vf = false ∧ ((s.partx k).tdi = .run → (t.partx k).tdi = .error)) ∧
      (∀ p c, (t.ctx p c).cur = (s.ctx p c).cur ∧ (t.ctx p c).st = (s.ctx p c).st ∧ (t.ctx p c).ringStream = none) ∧ (∀ p, (t.engine p).sand = (s.engine p).sand) ∧
      t.ideOn = [] ∧ t.msixPend = []) ∧
    (let down := !s.boot.powered || s.boot.lostRefs.contains .pcie || s.boot.railsOff.contains .vpdie
     exec .perstRelease s = .next { s with boot := { s.boot with perst := false, hostDown := down } }) ∧
    (f.val ≠ 0 → s.boot.hostDown = false → s.gauntletUp = true →
      exec (.vfEnable f on) s = .next (s.modPartx q (fun x => { x with vf := on })) ∧
      ((s.partx q).vf = true → (s.partx q).tdi = .unlocked → tdi (.lockInterfaceRequest f) .locked) ∧
      ((s.partx q).tdi = .locked → tdi (.startInterfaceRequest f) .run) ∧
      ((s.partx q).vf = true → (s.partx q).clearing = none → s.sealedPart q = false → tdi (.stopInterfaceRequest f) .unlocked) ∧
      ((s.partx q).vf = true → (s.partx q).clearing = none → s.sealedPart q = true → ∃ t,
        exec (.stopInterfaceRequest f) s = .next t ∧ (t.partx q).clearing = some (.unsealReset false) ∧ t.resetting q = true)) ∧
    (s.boot.hostDown = false → s.gauntletUp = true → 2 * strm.val ∉ s.ideOn → ∃ t, exec (.ideKeySetActivate strm false) s = .next t ∧
      2 * strm.val ∈ t.ideOn ∧ 2 * strm.val + 1 ∉ t.ideOn ∧ (∀ k, k ≠ 2 * strm.val → k ≠ 2 * strm.val + 1 → (k ∈ t.ideOn ↔ k ∈ s.ideOn)) ∧
      t.keys.any (fun e => e.1 == 24 + 4 * strm.val) = true ∧ t.keys.any (fun e => e.1 == 25 + 4 * strm.val) = true ∧
      (2 * strm.val + 1 ∈ s.ideOn → ∀ e ∈ t.keys, e.1 ≠ 26 + 4 * strm.val ∧ e.1 ≠ 27 + 4 * strm.val) ∧ t.regs = s.regs ∧ t.loam = s.loam) ∧
    (ref ∉ s.boot.lostRefs → ∃ t, exec (.refclkLoss ref) s = .next t ∧ t.flag Reg.refclkStat (refBit ref) = true ∧
      ref ∈ t.boot.lostRefs ∧ t.loam = s.loam ∧ (ref = .pcie → t.boot.hostDown = true) ∧
      (ref = .core ∨ ref = .eth → t.flag Reg.refclkStat 5 = true ∧ regsBut s t [Reg.refclkStat] ∧ t.eng = s.eng)) ∧
    (ref ∈ s.boot.lostRefs → ∃ t, exec (.refclkReturn ref) s = .next t ∧ ref ∉ t.boot.lostRefs ∧ regsBut s t [Reg.refclkStat] ∧
      (ref = .pcie → t.boot.hostDown = (!s.boot.powered || s.boot.perst || s.boot.railsOff.contains .vpdie)) ∧
      (ref = .core ∨ ref = .eth → ref ∈ t.boot.slewing ∧ t.flag Reg.refclkStat 5 = true)) ∧
    (s.boot.slewing = [ref] → s.boot.lostRefs = [] → ∃ t, exec (.slewBackComplete ref) s = .next t ∧ t.boot.slewing = [] ∧
      t.flag Reg.refclkStat 5 = false ∧ regsBut s t [Reg.refclkStat]) ∧
    (let out := (s.ctx p c).xfers ++ (s.ctx p c).shaleOut
     out.filterMap (fun x => s.atCxl p c x port) = a :: rest → (s.ctx p c).repFault = none → (s.ctx p c).going = false →
      (s.ctx p c).shadow = false → ∃ t, exec (.cxlLinkFailure port) s = .next t ∧ (t.ctx p c).rep = .restoring ∧
      (t.ctx p c).repFault = some ⟨0x0C, some (sectorAt 4 a 1 0 + 4 * 2 ^ 44)⟩ ∧ t.loam = s.loam ∧
      ∀ x ∈ out, (s.atCxl p c x port).isSome = true → ∀ z ∈ (t.ctx p c).xfers, z.id ≠ x.id)

/-! ## Gauntlet -/

/-- A request of the mailbox that is due runs and is answered: MBX_INFO with its bytes, a window, an unwrapped key and a
rotation for an unsealed partition, a piece of an image, and a whole image that verifies under the fused keys at a standing
SVN, or its refusal; FW_ACTIVATE restarts Gauntlet with it, its completion makes the image the running one, and a
disagreement of the copies restarts Gauntlet with its sessions gone and only its retention bank kept; the retirements that
waited for firmware take place when a restart ends. A setup policy
replaces the one before. The slots, results and refusals are the model's readings (log entries 77, 78, 82, 126). -/
def Obligations.MailboxRequestsAndFirmware : Prop :=
  ∀ (s : State) (w : Byte) (base limit : W64) (rd wr en : Bool) (q : PartId) (record key : Bytes) (slot : BitVec 6)
    (off len : Nat) (f : FwImage) (t' : State) (pol : Policy) (sk : SetKey),
    let due := fun (code : Nat) => s.gauntletUp = true ∧ s.flag Reg.mbxStat 0 = true ∧ leNat (Mem.bytes s.gaunt.mbxReq 0 2) = code
    let answer := fun (i : Instr) (result : Nat) (post : State → Prop) => ∃ t, exec i s = .next t ∧ t.flag Reg.mbxStat 0 = false ∧
      t.flag Reg.mbxStat 1 = true ∧ t.fld Reg.mbxStat 15 8 = result ∧ t.eng = s.eng ∧ t.loam = s.loam ∧ post t
    let answers := fun (i : Instr) (post : State → Prop) => answer i 0 post
    let n := leNat (Mem.bytes s.gaunt.mbxReq 2 2)
    (due 1 → answers .mbxInfo (fun t => regsBut s t [Reg.mbxStat] ∧ t.gaunt.mbxRsp.take 2 = leBytes 2 1)) ∧
    (due 2 → s.sealedPart q = false → s.windowPart w.toNat = none → answers (.mbxWindow w base limit rd wr q false en) (fun t =>
      (t.reg (Reg.hdmaBase w.toNat)).toNat = base.toNat / 4096 * 4096 ∧
      (t.reg (Reg.hdmaLim w.toNat)).toNat = en.toNat + 2 * rd.toNat + 4 * wr.toNat + 8 * q + limit.toNat / 4096 * 4096 ∧
      regsBut s t [Reg.mbxStat, Reg.hdmaBase w.toNat, Reg.hdmaLim w.toNat])) ∧
    (due 3 → s.sealedPart q = false → record.length = 64 → 16 ≤ slot.toNat → slot.toNat ≤ 23 → s.keyInUse slot.toNat = false →
      s.setKeys.find? (fun k => k.setid == BitVec.ofNat 64 (record.num 0 8) && k.serves s q) = some sk →
      contentKey sk.sk record = some key →
      answers (.mbxUnwrap record slot q) (fun t => Tab.get [] t.keys slot.toNat = [keyOf key] ∧
        Tab.get ⟨0, 0, 0⟩ t.gcmTag slot.toNat = ⟨BitVec.ofNat 64 (record.num 8 8), BitVec.ofNat 64 (record.num 16 8), q⟩ ∧
        regsBut s t [Reg.mbxStat])) ∧
    (due 6 → s.sealedPart q = false → s.partOn q = true → s.startRotation q = some t' → answers (.mbxRotate q) (fun t =>
      t.fld (Reg.rotStat q) 1 1 = 1 - s.fld (Reg.rotStat q) 1 1 ∧ regsBut s t [Reg.mbxStat, Reg.rotStat q])) ∧
    (s.sealedPart q = true → (due 2 → answer (.mbxWindow w base limit rd wr q false en) 2 (fun t => regsBut s t [Reg.mbxStat])) ∧
      (due 3 → answer (.mbxUnwrap record slot q) 2 (fun t => t.keys = s.keys)) ∧
      (due 6 → answer (.mbxRotate q) 2 (fun t => t.keys = s.keys))) ∧
    (due 4 → len ≤ 4000 → len ≤ n → off + len ≤ slotSize →
      answers (.fwStage off len none) (fun t => t.store = s.store ∧ regsBut s t [Reg.mbxStat] ∧
        t.gaunt.pieces = s.gaunt.pieces.store off (Mem.bytes s.gaunt.mbxReq (4 + n - len) len)) ∧
      (s.fuse.trusts f = true → s.svn ≤ f.svn → answers (.fwStage off len (some f)) (fun t => t.gaunt.staged = some f ∧
        (if s.store.lastB then t.store.slotA = some f ∧ t.store.slotB = s.store.slotB
         else t.store.slotB = some f ∧ t.store.slotA = s.store.slotA) ∧ regsBut s t [Reg.mbxStat])) ∧
      (s.fuse.trusts f = false → answer (.fwStage off len (some f)) 3 (fun t => t.store = s.store ∧ t.gaunt.staged = s.gaunt.staged)) ∧
      (s.fuse.trusts f = true → f.svn < s.svn → answer (.fwStage off len (some f)) 4 (fun t =>
        t.store = s.store ∧ t.gaunt.staged = s.gaunt.staged))) ∧
    (due 5 → s.gaunt.staged ≠ none → ∃ t, exec .fwActivate s = .next t ∧ t.gaunt.restarting = true ∧ t.gaunt.newImage = true ∧
      t.gaunt.sess = [] ∧ t.flag Reg.mbxStat 0 = true ∧ t.gaunt.staged = s.gaunt.staged ∧ t.eng = s.eng) ∧
    (s.gaunt.restarting = true → s.gaunt.newImage = true → s.gaunt.lockFail = false → (∀ p, (s.engine p).retireDue = false) →
      (s.gaunt.loam = none → s.gaunt.staged = some f → answers
        .fwActivationComplete (fun t => t.boot.running = some f ∧ t.store.lastB = !s.store.lastB ∧ t.gaunt.restarting = false ∧
          t.svn = (if f.raiseSvn then max s.svn f.svn else s.svn) ∧ regsBut s t [Reg.mbxStat, Reg.bootStat])) ∧
      (s.gaunt.loam = some f → ∃ t, exec .fwActivationComplete s = .next t ∧ t.boot.running = some f ∧ t.gaunt.restarting = false ∧
        t.svn = (if f.raiseSvn then max s.svn f.svn else s.svn) ∧ t.store = s.store ∧ t.gaunt.loam = some f ∧
        t.flag Reg.mbxStat 0 = false ∧ regsBut s t [Reg.mbxStat])) ∧
    (s.gaunt.restarting = true → ∃ t, exec .fwActivationComplete s = .next t ∧ t.gaunt.restarting = false ∧
      ∀ p, p < 52 → (s.engine p).retireDue = true → t.fld (Reg.engHealth p) 2 0 = 4 ∧ (t.engine p).retireDue = false) ∧
    (s.gauntletUp = true → (∃ t, exec .gauntletLockstepRestart s = .next t ∧ t.gaunt.restarting = true ∧ t.gaunt.lockFail = true ∧
      t.gaunt.sess = [] ∧ t.gaunt.mbxReq = [] ∧ t.mgmt.unacked = [] ∧ t.mgmt.joined = [] ∧ t.mgmt.batch = none ∧
      t.gaunt.policy = s.gaunt.policy ∧ (∀ e ∈ t.gaunt.sram, e.1 < 65536 ∧ e ∈ s.gaunt.sram) ∧
      regsBut s t [Reg.mbxStat] ∧ t.eng = s.eng ∧ t.store = s.store) ∧
      exec (.setupPolicyInstall pol) s = .next { s with gaunt := { s.gaunt with policy := pol } })

/-- SPDM requests in their order: an answer in a session goes out as a record under the session's response key with its next
number, any other in the clear; a request in a session arrives as a record under its request key, and one that does not open ends
it. The negotiation goes step by step, a signed answer holds the transcript for DUAL_SIGN, a key exchange opens a session,
FINISH with the right MAC completes it, gives it its data keys and takes the requester for the operator whose chain and
signature verify, and with a wrong one ends it; the requests of a session act on it alone: an update derives its keys anew, an
end takes what it had signed, and PQ_BIND gives its keys anew from the encapsulated secret. While Gauntlet restarts every
request is answered Busy. Registers, engines and memory stand throughout. The order, the record's form and the free bytes are
the model's choice (log entries 79, 80). -/
def Obligations.SpdmRequestsFollowTheirOrder : Prop :=
  ∀ (s : State) (m : SpdmSrc) (nonce : BitVec 256) (off len : BitVec 16) (pub ct mac : Bytes) (v13 allKeys : Bool)
    (cert : Option Requester) (x : Session) (n : Nat) (r : SpdmRsp),
    let from_ := SpdmSrc.place m
    let sends := fun (i : Instr) (rsp : SpdmRsp → Prop) (post : State → Prop) => ∃ t a wire, exec i s = .next t ∧ rsp a ∧
      t.out = s.out ++ [.spdm from_ a wire] ∧ t = { s with out := t.out, gaunt := t.gaunt, fresh := t.fresh } ∧
      t.gaunt = { s.gaunt with conns := t.gaunt.conns, sess := t.gaunt.sess, signed := t.gaunt.signed } ∧ post t
    let does := fun (i : Instr) (post : State → Prop) => sends i (fun a => ∃ data, a = .ok data) post
    let bare := fun (e : Nat × Session) => (e.1, { e.2 with reqSeq := 0, rspSeq := 0 })
    let keeps := fun (t : State) => t.gaunt.sess.map bare = s.gaunt.sess.map bare
    let others := fun (t : State) => ∀ k, some k ≠ m.sess →
      t.gaunt.sess.find? (fun e => e.1 == k) = s.gaunt.sess.find? (fun e => e.1 == k)
    let isNow := fun (t : State) (y : Session) => t.session m = some y ∧ others t
    let noted := fun (t : State) => (t.gaunt.signed.any (fun e => e.1 == from_)) = true
    let rows : List (Instr × Bytes) := [(.getVersion m, spdmReq 0x84 []), (.getCapabilities m v13, spdmReq 0xE1 (leBytes 1 v13.toNat)),
      (.negotiateAlgorithms m true, spdmReq 0xE3 (leBytes 1 1)), (.getDigests m, spdmReq 0x81 []),
      (.getCertificate m off len, spdmReq 0x82 (leBytes 2 off.toNat ++ leBytes 2 len.toNat)),
      (.challenge m nonce, spdmReq 0x83 (leBytes 32 nonce.toNat)), (.getMeasurements m nonce, spdmReq 0xE0 (leBytes 32 nonce.toNat)),
      (.keyExchange m pub, spdmReq 0xE4 pub), (.finish m mac cert, spdmReq 0xE5 mac),
      (.keyUpdate m allKeys, spdmReq 0xE9 (leBytes 1 allKeys.toNat)), (.heartbeat m none, spdmReq 0xE8 []),
      (.endSession m, spdmReq 0xEC []), (.pqBind m ct, vendorReq 0x01 ct), (.dualSign m, vendorReq 0x02 [])]
    let opens := fun (i : Instr) => ∀ b, (i, b) ∈ rows → s.opens m b = true
    (s.sessionOf m = none → s.reply m r = { s with out := s.out ++ [.spdm from_ r []] }) ∧
    (s.sessionOf m = some (n, x) → (s.reply m r).out = s.out ++ [.spdm from_ r
        (Config.gcmSeal (spdmKey x.v13 x.rsp) (spdmNonce x.v13 x.rsp x.rspSeq) (leBytes 4 n) r.bytes)] ∧
      (s.reply m r).sessionOf m = some (n, { x with rspSeq := x.rspSeq + 1 })) ∧
    (∀ b, s.sessionOf m = some (n, x) → (s.opens m b = true ↔
      m.wire = Config.gcmSeal (spdmKey x.v13 x.req) (spdmNonce x.v13 x.req x.reqSeq) (leBytes 4 n) b)) ∧
    (s.reaches m = true → ∀ i b, (i, b) ∈ rows →
      (s.gaunt.restarting = true → exec i s = .next (s.reply m (.err .busy))) ∧
      (s.gaunt.restarting = false → s.opens m b = false → exec i s = .next ((s.reply m (.err .decrypt)).dropSession m))) ∧
    (s.reaches m = true → s.gaunt.restarting = false →
      (m.sess = none →
        does (.getVersion m) (fun t => t.negotiation m.tr = 1 ∧ keeps t) ∧
        (s.negotiation m.tr = 1 → does (.getCapabilities m v13) (fun t => t.negotiation m.tr = 2 ∧ (t.conn m.tr).v13 = v13 ∧ keeps t)) ∧
        (s.negotiation m.tr = 2 → does (.negotiateAlgorithms m true) (fun t => t.negotiation m.tr = 3 ∧
          (t.conn m.tr).v13 = (s.conn m.tr).v13 ∧ keeps t)) ∧
        (s.negotiated m = true → pub.length = 96 → s.sessionRoom m.tr = true → does (.keyExchange m pub) (fun t => ∃ k y,
          y.up = false ∧ y.tr = m.tr ∧ y.v13 = (s.conn m.tr).v13 ∧ s.gaunt.sess.any (fun e => e.1 == k) = false ∧
          t.gaunt.sess = s.gaunt.sess.set k y))) ∧
      (s.negotiated m = true →
        (opens (.getDigests m) → exec (.getDigests m) s = .next ((s.took m).reply m (.ok (s.chainDigest false)))) ∧
        (opens (.getCertificate m off len) → exec (.getCertificate m off len) s = .next
          ((s.took m).reply m (.ok (((s.certChain false).drop off.toNat).take len.toNat)))) ∧
        (opens (.challenge m nonce) → does (.challenge m nonce) (fun t => noted t ∧ keeps t)) ∧
        (opens (.getMeasurements m nonce) → sends (.getMeasurements m nonce) (fun a => ∃ sig, a = .blocks s.measurements sig)
          (fun t => noted t ∧ keeps t))) ∧
      (s.sessionOf m = some (n, x) → x.up = false → opens (.finish m mac cert) →
        (mac = x.finishMac → does (.finish m mac cert) (fun t => isNow t
          (({ x with up := true, auth := (cert.map (s.provesOperator x)).getD false, th := x.th ++ mac } : Session).directions
            x.secret false))) ∧
        (mac ≠ x.finishMac → sends (.finish m mac cert) (fun a => a = .err .auth) (fun t => t.sessionOf m = none ∧ others t))) ∧
      (s.session m = some x →
        (opens (.keyUpdate m allKeys) → does (.keyUpdate m allKeys) (fun t => isNow t { x with
          req := x.updated x.req, reqSeq := 0
          rsp := if allKeys then x.updated x.rsp else x.rsp, rspSeq := (if allKeys then 0 else x.rspSeq) + 1 })) ∧
        (opens (.heartbeat m none) → exec (.heartbeat m none) s = .next ((s.took m).reply m (.ok (Config.layout 20 [])))) ∧
        (opens (.endSession m) → does (.endSession m) (fun t => t.sessionOf m = none ∧ others t ∧
          ∀ e ∈ t.gaunt.signed, e.1.sess ≠ m.sess)) ∧
        (opens (.pqBind m ct) → ct.length = 1568 →
          does (.pqBind m ct) (fun t => isNow t (x.bound (Config.kemDecaps s.kemSeed ct))))) ∧
      (noted s → (m.sess = none ∨ s.session m ≠ none) → opens (.dualSign m) → does (.dualSign m) keeps))

/-- The vendor requests: SEAL clears a locked interface's partition and takes the tenant's keys, and an unsealing clears it
again; a window, an unwrapped key, a rotation and a device set are granted to who may have them, and a seventeenth set is
refused; the operator sets the ports and the telemetry period in bounds and releases retired engines that hold no context, which are
spares again; the ownership record is made once and released with both signatures. A tenant's request from any other source is
unexpected. Memory stands, and engines but for what the window of a released one shows. Who is refused, the form of the requests,
what a release makes of an engine and that settings come with a HEARTBEAT are the model's readings and choices (log entries 78,
79, 81, 82, 125). -/
def Obligations.TenantsAndOperatorsAreServed : Prop :=
  ∀ (s : State) (m : SpdmSrc) (q : Nat) (p : PartId) (w : Byte) (base limit : W64) (rd wr en alg : Bool) (dxk : BitVec 256)
    (imgKey caE caQ mac : BitVec 384) (setid : W64) (record key pub ct wrapped secret : Bytes) (sk : SetKey) (slot : BitVec 6) (t' : State),
    let does := fun (i : Instr) (post : State → Prop) => ∃ t data wire, exec i s = .next t ∧ t.out = s.out ++ [.spdm (SpdmSrc.place m) (.ok data) wire] ∧
      t.eng = s.eng ∧ t.loam = s.loam ∧ post t
    let unseals := fun (t : State) (k : Nat) (forced : Bool) => (t.partx k).clearing = some (.unsealReset forced) ∧
      t.resetting k = true ∧ regsBut s t [Reg.partCtl k, Reg.sealStat k]
    let rest := s.setKeys.filter (fun k => k.setid != setid)
    let opens := fun (code : Nat) (body : Bytes) => s.opens m (vendorReq code body) = true
    let sealB := leBytes 32 dxk.toNat ++ leBytes 1 alg.toNat ++ digestBytes imgKey
    let winB := [w] ++ leBytes 8 base.toNat ++ leBytes 8 limit.toNat ++ [rd, wr, en].flatMap (fun b => leBytes 1 b.toNat)
    let joinB := leBytes 8 setid.toNat ++ pub ++ ct ++ wrapped
    s.reaches m = true → s.gaunt.restarting = false →
    (s.tenant m = some q → q < 8 →
      (opens 0x10 sealB → (s.partx q).tdi = .locked → s.partOn q = true → s.resetting q = false → s.residents q = [] →
        does (.seal m dxk alg imgKey) (fun t => (t.partx q).clearing = some .seal ∧ (t.partx q).dxk = dxk ∧
          (t.partx q).imgKey = imgKey ∧ (t.partx q).resets = 0 ∧ (t.partx q).debug = 0 ∧ t.resetting q = true ∧
          Tab.get [] t.keys (2 * q) = drawKeys s.fresh 2 ∧ Tab.get [] t.keys (2 * q + 1) = drawKeys (s.fresh + 2) 2 ∧
          regsBut s t [Reg.partCtl q, Reg.sealStat q, Reg.rotStat q])) ∧
      (opens 0x11 [] → s.sealedPart q = true → (s.partx q).clearing = none → does (.unseal m) (fun t => unseals t q false)) ∧
      (opens 0x12 winB → s.windowTaken w.toNat q = false → does (.setWindow m w base limit rd wr en) (fun t =>
        (t.reg (Reg.hdmaLim w.toNat)).toNat = en.toNat + 2 * rd.toNat + 4 * wr.toNat + 8 * q + limit.toNat / 4096 * 4096 ∧
        regsBut s t [Reg.hdmaBase w.toNat, Reg.hdmaLim w.toNat])) ∧
      (opens 0x13 [] → does (.telemetry m) (fun t => t = { s with out := t.out, gaunt := t.gaunt } ∧
        t.gaunt = { s.gaunt with sess := t.gaunt.sess }))) ∧
    (s.tenant m = none → ∀ i code body, (i, code, body) ∈ ([(.seal m dxk alg imgKey, 0x10, sealB), (.unseal m, 0x11, []),
        (.setWindow m w base limit rd wr en, 0x12, winB), (.telemetry m, 0x13, [])] : List (Instr × Nat × Bytes)) →
      opens code body → exec i s = .next ((s.took m).reply m (.err .unexpected))) ∧
    (∀ cfg, s.session m ≠ none → s.opens m (spdmReq 0xE8 (mgmtBytes (some cfg))) = true →
      (s.operator m = true → MgmtSet.ok cfg = true → ∃ t data wire, exec (.heartbeat m (some cfg)) s = .next t ∧
        t.out = s.out ++ [.spdm (SpdmSrc.place m) (.ok data) wire] ∧ t.loam = s.loam ∧
        t.store = { s.store with mrec := { s.store.mrec with
          ports := cfg.ports, collector := cfg.collector, telPeriod := cfg.telPeriod } } ∧
        (cfg.release = 0 → t.eng = s.eng ∧ t.regs = s.regs) ∧
        (∀ p, t.engine p = { s.engine p with kept := (t.engine p).kept }) ∧
        regsBut s t (Reg.spareSet :: (List.range 52).map Reg.engHealth) ∧
        ∀ p, p < 52 → cfg.release.getLsbD p = true → s.fld (Reg.engHealth p) 2 0 = 4 →
          (∀ c, c < 4 → (s.ctx p c).resident = false) →
          t.fld (Reg.engHealth p) 2 0 = 1 ∧ (t.reg Reg.spareSet).getLsbD p = true ∧ (t.engine p).kept = none) ∧
      (s.operator m = true → MgmtSet.ok cfg = false →
        exec (.heartbeat m (some cfg)) s = .next ((s.took m).reply m (.err .refused))) ∧
      (s.operator m = false → exec (.heartbeat m (some cfg)) s = .next ((s.took m).reply m (.err .unexpected)))) ∧
    (opens 0x30 (leBytes 1 p.val) → s.operator m = true → s.sealedPart p = true → (s.partx p).clearing = none →
      does (.forceUnseal m p) (fun t => unseals t p true)) ∧
    (s.operator m = true ∨ s.tenant m ≠ none →
      (opens 0x14 (record ++ leBytes 1 slot.toNat ++ leBytes 1 p.val) → s.mayServe m p = true → record.length = 64 → 16 ≤ slot.toNat → slot.toNat ≤ 23 → s.keyInUse slot.toNat = false →
        s.setKeys.find? (fun k => k.setid == BitVec.ofNat 64 (record.num 0 8) && k.serves s p) = some sk →
        contentKey sk.sk record = some key →
        does (.unwrap m record slot p) (fun t => Tab.get [] t.keys slot.toNat = [keyOf key] ∧
          Tab.get ⟨0, 0, 0⟩ t.gcmTag slot.toNat = ⟨BitVec.ofNat 64 (record.num 8 8), BitVec.ofNat 64 (record.num 16 8), p⟩ ∧
          t.regs = s.regs)) ∧
      (opens 0x15 (leBytes 1 p.val) → s.mayServe m p = true → s.partOn p = true → s.startRotation p = some t' → does (.rotate m p) (fun t =>
        t.fld (Reg.rotStat p) 1 1 = 1 - s.fld (Reg.rotStat p) 1 1 ∧ regsBut s t [Reg.rotStat p])) ∧
      (opens 0x20 joinB → s.setSecret setid pub ct wrapped = some secret →
        (rest.length < 16 → does (.setJoin m setid pub ct wrapped) (fun t =>
          t.setKeys = rest ++ [⟨setid, keyOf secret, s.tenant m⟩] ∧ t.regs = s.regs)) ∧
        (16 ≤ rest.length → exec (.setJoin m setid pub ct wrapped) s = .next ((s.took m).reply m (.err .noSpace))))) ∧
    (s.management m = true →
      (opens 0x31 ([caE, caQ, mac].flatMap digestBytes) → s.store.owner = none → does (.own m caE caQ mac) (fun t => t.store = { s.store with owner := some ⟨caE, caQ, mac⟩ })) ∧
      (opens 0x31 ([true, true].flatMap (fun b => leBytes 1 b.toNat)) → s.store.owner ≠ none → does (.ownerRelease m true true) (fun t => t.store = { s.store with owner := none } ∧
        ∀ e ∈ t.gaunt.sess, e.2.auth = false)))

/-! ## Operator debug -/

/-- Debug over JTAG, while Gauntlet runs: a halt is requested of every context of its scope for the next period boundary and
counts once for each sealed partition, as a resume does; a resumed or stepped context enters at its own cc of a period, in the
present one if that is still to come; a step's end stops the context again, arming is noted; a read of control state or of a
register answers in the clear, one of sealed data answers ciphertext under the export key, one of other data answers the bytes,
a read counts for each sealed partition that it touches, and every write is refused. No debug request changes a memory or a
context's record. A request over the management port acts as JTAG's once its MAC and its number pass, and does nothing
otherwise; while Gauntlet restarts none is taken. What counts, the address of a space and the owner of bytes are the model's
(log entries 85 to 87). -/
def Obligations.DebugObservesAndNeverWrites : Prop :=
  ∀ (s : State) (sc : DbgScope) (p : PhysE) (c : Place) (n : Nat) (off : BitVec 26) (space : Byte) (addr : W64)
    (len cc q : Nat) (data : List (Byte × Option Nat)) (seq : W64) (ok : Bool),
    let x := s.ctx p c
    let sends := fun (i : Instr) (m : Msg) => exec i s = .next (s.emit m)
    let counted := fun (d : W32) => if d = BitVec.allOnes 32 then d else d + 1
    let all := fun (t : State) (f : Ctx → Ctx) => ∀ j k, t.ctx j k = if (j, k) ∈ s.scope sc then f (s.ctx j k) else s.ctx j k
    let byScope := fun (t : State) => ∀ k, k < 8 → t.partx k =
      if k ∈ s.partsOf (s.scope sc) ∧ s.sealedPart k = true then { s.partx k with debug := counted (s.partx k).debug } else s.partx k
    let asked := fun (n : Nat) (y : Ctx) =>
      let y := { y with dbgReq := false, dbgGo := some n }
      let z := { y with dbgGo := none, dbgHalt := false, dbgSteps := n }
      if y.dbgHalt = true ∧ cc < y.dbgPhase then (if n = 0 then { z with ccHalt := false } else z) else y
    let bs := data.map (fun e => e.1)
    let newer := ∀ k ∈ s.mgmt.dbgSeq, k.toNat < seq.toNat
    let accepted := s.store.owner.isSome = true ∧ ok = true ∧ newer
    let asJtag := fun (f : DbgRoute → Instr) =>
      (accepted → exec (f (.mgmt seq ok)) s = exec (f .jtag) { s with mgmt := { s.mgmt with dbgSeq := some seq } }) ∧
      (¬ accepted → exec (f (.mgmt seq ok)) s = .next s)
    (s.gauntletUp = false → ∀ r, ∀ i ∈ ([.debugHalt r sc, .debugResume r sc cc, .debugStep r p c n cc, .debugArm r p c, .debugReadControl r p c,
      .debugReadRegisters r off, .debugReadData r space addr len, .debugWrite r] : List Instr), exec i s = .next s) ∧
    (s.gauntletUp = true →
    (∃ t, exec (.debugHalt .jtag sc) s = .next t ∧ ContextsOnly s { t with parts := s.parts } ∧
      all t (fun y => { y with dbgReq := true, dbgGo := none }) ∧ byScope t) ∧
    (∃ t, exec (.debugResume .jtag sc cc) s = .next t ∧ ContextsOnly s { t with parts := s.parts } ∧ all t (asked 0) ∧ byScope t) ∧
    (x.resident = true → x.dbgHalt = true → 1 ≤ n → n ≤ 6000 → ∃ t, exec (.debugStep .jtag p c n cc) s = .next t ∧
      CtxOnly s { t with parts := s.parts } p c (asked n x) ∧ (t.partx x.part).debug =
        if s.sealedPart x.part then counted (s.partx x.part).debug else (s.partx x.part).debug) ∧
    (¬ (x.resident = true ∧ x.dbgHalt = true ∧ 1 ≤ n ∧ n ≤ 6000) → sends (.debugStep .jtag p c n cc) .debugRefused) ∧
    (0 < x.dbgSteps → ∃ t, exec (.debugStepEnd p c) s = .next t ∧ CtxOnly s t p c { x with
      dbgHalt := true, dbgSteps := 0, dbgPhase := (x.dbgPhase + x.dbgSteps) % 6000 }) ∧
    (x.resident = true → ∃ t, exec (.debugArm .jtag p c) s = .next t ∧ CtxOnly s t p c { x with dbgArm := true }) ∧
    sends (.debugReadControl .jtag p c) (.debug (Config.layout 40 (s.controlBytes p c))) ∧
    sends (.debugReadRegisters .jtag off) (.debug (s.regBytes off.toNat)) ∧
    (s.debugData space.toNat addr len = none → sends (.debugReadData .jtag space addr len) .debugRefused) ∧
    (s.debugData space.toNat addr len = some data →
      ∃ t, exec (.debugReadData .jtag space addr len) s = .next t ∧ t = { s with parts := t.parts, out := t.out } ∧
        ∀ k, k < 8 → (t.partx k).debug = if data.any (fun e => e.2 == some k) && s.sealedPart k then counted (s.partx k).debug
          else (s.partx k).debug) ∧
    (s.debugData space.toNat addr len = some data → data ≠ [] → (∀ e ∈ data, e.2 = none) →
      sends (.debugReadData .jtag space addr len) (.debug bs)) ∧
    (let ctr := (s.partx q).dbgctr
     let at_ := if 11 ≤ space.toNat then addr &&& BitVec.ofNat 64 (2 ^ 56 - 1) else addr
     s.debugData space.toNat addr len = some data → data ≠ [] → (∀ e ∈ data, e.2 = some q) → q < 8 → s.sealedPart q = true →
      ∃ t, exec (.debugReadData .jtag space addr len) s = .next t ∧ (t.partx q).dbgctr = ctr + 1 ∧
        t.out = s.out ++ [.debug (leBytes 1 space.toNat ++ leBytes 8 at_.toNat ++ leBytes 4 bs.length ++ leBytes 8 ctr.toNat ++
          Config.gcmSeal (s.partx q).dxk (debugNonce q ctr) (s.debugAad q space.toNat at_ bs.length ctr) bs)]) ∧
    sends (.debugWrite .jtag) .debugRefused ∧
    asJtag (fun r => .debugHalt r sc) ∧ asJtag (fun r => .debugResume r sc cc) ∧ asJtag (fun r => .debugStep r p c n cc) ∧
    asJtag (fun r => .debugArm r p c) ∧ asJtag (fun r => .debugReadControl r p c) ∧ asJtag (fun r => .debugReadRegisters r off) ∧
    asJtag (fun r => .debugReadData r space addr len) ∧ asJtag (fun r => .debugWrite r))

/-! ## The network and Tilth -/

/-- A frame with a bad FCS counts and goes nowhere, a PTP message goes to the time unit, a Tilth frame for this module goes to
its half, one for another whose hops have run out is dropped and counted, and one with hops left joins the queue of its route's
egress, one hop on, with its new addresses and, in a queue over K, its congestion mark; a calendar slot starts its source's
oldest frame with its FCS, once a slot and within the transmit cap, and a frame of the module's own that waited. An open half
releases its next packet under the next PSN, to the module itself or into the queue of its egress; an ACK frees the packets it
covers, sets the credit and halves the rate on congestion, and a NAK sends the rest again, and an ACK that frees packets takes a
half in RETRY back to OPEN; a time-out sends again, and after eight, or when LINK_STAT shows the egress down, the half takes its
next path or is lost; the rate rises by one up to its limit; a CONFIRM follows a transfer handed off whole. The time of a slot
is an operand, and the module's own frames wait beside the calendar, by the model's choice (log entries 88, 119). -/
def Obligations.FramesLeaveInOrderAndAreAcknowledged : Prop :=
  ∀ (s : State) (n : PortId) (sub : Bool) (frame : Bytes) (now : W64) (x : TCtx) (k : Pkt) (ks : List Pkt) (a : RxPkt)
    (as : List RxPkt) (fs : List Bytes) (ip : Nat) (v : ProvSend) (vs : List ProvSend),
    let y := x.toNat
    let h := s.sendHalf y
    let e := 2 * n.val + sub.toNat
    let sn := s.at_ now
    let slot := sn.slotAt n sub sn.time.toNat
    let src := dfld (Tab.get [] s.swtab (swKey s.swCopy 2 e (slot % 1024))) 0 1 % 32
    let again := (sn.recentStarts n sub).any (fun z => z.2 && sn.slotAt n sub z.1 == slot)
    let others := fun (t : State) => ∀ j, j ≠ y → t.sendHalf j = s.sendHalf j
    let path := fun (g : SendHalf) => s.route g.dmod g.path
    let opens := fun (w : Nat) => pwValid w = true ∧ s.egressUp (pwPort w) (pwSub w) = true
    let drops := fun (f : Bytes) => s.isTilth f = true ∧ s.fld (Reg.nbr n) 25 24 = 2
    ((s.reg (Reg.rxDrop n)).toNat + 1 < 2 ^ 64 - 1 → ∃ t, exec (.frameReceive n sub false frame) s = .next t ∧
      (t.reg (Reg.rxDrop n)).toNat = (s.reg (Reg.rxDrop n)).toNat + 1 ∧ t = { s with regs := t.regs } ∧ regsBut s t [Reg.rxDrop n]) ∧
    (beNum frame (etherAt frame) 2 = 0x86DD → udpPort frame = some (s.fld Reg.tilthCfg 15 0, ip) →
      ptpAt frame = none → s.idValid = true →
      (parseTilth frame ip = none → exec (.frameReceive n sub true frame) s = .next (s.bump Reg.tilthBadhdr 1)) ∧
      (parseTilth frame ip = some a → beNum frame (ip + 32) 8 = s.ownId →
        exec (.frameReceive n sub true frame) s = .next (s.tilthLocal a)) ∧
      (parseTilth frame ip = some a → beNum frame (ip + 32) 8 ≠ s.ownId → beNum frame (ip + 7) 1 ≤ 1 →
        exec (.frameReceive n sub true frame) s = .next (s.bump (Reg.swDrop n) 1)) ∧
      (let w := s.route (beNum frame (ip + 32) 8) a.path
       let out := 2 * pwPort w + pwSub w
       let held := queueBytes (s.egQueue (2 * pwPort w) n) + queueBytes (s.egQueue (2 * pwPort w + 1) n)
       let room := dfld (Tab.get [] s.swtab (swKey s.swCopy 3 n (pwPort w))) 0 4
       let w0 := beNum frame ip 4
       let ecn := w0 / 2 ^ 20 % 4
       let mark := s.flag Reg.ecnCfg 16 = true ∧ (ecn = 1 ∨ ecn = 2) ∧ 256 * s.fld Reg.ecnCfg 15 0 ≤ held
       let passed := fun (v : Nat) => beBytes 6 (s.fld (Reg.portNhmac (pwPort w) (pwSub w)) 47 0) ++ s.srcMac out ++
        (frame.take ip).drop 12 ++ beBytes 4 v ++ (frame.drop (ip + 4)).take 3 ++ beBytes 1 (beNum frame (ip + 7) 1 - 1) ++
        frame.drop (ip + 8)
       parseTilth frame ip = some a → beNum frame (ip + 32) 8 ≠ s.ownId → 1 < beNum frame (ip + 7) 1 → pwValid w = true →
        (room < held + frame.length → exec (.frameReceive n sub true frame) s = .next (s.bump (Reg.swDrop n) 1)) ∧
        (held + frame.length ≤ room → ∃ t, exec (.frameReceive n sub true frame) s = .next t ∧
          t = { s with egq := t.egq, regs := t.regs } ∧
          (¬ mark → t.regs = s.regs ∧ t.egQueue out n = s.egQueue out n ++ [passed w0]) ∧
          (mark → t.egQueue out n = s.egQueue out n ++ [passed (w0 + (3 - ecn) * 2 ^ 20)] ∧ regsBut s t [Reg.ecnMark (pwPort w)] ∧
            ((s.reg (Reg.ecnMark (pwPort w))).toNat + 1 < 2 ^ 64 - 1 →
              (t.reg (Reg.ecnMark (pwPort w))).toNat = (s.reg (Reg.ecnMark (pwPort w))).toNat + 1))))) ∧
    (∀ at_, beNum frame (etherAt frame) 2 ≠ 0x88CC → ptpAt frame = some at_ → ∃ t, exec (.frameReceive n sub true frame) s = .next t ∧
      t = { s with ptp := t.ptp } ∧ (beNum frame at_ 1 % 16 = 0 → (Tab.get {} t.ptp e).syncRx = some (frame.drop at_, s.time)) ∧
      (beNum frame at_ 1 % 16 = 1 → (Tab.get {} t.ptp e).reqRx = some (frame.drop at_, s.time))) ∧
    (s.egQueue e src = frame :: fs → ¬ drops frame → src ≤ 20 → again = false → sn.mayStart n sub = true → (src = 20 → s.flag Reg.hvpCfg 0 = true) →
      s.egQueue e ownSrc = [] → ∃ t, exec (.calendarSlot n sub now) s = .next t ∧
        t.out = s.out ++ [.frame n sub (withFcs frame)] ∧ t.egQueue e src = fs ∧ t.time = sn.time ∧
        t.regs = s.regs ∧ t.eng = s.eng ∧ t.loam = s.loam) ∧
    (s.egQueue e src = frame :: fs → drops frame → s.egQueue e ownSrc = [] → ∃ t, exec (.calendarSlot n sub now) s = .next t ∧
      t = { sn with egq := t.egq } ∧ t.egQueue e src = fs) ∧
    (s.egQueue e src = [] ∨ ((∀ f ∈ s.egQueue e src, ¬ drops f) ∧
        (20 < src ∨ again = true ∨ sn.mayStart n sub = false ∨ (src = 20 ∧ s.flag Reg.hvpCfg 0 = false))) →
      (s.egQueue e ownSrc = [] ∨ sn.mayStart n sub = false → exec (.calendarSlot n sub now) s = .next sn) ∧
      (s.egQueue e ownSrc = frame :: fs → sn.mayStart n sub = true → ∃ t, exec (.calendarSlot n sub now) s = .next t ∧
        t.out = s.out ++ [.frame n sub (withFcs frame)] ∧ t.egQueue e ownSrc = fs ∧ t.regs = s.regs ∧ t.eng = s.eng)) ∧
    (let w := path h
     let num := if k.typ = 1 then k.chunk else 0
     let tok := if k.typ = 1 ∧ k.eot = false then (0 : Tok) else k.tok
     let flags := k.prov.toNat + 2 * k.eoc.toNat + 4 * k.eot.toNat
     h.todo = k :: ks → h.sstate = 1 → k.typ ≠ 2 → h.dmod = s.ownId ∨ (pwValid w = true ∧ s.idValid = true) → ∃ t,
      exec (.packetRelease x) s = .next t ∧ t.sendHalf y =
        { h with todo := ks, npsn := (h.npsn + 1) % 2 ^ 24, infl := h.infl + 1, unacked := h.unacked ++ [{ k with psn := h.npsn }] } ∧
      others t ∧ t.eng = s.eng ∧ t.regs = s.regs ∧
      (if h.dmod = s.ownId then ∃ m, Tab.get [] t.tilthIn (s.internalPort (s.recvHalf h.dctx)) =
          Tab.get [] s.tilthIn (s.internalPort (s.recvHalf h.dctx)) ++ [m] ∧ m.psn = h.npsn ∧ m.dctx = h.dctx ∧ m.data = k.data
       else t.egQueue (2 * pwPort w + pwSub w) (16 + k.src) = s.egQueue (2 * pwPort w + pwSub w) (16 + k.src) ++
        [s.tilthFrame w h.dmod (tilthHeader k.typ flags k.data.length s.ownId h.path h.dmod y h.dctx h.npsn num tok.toNat 0) k.data])) ∧
    (let g := s.sendHalf a.dctx
     let rest := g.unacked.filter (fun u => !decide ((a.apsn + 2 ^ 24 - u.psn) % 2 ^ 24 < 2 ^ 23))
     let due := match g.cut with | none => true | some u => decide (12000 ≤ (s.time - u).toNat)
     s.ackIn = a :: as → g.sstate = 1 ∨ g.sstate = 2 → (a.nak = true → g.dmod ≠ s.ownId ∧ pwValid (path g) = true) → ∃ t,
      exec .tilthAckReceive s = .next t ∧ t.ackIn = as ∧ (t.sendHalf a.dctx).credit = a.grant ∧ (t.sendHalf a.dctx).unacked = rest ∧
      (t.sendHalf a.dctx).sstate = (if rest.length < g.unacked.length then 1 else g.sstate) ∧
      (t.sendHalf a.dctx).retries = (if rest.length < g.unacked.length then 0 else g.retries) ∧
      (t.sendHalf a.dctx).rate = (if a.ceEcho && due then max 1 ((g.rate + 1) / 2) - 1 else g.rate) ∧
      (∀ j, j ≠ a.dctx → t.sendHalf j = s.sendHalf j) ∧ (a.nak = false → t.regs = s.regs) ∧
      (a.nak = true → (s.reg Reg.tilthRetx).toNat + rest.length < 2 ^ 64 - 1 →
        (t.reg Reg.tilthRetx).toNat = (s.reg Reg.tilthRetx).toNat + rest.length)) ∧
    (h.unacked ≠ [] → h.sstate = 1 ∨ (h.sstate = 2 ∧ h.retries < 8) → h.dmod = s.ownId ∨ pwValid (path h) = true →
      ∃ t, exec (.retransmitTimeout x) s = .next t ∧
      t.sendHalf y = { h with sstate := 2, retries := if h.sstate = 1 then 1 else h.retries + 1 } ∧ others t) ∧
    (h.unacked ≠ [] → h.sstate = 2 → 8 ≤ h.retries →
      (2 ≤ h.path → ∃ t, exec (.retransmitTimeout x) s = .next t ∧ t.sendHalf y = { h with sstate := 3 } ∧ others t) ∧
      (h.path < 2 → h.dmod = s.ownId ∨ opens (s.route h.dmod (h.path + 1)) → ∃ t, exec (.retransmitTimeout x) s = .next t ∧
        t.sendHalf y = { h with path := h.path + 1, retries := 0, sstate := 2 } ∧ others t)) ∧
    (s.egressUp n sub.toNat = true → exec (.egressDown n sub) s = .next s) ∧
    (s.egressUp n sub.toNat = false → (s.send.map (·.1)).Nodup → ∃ t, exec (.egressDown n sub) s = .next t ∧ t.loam = s.loam ∧
      t.eng = s.eng ∧ ∀ j,
      let g := s.sendHalf j
      let hit := (g.sstate = 1 ∨ g.sstate = 2) ∧ g.dmod ≠ s.ownId ∧ pwPort (path g) = n ∧ pwSub (path g) = sub.toNat
      (¬ hit → t.sendHalf j = g) ∧ (hit → 2 ≤ g.path → t.sendHalf j = { g with sstate := 3 }) ∧
      (hit → g.path < 2 → opens (s.route g.dmod (g.path + 1)) →
        t.sendHalf j = { g with path := g.path + 1, retries := 0, sstate := 2 })) ∧
    (h.sstate ≠ 0 → ∃ t, exec (.rateIncrease x) s = .next t ∧ t = { s with send := t.send } ∧ others t ∧
      t.sendHalf y = { h with rate := min 63 (h.rate + 1) }) ∧
    (h.provs = v :: vs → v.whole = true → s.checksDue v.p v.c = false → (s.ctx v.p v.c).rep ≠ .restoring →
      ∃ t, exec (.confirmSend x) s = .next t ∧ t = { s with send := t.send } ∧ others t ∧
      t.sendHalf y = { h with provs := vs, todo := h.todo ++ [{ typ := 3, tok := BitVec.ofNat 16 (tokId v.tok % 2048), src := dieOf v.p }] })

/-- A DATA packet in sequence joins its chunk, and one that ends it puts the chunk in the half's list; a duplicate counts
and is acknowledged again, an early packet is answered by a NAK, and a bad check value counts and changes no half. A chunk
of a queue is stored at ring slot WR mod SIZE when a slot is free, and WR follows; of a queue that several senders share, the
chunk of the sender whose turn it is under STRICT, the first that was complete otherwise, and the turn passes to the next sender
that has not ended. A chunk of an EXPERT exchange follows the bytes placed, first in the row buffer and then in the overflow
region, in the order of the senders under STRICT and of completion otherwise; the last end marker brings the count word and the
descriptor's token, and a discarded exchange brings neither. One of a DIRECT half lands at its place in Loam, with WR too. An end
chunk delivers its token; into held bytes of the context none lands and the context faults. CONFIRM delivers
its token; RETRACT takes back its transfer and starts a replay of its target. An ACK is sent for what is owed and for a rise of the
grant. The slots of a queue and a rewind are
the model's readings (log entries 23, 24), a producer's wait behind its token (log entry 102), and the stream write slots that
bytes of Loam wait for (log entry 138). -/
def Obligations.TilthReceivesInSequence : Prop :=
  ∀ (s : State) (i : Fin 4) (k : RxPkt) (ks : List RxPkt) (x : TCtx) (r : RxChunk) (rs : List RxChunk) (p c o u : Nat),
    let h := s.recvHalf k.dctx
    let y := x.toNat
    let g := s.recvHalf y
    let d := s.sandBytes p c o 64
    let front := Tab.get [] s.tilthIn i = k :: ks
    let ahead := (k.psn + 2 ^ 24 - h.epsn) % 2 ^ 24
    let inOrder := front ∧ k.crcOk = true ∧ h.rstate = 1 ∧ (k.prov = false ∨ h.kind = 1)
    let told := fun (w : NetTag) (pr : Producer) (v : Tok) (z : Ctx) =>
      (if tokClass v = 3 ∧ v ≠ 0 then { z with netTags := z.netTags ++ [w] } else z).deliver pr v
    let others := fun (t : State) => ∀ j, j ≠ k.dctx → t.recvHalf j = s.recvHalf j
    (inOrder → ahead = 0 → k.typ = 1 → ∃ t, exec (.tilthDataReceive i) s = .next t ∧ Tab.get [] t.tilthIn i = ks ∧
      (t.recvHalf k.dctx).done = h.done ++ (if k.eoc then [⟨s.fresh, h.buf ++ k.data, k.eot, k.tok, k.prov, h.xferNo⟩] else []) ∧
      (t.recvHalf k.dctx).buf = (if k.eoc then [] else h.buf ++ k.data) ∧ (t.recvHalf k.dctx).epsn = (h.epsn + 1) % 2 ^ 24 ∧
      (t.recvHalf k.dctx).ackpend = true ∧ others t ∧ t.eng = s.eng ∧ t.regs = s.regs) ∧
    (inOrder → 2 ^ 23 ≤ ahead → k.typ = 1 → (s.reg Reg.tilthDup).toNat + 1 < 2 ^ 64 - 1 → ∃ t,
      exec (.tilthDataReceive i) s = .next t ∧ (t.reg Reg.tilthDup).toNat = (s.reg Reg.tilthDup).toNat + 1 ∧
      t.recvHalf k.dctx = { h with ackpend := true, raised := false, path := k.path } ∧ others t ∧ t.eng = s.eng) ∧
    (inOrder → 0 < ahead → ahead < 2 ^ 23 → k.typ = 1 → ∃ t, exec (.tilthDataReceive i) s = .next t ∧
      t.recvHalf k.dctx = { h with ackpend := true, nak := true, raised := false, path := k.path } ∧ others t ∧
      t.eng = s.eng ∧ t.regs = s.regs) ∧
    (front → k.typ = 1 → k.crcOk = false → (s.reg (Reg.cuffRxfail i)).toNat + 1 < 2 ^ 64 - 1 → ∃ t,
      exec (.tilthDataReceive i) s = .next t ∧ (t.reg (Reg.cuffRxfail i)).toNat = (s.reg (Reg.cuffRxfail i)).toNat + 1 ∧
      t.recv = s.recv ∧ t.eng = s.eng) ∧
    (let slot := rdBase d + rdWr d % rdSize d * 65536
     let first := rdFirst d
     let n := rdSenders d
     let e := Tab.get ({} : Exch) s.exch first
     let ended := fun (i : Nat) => (s.recvHalf (first + i)).ended || (first + i == y && r.eot)
     let turn := (s.strict = true ∧ first + e.turn = y ∧ (e.begun = true ∨ ∀ i, i < n → (s.recvHalf (first + i)).done ≠ [])) ∨
       (s.strict = false ∧ ∀ i, i < n → ∀ j ∈ (s.recvHalf (first + i)).done.head?, r.stamp ≤ j.stamp)
     g.done = r :: rs → g.rstate = 1 → s.stuck (.tilth y) = false → g.kind = 0 → s.recvTarget g = some (p, c, o) →
      (rdSize d ≤ rdWr d - rdRd d ∨ (1 < n ∧ ¬ turn) → exec (.chunkPlacement x .ok) s = .next s) ∧
      (0 < rdSize d → rdWr d - rdRd d < rdSize d → (n ≤ 1 ∨ turn) →
       ((s.ctx p c).holds 0 slot r.data.length = true → (s.ctx p c).st = .running → (s.ctx p c).shadow = false → ∃ t,
        exec (.chunkPlacement x .ok) s = .next t ∧
        (t.ctx p c).st = .halted ∧ (t.ctx p c).fault = fHeld ∧ t.recv = s.recv ∧ (t.engine p).sand = (s.engine p).sand) ∧
       ((s.ctx p c).holds 0 slot r.data.length = false → (s.engine p).sand.wf = true → rdWr d + 1 < 2 ^ 64 →
        rdBase d + rdSize d * 65536 ≤ o → r.data.length ≤ 65536 → ∃ t, exec (.chunkPlacement x .ok) s = .next t ∧
        t.sandBytes p c slot r.data.length = r.data ∧ t.sandBytes p c (o + 48) 8 = leBytes 8 (rdWr d + 1) ∧
        (t.recvHalf y).done = rs ∧ (t.recvHalf y).placed = g.placed + 1 ∧
        t.ctx p c = (if r.eot then told ⟨y, r.xfer, r.prov⟩ (.tilth y) r.tok (s.ctx p c) else s.ctx p c) ∧
        (t.engine p).silt = (s.engine p).silt ∧ t.loam = s.loam ∧
        (∀ j, j ≠ p → s.mirror p c ≠ some j → t.engine j = s.engine j) ∧
        (1 < n → first ≤ y → y < first + n →
          ((∀ i, i < n → ended i = true) → Tab.get ({} : Exch) t.exch first = {} ∧
            ∀ i, i < n → (t.recvHalf (first + i)).ended = false ∧ (t.recvHalf (first + i)).bytes = 0) ∧
          (∀ k, k < n → ended ((y - first + 1 + k) % n) = false → (∀ l, l < k → ended ((y - first + 1 + l) % n) = true) →
            Tab.get ({} : Exch) t.exch first = { e with begun := true, turn := (y - first + 1 + k) % n }))))) ∧
    (let first := rdFirst d
     let n := rdSenders d
     let e := Tab.get ({} : Exch) s.exch first
     let cap := rdSize d * rdRowb d
     let room := (rdSize d + dfld d 24 4) * rdRowb d
     let at_ := rdBase d + e.bytes
     let inBuf := r.data.take (cap - e.bytes)
     let past := (r.data.drop (cap - e.bytes)).take (room - max cap e.bytes)
     let ovf := dfld d 16 8 % 2 ^ 40 + (max cap e.bytes - cap)
     let bytes := e.bytes + r.data.length
     let bad := e.bad = true ∨ room < bytes ∨ (r.eot = true ∧ (rdRowb d = 0 ∨ (g.bytes + r.data.length) % rdRowb d ≠ 0))
     let ends := r.eot = true ∧ ∀ i, i < n → first + i = y ∨ (s.recvHalf (first + i)).ended = true
     let turn := (s.strict = true ∧ first + e.turn = y) ∨
       (s.strict = false ∧ ∀ i, i < n → ∀ j ∈ (s.recvHalf (first + i)).done.head?, r.stamp ≤ j.stamp)
     let cw := dfld d 12 4
     let was := s.ctx p c
     let mine := if r.eot then told ⟨y, r.xfer, r.prov⟩ (.tilth y) r.tok was else was
     g.done = r :: rs → g.rstate = 1 → s.stuck (.tilth y) = false → g.kind = 2 → s.recvTarget g = some (p, c, o) →
      (¬ turn → exec (.chunkPlacement x .ok) s = .next s) ∧
      (turn → first ≤ y → y < first + n → g.ended = false → past = [] ∨ s.writerReach was.part 62 2 ovf past.length = true →
       s.epochMeets ovf past.length = false → was.hranges = [] → (s.engine p).sand.wf = true → s.loam.wf = true →
       rdWr d + 1 < 2 ^ 64 → rdBase d + cap ≤ o → o + 64 ≤ cw → ∃ t, exec (.chunkPlacement x .ok) s = .next t ∧
        t.sandBytes p c at_ inBuf.length = inBuf ∧ t.loamBytes ovf past.length = past ∧
        t.sandBytes p c (o + 48) 8 = leBytes 8 (rdWr d + 1) ∧ (t.recvHalf y).done = rs ∧ (t.recvHalf y).placed = g.placed + 1 ∧
        (¬ bad → ¬ ends → t.ctx p c = mine) ∧ (bad → t.ctx p c = was ∧ t.sandBytes p c cw 8 = s.sandBytes p c cw 8) ∧
        (¬ ends → Tab.get ({} : Exch) t.exch first = { begun := true, bytes := bytes, bad := decide bad
                                                       turn := if r.eot then e.turn + 1 else e.turn }) ∧
        (ends → Tab.get ({} : Exch) t.exch first = {}) ∧
        (ends → ¬ bad → t.sandBytes p c cw 8 = leBytes 8 (bytes / rdRowb d) ∧
          t.ctx p c = told {} (.tilth y) (BitVec.ofNat 16 (dfld d 36 2)) mine))) ∧
    (g.done = r :: rs → g.rstate = 1 → s.stuck (.tilth y) = false → g.kind ≤ 2 → s.recvTarget g = some (p, c, o) →
      (s.ctx p c).st = .running → (s.ctx p c).shadow = false → (s.ctx p c).going = false → ∃ t,
      exec (.chunkPlacement x (.uncorrectable u none)) s = .next t ∧ t.recv = s.recv ∧ t.loam = s.loam ∧
      (if (s.ctx p c).holds 0 (sramAt 0 o 64 u) 8 then (t.ctx p c).st = .halted else (t.ctx p c).rep = .restoring)) ∧
    (let ga := dfld d 16 8
     let off := gaOff ga + g.placed % 65536 * 65536
     g.done = r :: rs → g.rstate = 1 → s.stuck (.tilth y) = false → g.kind = 1 → s.recvTarget g = some (p, c, o) →
       s.gaBad (s.ctx p c).part ga = none →
      gaTier ga = 2 → s.gaRangeOk (s.ctx p c).part 2 off r.data.length = true → s.loam.wf = true →
      (s.ctx p c).holds 2 off r.data.length = false → s.writerReach (s.ctx p c).part 62 2 off r.data.length = true → s.epochMeets off r.data.length = false → (s.engine p).sand.wf = true → ∃ t,
      exec (.chunkPlacement x .ok) s = .next t ∧ t.loamBytes off r.data.length = r.data ∧
      (∀ b, (b < off ∨ off + r.data.length ≤ b) → t.loamBytes b 1 = s.loamBytes b 1) ∧
      (t.recvHalf y).done = rs ∧ (t.recvHalf y).placed = g.placed + 1 ∧
      t.sandBytes p c (o + 48) 8 = leBytes 8 (rdWr d + 1) ∧
      t.ctx p c = (if r.eot then told ⟨y, r.xfer, r.prov⟩ (.tilth y) r.tok (s.ctx p c) else s.ctx p c) ∧
      ∀ j, j ≠ p → s.mirror p c ≠ some j → t.engine j = s.engine j) ∧
    (inOrder → ahead = 0 → k.typ = 3 → s.stuck (.tilth k.dctx) = false → s.recvTarget h = some (p, c, o) →
      ∃ t, exec (.tilthConfirmReceive i) s = .next t ∧
      t.ctx p c = (s.ctx p c).deliver (.tilth k.dctx) (mkTok 6 (tokId k.tok % 2048)) ∧ Tab.get [] t.tilthIn i = ks ∧ t.regs = s.regs) ∧
    (inOrder → ahead = 0 → k.typ = 4 → s.stuck (.tilth k.dctx) = false → s.recvTarget h = some (p, c, o) →
      let was := s.ctx p c
      (was.shadow = false → was.going = false → was.st ≠ .free → was.st ≠ .halted → was.st ≠ .ended → ∃ t,
        exec (.tilthRetractReceive i) s = .next t ∧ (t.ctx p c).rep = .restoring ∧
        (t.ctx p c).xfers = (was.xfers.filter Xfer.begun).map (fun f => { f with dead := true }) ++ was.xfers.filter Xfer.owed ∧
        Tab.get [] t.tilthIn i = ks ∧ t.loam = s.loam) ∧
      (∀ v m, h.provs.find? (fun f => tokId f.1 % 2048 == tokId k.tok % 2048) = some (v, u, m) → was.shadow = false → ∃ t,
        exec (.tilthRetractReceive i) s = .next t ∧ (t.recvHalf k.dctx).echunk = (h.echunk + 65536 - u % 65536) % 65536 ∧
        (t.recvHalf k.dctx).done = h.done.filter (fun f => f.xfer != m) ∧
        (t.recvHalf k.dctx).placed = h.placed - (u - (h.done.filter (fun f => f.xfer == m)).length) ∧
        ∀ f ∈ (t.ctx p c).netTags, ¬ (f.prov = true ∧ f.x = k.dctx ∧ f.xfer = m))) ∧
    (let grant := s.grantOf g
     let apsn := (g.epsn + 2 ^ 24 - 1) % 2 ^ 24
     let w := s.route g.pmod g.path
     let q := s.internalPort g
     let up := (grant + 65536 - g.grant) % 65536
     let rise := decide (0 < up ∧ up < 32768)
     (g.rstate = 1 → g.ackpend = false → g.raised = false → rise = false → exec (.ackSend x) s = .next s) ∧
     (g.rstate = 1 → g.ackpend = true ∨ rise = true ∨ g.raised = true → ∃ t, exec (.ackSend x) s = .next t ∧
      t.recvHalf y = { g with ackpend := false, ce := false, nak := false, grant := grant, raised := rise || (g.raised && grant == g.grant) } ∧
      (∀ j, j ≠ y → t.recvHalf j = s.recvHalf j) ∧ t.eng = s.eng ∧ t.regs = s.regs ∧
      (g.pmod = s.ownId → ∃ m, t.ackIn = s.ackIn ++ [m] ∧ m.apsn = apsn ∧ m.grant = grant ∧ m.nak = g.nak ∧ m.ceEcho = g.ce ∧
        m.dctx = g.pctx) ∧
      (g.pmod ≠ s.ownId → s.idValid = true → pwValid w = true → t.egQueue (2 * pwPort w + pwSub w) (16 + q) =
        s.egQueue (2 * pwPort w + pwSub w) (16 + q) ++ [s.tilthFrame w g.pmod
          (tilthHeader 2 (8 * g.ce.toNat + 16 * g.nak.toNat) 0 s.ownId g.path g.pmod y g.pctx 0 apsn 0 grant) []])))

/-- The reduction engine sends the fold of every sender's chunk at a position, in sender order under STRICT and in order of
arrival otherwise, on each of its OUT contexts, and ends the fold after the last position; chunks of unequal length or end marks
discard the exchange; a first mismatch of its copies is noted and the position folded again, and a second drops the exchange. A
broadcast context hands each chunk, unchanged and with its end mark and token, to every OUT context once all have room. A relay
chain takes a complete record, hands the oldest one on, and gives a kept record that opens to its place in Loam, counted
in the slot's progress; the last one makes the slot READY; one that does not open sets the slot's flag and stores nothing, and
where a running context holds the bytes it faults and nothing lands. That a tag opens is a free value (log entry 80),
what a relay's delivery meets is the model's reading (log entries 121, 122), and so is that it waits for its stream write slots
(log entry 138). -/
def Obligations.ReductionsAndRelaysHandOn : Prop :=
  ∀ (s : State) (entry : BitVec 12) (k : Fin 8) (ks ord : List RxChunk) (len : Nat) (bx : TCtx) (a : RxChunk)
    (as : List RxChunk) (r : RelayRec) (l : List RelayRec),
    let e := entry.toNat
    let d := s.pdEntry e
    let x := dfld d 8 4
    let n := dfld d 4 4
    let op := dfld d 0 1
    let f := Tab.get ({} : Fold) s.folds e
    let last := f.pos + 1 = dfld d 12 4
    let here := 0 < n ∧ ks.length = n ∧ ∀ i, i < n → (s.recvHalf (x + i)).done.head? = ks[i]?
    let alike := op < 2 ∧ (last → len = dfld d 16 4) ∧ ∀ c ∈ ks, c.data.length = len ∧ c.eot = decide last
    let ordered := if s.strict then ord = ks else (ks.map (·.stamp)).Nodup ∧ ord.Perm ks ∧
      ord.Pairwise (fun b c => b.stamp ≤ c.stamp)
    let res := match ord with | [] => [] | c :: cs => cs.foldl (fun v b => foldChunk op v b.data) c.data
    let dropped := fun (t : State) => t.folds = s.folds.del e ∧ (∀ i, i < n → (t.recvHalf (x + i)).done = []) ∧
      t.send = s.send ∧ t.eng = s.eng
    let y := s.fld (Reg.relayA k) 27 8
    let g := s.recvHalf y
    let out := s.fld (Reg.relayA k) 47 28
    let settled := ∀ r ∈ l, r.fwd || r.keep
    ((∃ i, i < n ∧ (s.recvHalf (x + i)).done = []) → ∀ u, exec (.reductionFold entry u) s = .next s) ∧
    (here → alike → ordered → (pdOuts d).Nodup → s.outsRoom d res.length = true → ∃ t, exec (.reductionFold entry false) s = .next t ∧
      (∀ o, t.sendHalf o = if o ∈ pdOuts d then
        (s.sendHalf o).hand 2 false (decide last) (BitVec.ofNat 16 (dfld d 30 2)) res else s.sendHalf o) ∧
      (∀ i, i < n → (t.recvHalf (x + i)).done = (s.recvHalf (x + i)).done.drop 1 ∧
        (t.recvHalf (x + i)).placed = (s.recvHalf (x + i)).placed + 1) ∧
      Tab.get ({} : Fold) t.folds e = (if last then {} else { pos := f.pos + 1 }) ∧
      t = { s with send := t.send, recv := t.recv, folds := t.folds }) ∧
    (here → alike → ordered → s.outsRoom d res.length = false → exec (.reductionFold entry false) s = .next s) ∧
    (here → (last → len = dfld d 16 4) → (¬ last → ∀ c ∈ ks.head?, len = c.data.length) →
      2 ≤ op ∨ (∃ c ∈ ks, c.data.length ≠ len ∨ c.eot ≠ decide last) →
      ∀ u, ∃ t, exec (.reductionFold entry u) s = .next t ∧ dropped t) ∧
    (here → alike → f.missed = false → ∃ t, exec (.reductionFold entry true) s = .next t ∧
      (Tab.get ({} : Fold) t.folds e).missed = true ∧ (Tab.get ({} : Fold) t.folds e).pos = f.pos ∧
      t.recv = s.recv ∧ t.send = s.send ∧ t.eng = s.eng) ∧
    (here → alike → f.missed = true → ∃ t, exec (.reductionFold entry true) s = .next t ∧ dropped t) ∧
    (let z := bx.toNat
     let h := s.recvHalf z
     let outs := s.pdEntry (h.target % 4096)
     h.done = a :: as → h.rstate = 1 → h.kind = 5 → s.stuck (.tilth z) = false → (pdOuts outs).Nodup → ∀ err,
      (s.outsRoom outs a.data.length = false → exec (.chunkPlacement bx err) s = .next s) ∧
      (s.outsRoom outs a.data.length = true → ∃ t, exec (.chunkPlacement bx err) s = .next t ∧
        (∀ o, t.sendHalf o = if o ∈ pdOuts outs then (s.sendHalf o).hand 3 false a.eot a.tok a.data else s.sendHalf o) ∧
        (t.recvHalf z).done = as ∧ (t.recvHalf z).placed = h.placed + 1 ∧ (∀ j, j ≠ z → t.recvHalf j = s.recvHalf j) ∧
        t = { s with send := t.send, recv := t.recv })) ∧
    (let fwd := !s.flag (Reg.relayA k) 1
     let keep := decide (s.fld (Reg.relayB k) 31 0 ≤ dfld a.data 16 8) && decide (dfld a.data 16 8 < s.fld (Reg.relayB k) 63 32)
     g.done = a :: as → s.flag (Reg.relayA k) 0 = true → g.rstate = 1 → g.kind = 4 → g.target % 8 = k.val → s.relayBuf k = l →
      l.length < 4 → settled → ∃ t, exec (.relayRecordComplete k) s = .next t ∧ (t.recvHalf y).done = as ∧
      t.relayBuf k = l ++ (if fwd || keep then [⟨a.data, fwd, keep⟩] else []) ∧ t = { s with relay := t.relay, recv := t.recv }) ∧
    (s.relayBuf k = r :: l → settled → r.fwd = true → (s.sendHalf out).sstate = 1 ∨ (s.sendHalf out).sstate = 2 →
      (s.sendHalf out).room r.data.length = true → ∃ t, exec (.relayForward k) s = .next t ∧
      t.sendHalf out = (s.sendHalf out).hand 3 false false 0 r.data ∧
      t.relayBuf k = (if r.keep then [{ r with fwd := false }] else []) ++ l ∧
      t = { s with relay := t.relay, recv := t.recv, send := t.send }) ∧
    (let n := s.fld (Reg.relayA k) 3 2
     let ep := Tab.get ({} : Epoch) s.eps n
     let i := dfld r.data 16 8
     let m := dfld r.data 24 4
     let nexp := s.fld (Reg.epsProg n) 63 32
     let ver := s.fld (Reg.epsProg n) 31 0
     let dest := ep.dest + (i - ep.first) * 65536
     let meets := s.relayBuf k = r :: l ∧ settled ∧ r.keep = true ∧ s.epState n = 1 ∧ dfld r.data 0 8 = ep.bundle.toNat ∧
      dfld r.data 8 8 = (s.reg (Reg.epsId n)).toNat ∧ ep.first ≤ i ∧ i < ep.first + nexp ∧
      (m = 65536 ∨ (i + 1 = ep.first + nexp ∧ 0 < m ∧ m < 65536))
     let left := fun (t : State) => t.relayBuf k = (if r.fwd then [{ r with keep := false }] else []) ++ l
     (meets → i ∉ ep.got → s.loam.wf = true → ∃ t, exec (.bundleChunkVerify k false) s = .next t ∧
      match Config.gcmOpen (s.gcmKey ep.key) ((r.data.drop 28).take 4 ++ (r.data.drop 16).take 8) (r.data.take 32)
        ((r.data.drop 32).take m) ((r.data.drop (32 + m)).take 16) with
      | some plain =>
        let q := s.fld (Reg.epsStat n) 5 3
        let held := s.loamHolders q dest plain.length
        (s.writerReach q 63 2 dest plain.length = false → t = s) ∧
        (s.writerReach q 63 2 dest plain.length = true → left t ∧
         (held ≠ [] → t.loam = s.loam ∧ t.eps = s.eps ∧ ∀ kc ∈ held, (s.ctx kc.1 kc.2).shadow = false →
           (t.ctx kc.1 kc.2).st = .halted ∧ (t.ctx kc.1 kc.2).fault = fHeld) ∧
         (held = [] → s.epochMeets dest plain.length = false → t.loamBytes dest plain.length = plain ∧
          (∀ b, (b < dest ∨ dest + plain.length ≤ b) → t.loamBytes b 1 = s.loamBytes b 1) ∧
          (ver + 1 < nexp → t.fld (Reg.epsProg n) 31 0 = ver + 1 ∧ (Tab.get ({} : Epoch) t.eps n).got = i :: ep.got ∧
            regsBut s t [Reg.epsProg n]) ∧
          (ver + 1 = nexp → t.epState n = 2 ∧ ∀ kv ∈ t.keys, kv.1 ≠ ep.key)))
      | none => left t ∧ t.flag (Reg.epsStat n) 28 = true ∧ t.loam = s.loam ∧ t.eps = s.eps ∧ regsBut s t [Reg.epsStat n]) ∧
     (meets → ∃ t, exec (.bundleChunkVerify k true) s = .next t ∧ t.flag (Reg.epsStat n) 28 = true ∧ t.loam = s.loam ∧
      t.eps = s.eps ∧ regsBut s t [Reg.epsStat n]))

/-! ## Management -/

/-- A record that Gauntlet receives is numbered, logged and sent, with its copy for its partition's event ring, and kept
until the collector returns its number; with 4,096 kept it is discarded and counted; a kept one can be sent again. A
neighbour's frame sets NBR of its port and its expiry clears HEARD; a telemetry datagram goes out once a period has passed, and
before that none; the log keeps its newest 512 MiB;
LLDP frames and PTP messages go to their egress under its transmit cap, where a frame that may not start waits, and a Sync,
Delay_Req or Announce takes the next sequence number. The order of records, the waiting frames and the bytes of other
standards are the model's (log entries 83, 84, 119, 120). -/
def Obligations.RecordsAndNeighboursAreReported : Prop :=
  ∀ (s : State) (n : PortId) (x : Neighbour) (seq now : W64) (b : Nat) (r : ErrRec) (rs : List ErrRec) (dg f : Bytes)
    (sub : Bool) (typ : PtpType),
    let record := recordBytes r s.mgmt.seq s.time s.store.owner.isNone
    let told : State := { s.at_ now with mgmt := { s.mgmt with lastTel := some now } }
    let sent : State := { s with
      recBuf := s.recBuf.set b rs
      mgmt := { s.mgmt with seq := s.mgmt.seq + 1, unacked := s.mgmt.unacked ++ [(s.mgmt.seq, s.recordDatagram record)] }
      store := { s.store with log := ringPush logCap s.store.log record }
      out := s.out ++ [.mgmt (.record (s.recordDatagram record))] }
    s.gauntletUp = true →
    (s.nextRecord = some (b, r, rs) → s.mgmt.unacked.length < 4096 →
      exec .errorRecordSend s = .next (sent.hostCopy r s.mgmt.seq s.store.owner.isNone) ∧
      ((∀ q ∈ r.part, s.flag Reg.errCfg q = false) → exec .errorRecordSend s = .next sent)) ∧
    (s.nextRecord = some (b, r, rs) → 4096 ≤ s.mgmt.unacked.length → (s.reg Reg.errLost).toNat + 1 < 2 ^ 64 - 1 → ∃ t,
      exec .errorRecordSend s = .next t ∧ (t.reg Reg.errLost).toNat = (s.reg Reg.errLost).toNat + 1 ∧ regsBut s t [Reg.errLost] ∧
      t = { s with regs := t.regs, recBuf := s.recBuf.set b rs, mgmt := { s.mgmt with seq := s.mgmt.seq + 1 } }) ∧
    (s.mgmt.unacked.find? (fun e => e.1 == seq) = some (seq, dg) →
      exec (.recordResend seq) s = .next { s with out := s.out ++ [.mgmt (.record dg)] }) ∧
    (exec (.collectorAck seq) s = .next
      { s with mgmt := { s.mgmt with unacked := s.mgmt.unacked.filter (fun e => e.1 != seq) } }) ∧
    (∀ w, s.mgmt.lastTel = some w → now.toNat < w.toNat + 1000000 * s.store.mrec.telPeriod →
      exec (.telemetryDatagram now) s = .next s) ∧
    ((∀ w, s.mgmt.lastTel = some w → w.toNat + 1000000 * s.store.mrec.telPeriod ≤ now.toNat) →
      exec (.telemetryDatagram now) s = .next
        { told with out := s.out ++ [.mgmt (.telemetry (told.telemetryBody ++ told.macBytes told.telemetryBody))] }) ∧
    (s.portUp n = true → ∃ t, exec (.lldpReceive n x) s = .next t ∧ t.fld (Reg.nbr n) 16 0 = x.nmod.toNat ∧
      t.flag (Reg.nbr n) 17 = x.nvalid ∧ t.fld (Reg.nbr n) 21 18 = x.nport.toNat ∧ t.flag (Reg.nbr n) 22 = x.nsub ∧
      t.flag (Reg.nbr n) 23 = true ∧ t.fld (Reg.nbr n) 63 32 = x.nser.toNat % 2 ^ 32 ∧ t.eng = s.eng ∧ t.loam = s.loam) ∧
    (s.flag (Reg.nbr n) 23 = true → ∃ t, exec (.timeToLiveExpiry n) s = .next t ∧ t.flag (Reg.nbr n) 23 = false ∧
      t.fld (Reg.nbr n) 22 0 = s.fld (Reg.nbr n) 22 0 ∧ t.eng = s.eng ∧ t.loam = s.loam) ∧
    (let e := 2 * n.val + sub.toNat
     (s.egQueue e ownSrc = [] → s.mayStart n sub = true → ∃ t, s.sendOwn n sub f = t ∧ t = { s with
        starts := t.starts, ptp := t.ptp, out := s.out ++ [.frame n sub (withFcs f)] }) ∧
     (s.egQueue e ownSrc ≠ [] ∨ s.mayStart n sub = false → ∃ t, s.sendOwn n sub f = t ∧ t = { s with egq := t.egq } ∧
        t.egQueue e ownSrc = s.egQueue e ownSrc ++ [f])) ∧
    (s.portsLive = true →
      let t := if s.egressUp n 0 then s.sendOwn n false (s.lldpFrame n false) else s
      exec (.lldpTransmit n) s = .next (if s.egressUp n 1 then t.sendOwn n true (t.lldpFrame n true) else t)) ∧
    (let e := 2 * n.val + sub.toNat
     let sn := s.at_ now
     5 ≤ s.stage → s.portsLive = true → s.egressUp n sub.toNat = true →
      (sn.ptpMessage e typ = none → exec (.ptpMessageTransmit n sub typ now) s = .next sn) ∧
      (∀ m, sn.ptpMessage e typ = some m → ∃ u : State, u = { sn with ptp := u.ptp } ∧
        (ptpNumbered typ = true → (Tab.get {} u.ptp e).seq = ((Tab.get {} s.ptp e).seq + 1) % 65536) ∧
        exec (.ptpMessageTransmit n sub typ now) s = .next
          (u.sendOwn n sub ([0x01, 0x1B, 0x19, 0, 0, 0] ++ s.srcMac e ++ beBytes 2 0x88F7 ++ m))) ∧
      (ptpNumbered typ = true → ∃ m, sn.ptpMessage e typ = some m))

/-- The board controller reads STATUS, gives the location and the dynamic address; in a planned start members join their
leader or its deputy while they have no acknowledgement, the leader, or the deputy for it, registers the group once and a module
without a place itself; one that learns of an acting leader joins it; the answer, which only a registered or acknowledged module
takes and passes to its members, takes the module to PLAN with its layout written and the internal ring open, or holds it, and a
held one joins and registers no more. PLAN ends in JOB_READY with the bring-up contexts and the internal ring closed, or reports
the links that fall short; a new plan is stored first. A plan's form and the order in a group are the model's (log entry 75), and
so is the number of the internal ring (log entry 140). -/
def Obligations.PlannedStartsJoinRegisterAndGo : Prop :=
  ∀ (s : State) (code : W32) (addr : BitVec 7) (nmod id acting : BitVec 17) (g : GoOrder) (ms : W32) (mods : List (BitVec 17))
    (dep : Nat) (o : StageOutcome) (pl : Plan),
    let sends := fun (i : Instr) (m : Msg) => exec i s = .next { s with out := s.out ++ [m] }
    let passes := fun (x : Answer) => if s.mgmt.joined = [] then [] else [Msg.mgmt (.answer x s.mgmt.joined)]
    let registers := fun (ls : List Nat) (absent : Option Nat) =>
      exec (.register none) s = .next
        { s with mgmt := { s.mgmt with registered := true }, out := s.out ++ [.mgmt (.register ls absent)] } ∧
      exec (.register (some acting)) s = .next { s with
        mgmt := { s.mgmt with boss := some acting.toNat, acked := false }
        out := s.out ++ [.mgmt (.register ls absent), .mgmt (.join acting.toNat s.joinData)] }
    let bare : GoOrder := { g with layout := [], assign := none }
    (s.gauntletUp = true → sends .status (.i3c (leBytes 8 (s.reg Reg.bootStat).toNat ++ leBytes 8 (s.reg Reg.telPwr).toNat ++
        leBytes 8 (s.reg Reg.telTemp).toNat ++ leBytes 4 (s.reg Reg.holdupStat).toNat)) ∧
      exec (.entdaa addr) s = .next { s with boot := { s.boot with dyn := some addr } } ∧
      (s.stage < 5 → exec (.location code) s = .next
        { s with boot := { s.boot with loc := some code }, store := { s.store with loc := some code } })) ∧
    (s.awaitsGo = true → s.mgmt.held = none →
      (s.leads = true ∨ s.deputy = some s.ownId → nmod.toNat ∈ s.group_ → nmod.toNat ≠ s.ownId →
        exec (.join (.member nmod)) s = .next { s with
          mgmt := { s.mgmt with joined :=
            if nmod.toNat ∈ s.mgmt.joined then s.mgmt.joined else s.mgmt.joined ++ [nmod.toNat] }
          out := s.out ++ [.mgmt (.joined nmod.toNat)] }) ∧
      (s.leads = false ∨ s.mgmt.boss ≠ none → exec (.join .ack) s = .next { s with mgmt := { s.mgmt with acked := true } }) ∧
      (s.leads = false → s.mgmt.acked = false → s.deputy = some dep → dep ≠ s.ownId →
        sends .joinTimeout (.mgmt (.join dep s.joinData))) ∧
      (s.mgmt.acked = true → exec .joinTimeout s = .next s) ∧
      (s.mgmt.registered = false → s.mgmt.boss = none →
        (s.flag Reg.bootStat 7 = true → registers [] none) ∧
        (s.flag Reg.bootStat 7 = false → s.leads = true → registers (s.ownId :: s.mgmt.joined) none) ∧
        (s.flag Reg.bootStat 7 = false → s.leads = false → s.deputy = some s.ownId → s.mgmt.joined ≠ [] → s.mgmt.acked = false →
          registers (s.ownId :: s.mgmt.joined) s.leader)) ∧
      (s.mgmt.registered = true ∨ s.mgmt.boss ≠ none → exec (.register none) s = .next s)) ∧
    (s.mgmt.held ≠ none → ∀ j, exec (.join j) s = .next s ∧ exec .joinTimeout s = .next s ∧ exec (.register none) s = .next s) ∧
    (s.mgmt.registered = false → s.mgmt.acked = false → exec (.go g ms) s = .next s ∧ exec (.hold mods) s = .next s) ∧
    (s.awaitsGo = true → s.mgmt.registered = true ∨ s.mgmt.acked = true →
      (∃ t, exec (.go bare ms) s = .next t ∧ t.stage = 8 ∧ t.mgmt.go = some bare ∧ t.mgmt.held = none ∧
        t.out = s.out ++ passes (.go bare) ∧ Tab.get {} t.rings intRing = { cfg := 3 + 8 * 8 } ∧
        (∀ k, k ≠ intRing → Tab.get {} t.rings k = Tab.get {} s.rings k) ∧ regsBut s t [Reg.bootStat] ∧ t.loam = s.loam) ∧
      (s.flag Reg.bootStat 7 = true → s.idValid = false → ∃ t, exec (.go { bare with assign := some id } ms) s = .next t ∧
        t.stage = 8 ∧ t.flag Reg.bootStat 7 = false ∧ t.ownId = id.toNat ∧ t.idValid = true ∧
        regsBut s t [Reg.bootStat, Reg.moduleId]) ∧
      (s.mgmt.joined = [] → ∃ b : State, exec (.go { g with layout := [] } ms) s = .next b ∧
        exec (.go g ms) s = .next (g.layout.foldl (fun z w =>
          (z.bar0Write .sequencer w.1.toNat (match regAt w.1.toNat with | some r => r.row.size | none => 4) w.2).1)
          { b with mgmt := { b.mgmt with go := some g } })) ∧
      exec (.hold mods) s = .next { s with mgmt := { s.mgmt with held := some mods }, out := s.out ++ passes (.hold mods) }) ∧
    (s.boot.powered = true → s.gaunt.restarting = false → s.stage = 8 → s.planFirmware o = none → s.goPlan o = some pl →
      (s.store.plan = some pl → pl.tolerant = false → s.portShort pl = true →
        sends (.stageAdvance o) (.mgmt (.links none s.linkMap))) ∧
      (s.store.plan ≠ some pl → pl.tolerant = true → ∃ t, exec (.stageAdvance o) s = .next t ∧ t.stage = 9 ∧
        t.store.plan = some pl ∧ t.loam = s.loam) ∧
      (pl.tolerant = true ∨ s.portShort pl = false → s.store.plan = some pl → s.gaunt.loam = none →
        ∃ t, exec (.stageAdvance o) s = .next t ∧
        t.stage = 9 ∧ (∀ j, 0xFFF00 ≤ j → j < 0x100000 → t.sendHalf j = {} ∧ t.recvHalf j = {}) ∧
        (∀ j, j < 0xFFF00 → t.sendHalf j = s.sendHalf j ∧ t.recvHalf j = s.recvHalf j) ∧
        Tab.get {} t.rings intRing = {} ∧ t.store = s.store ∧ t.loam = s.loam))
end

