-- ==== Sys2Proof/Laws/State.lean ====
section
/-!
SUPPORT. Laws of the state and of its tables: what a read gives after a write, and that an update of one part leaves every
other part as it was. The updates of engines and contexts are brought to one form, `State.setEngine`.
-/

namespace Sys2Proof

/-! ## Tables -/

/-- A table gives back what was set. -/
@[simp] theorem Tab.get_set_same {α : Type} (d v : α) (t : Tab α) (k : Nat) : Tab.get d (Tab.set t k v) k = v := by
  induction t with
  | nil => simp [Tab.set, Tab.get]
  | cons h t ih =>
    obtain ⟨j, u⟩ := h
    by_cases hj : j = k <;> simp [Tab.set, Tab.get, hj, ih]

/-- Setting one entry leaves the others. -/
@[simp] theorem Tab.get_set_ne {α : Type} (d v : α) (t : Tab α) (j k : Nat) (h : j ≠ k) :
    Tab.get d (Tab.set t k v) j = Tab.get d t j := by
  induction t with
  | nil => simp [Tab.set, Tab.get, Ne.symm h]
  | cons e t ih =>
    obtain ⟨i, u⟩ := e
    by_cases hi : i = k
    · subst hi; simp [Tab.set, Tab.get, Ne.symm h]
    · by_cases hj : i = j
      · subst hj; simp [Tab.set, Tab.get, hi]
      · simp [Tab.set, Tab.get, hi, hj, ih]

/-- What a table gives after a set. -/
theorem Tab.get_set {α : Type} (d v : α) (t : Tab α) (j k : Nat) :
    Tab.get d (Tab.set t k v) j = if j = k then v else Tab.get d t j := by
  by_cases h : j = k
  · subst h; simp
  · simp [h]

/-- A second set of an entry replaces the first. -/
@[simp] theorem Tab.set_set {α : Type} (u v : α) (t : Tab α) (k : Nat) : Tab.set (Tab.set t k u) k v = Tab.set t k v := by
  induction t with
  | nil => simp [Tab.set]
  | cons e t ih =>
    obtain ⟨i, w⟩ := e
    by_cases hi : i = k <;> simp [Tab.set, hi, ih]

/-- A removed entry reads as the default. -/
@[simp] theorem Tab.get_del_same {α : Type} (d : α) (t : Tab α) (k : Nat) : Tab.get d (Tab.del t k) k = d := by
  induction t with
  | nil => rfl
  | cons e t ih =>
    obtain ⟨i, w⟩ := e
    by_cases hi : i = k <;> simp [Tab.del, Tab.get, hi, ih]

/-- Removing one entry leaves the others. -/
@[simp] theorem Tab.get_del_ne {α : Type} (d : α) (t : Tab α) (j k : Nat) (h : j ≠ k) :
    Tab.get d (Tab.del t k) j = Tab.get d t j := by
  induction t with
  | nil => rfl
  | cons e t ih =>
    obtain ⟨i, w⟩ := e
    by_cases hi : i = k
    · subst hi; simp [Tab.del, Tab.get, Ne.symm h, ih]
    · by_cases hj : i = j
      · subst hj; simp [Tab.del, Tab.get, hi]
      · simp [Tab.del, Tab.get, hi, hj, ih]

namespace Machine

/-! ## Engines and contexts -/

/-- An engine that was set is read back. -/
@[simp] theorem State.engine_setEngine_same (s : State) (p : Nat) (e : Engine) : (s.setEngine p e).engine p = e := by
  simp [State.engine, State.setEngine]

/-- The other engines stay. -/
@[simp] theorem State.engine_setEngine_ne (s : State) (p j : Nat) (e : Engine) (h : j ≠ p) :
    (s.setEngine p e).engine j = s.engine j := by
  simp [State.engine, State.setEngine, h]

/-- A second set of an engine replaces the first. -/
@[simp] theorem State.setEngine_setEngine (s : State) (p : Nat) (d e : Engine) :
    (s.setEngine p d).setEngine p e = s.setEngine p e := by
  simp [State.setEngine]

/-- A context that was set is read back. -/
@[simp] theorem Engine.at_setCtx_same (e : Engine) (c : Nat) (x : Ctx) : (e.setCtx c x).at c = x := by
  simp [Engine.at, Engine.setCtx]

/-- The other contexts stay. -/
@[simp] theorem Engine.at_setCtx_ne (e : Engine) (c j : Nat) (x : Ctx) (h : j ≠ c) : (e.setCtx c x).at j = e.at j := by
  simp [Engine.at, Engine.setCtx, h]

/-- A second set of a context replaces the first. -/
@[simp] theorem Engine.setCtx_setCtx (e : Engine) (c : Nat) (x y : Ctx) : (e.setCtx c x).setCtx c y = e.setCtx c y := by
  simp [Engine.setCtx]

/-- A change of an engine sets it. -/
theorem State.modEngine_eq (s : State) (p : Nat) (f : Engine → Engine) :
    s.modEngine p f = s.setEngine p (f (s.engine p)) := rfl
/-- A context that is set sets its engine. -/
theorem State.setCtx_eq (s : State) (p c : Nat) (x : Ctx) :
    s.setCtx p c x = s.setEngine p ((s.engine p).setCtx c x) := rfl
/-- A change of a context sets it. -/
theorem State.modCtx_eq (s : State) (p c : Nat) (f : Ctx → Ctx) : s.modCtx p c f = s.setCtx p c (f (s.ctx p c)) := rfl
/-- A change of the recorded part sets the context. -/
theorem State.modCur_eq (s : State) (p c : Nat) (f : Rec → Rec) :
    s.modCur p c f = s.setCtx p c { s.ctx p c with cur := f (s.ctx p c).cur } := rfl

/-- A context after its engine is set. -/
@[simp] theorem State.ctx_setEngine_same (s : State) (p c : Nat) (e : Engine) : (s.setEngine p e).ctx p c = e.at c := by
  simp [State.ctx]

/-- The contexts of the other engines stay. -/
@[simp] theorem State.ctx_setEngine_ne (s : State) (p j c : Nat) (e : Engine) (h : j ≠ p) :
    (s.setEngine p e).ctx j c = s.ctx j c := by
  simp [State.ctx, h]

/-- A context that was set is read back. -/
@[simp] theorem State.ctx_setCtx_same (s : State) (p c : Nat) (x : Ctx) : (s.setCtx p c x).ctx p c = x := by
  simp [State.setCtx_eq]

/-- The other contexts of the engine stay. -/
@[simp] theorem State.ctx_setCtx_ne (s : State) (p c j : Nat) (x : Ctx) (h : j ≠ c) : (s.setCtx p c x).ctx p j = s.ctx p j := by
  simp [State.setCtx_eq, h, State.ctx]

/-! ## Registers -/

/-- A register that was set is read back. -/
@[simp] theorem State.reg_setReg_same (s : State) (off : Nat) (v : W64) : (s.setReg off v).reg off = v := by
  simp [State.reg, State.setReg]

/-- The other registers stay. -/
@[simp] theorem State.reg_setReg_ne (s : State) (off j : Nat) (v : W64) (h : j ≠ off) : (s.setReg off v).reg j = s.reg j := by
  simp [State.reg, State.setReg, h]

/-- The registers do not depend on the engines. -/
@[simp] theorem State.reg_setEngine (s : State) (p off : Nat) (e : Engine) : (s.setEngine p e).reg off = s.reg off := rfl
/-- Nor do their fields. -/
@[simp] theorem State.fld_setEngine (s : State) (p off hi lo : Nat) (e : Engine) :
    (s.setEngine p e).fld off hi lo = s.fld off hi lo := rfl
/-- Nor do their bits. -/
@[simp] theorem State.flag_setEngine (s : State) (p off i : Nat) (e : Engine) : (s.setEngine p e).flag off i = s.flag off i := rfl
/-- A message changes no register. -/
@[simp] theorem State.reg_emit (s : State) (off : Nat) (m : Msg) : (s.emit m).reg off = s.reg off := rfl
/-- A message changes no engine. -/
@[simp] theorem State.engine_emit (s : State) (p : Nat) (m : Msg) : (s.emit m).engine p = s.engine p := rfl
/-- A register changes no engine. -/
@[simp] theorem State.engine_setReg (s : State) (p off : Nat) (v : W64) : (s.setReg off v).engine p = s.engine p := rfl

/-! ## The parts that an update leaves -/

@[simp] theorem State.setEngine_pending (s : State) (p : Nat) (e : Engine) : (s.setEngine p e).pending = s.pending := rfl
@[simp] theorem State.setEngine_fuse (s : State) (p : Nat) (e : Engine) : (s.setEngine p e).fuse = s.fuse := rfl
@[simp] theorem State.setEngine_regs (s : State) (p : Nat) (e : Engine) : (s.setEngine p e).regs = s.regs := rfl
@[simp] theorem State.setEngine_loam (s : State) (p : Nat) (e : Engine) : (s.setEngine p e).loam = s.loam := rfl
@[simp] theorem State.setEngine_loamEra (s : State) (p : Nat) (e : Engine) : (s.setEngine p e).loamEra = s.loamEra := rfl
@[simp] theorem State.setEngine_clay (s : State) (p : Nat) (e : Engine) : (s.setEngine p e).clay = s.clay := rfl
@[simp] theorem State.setEngine_clayGen (s : State) (p : Nat) (e : Engine) : (s.setEngine p e).clayGen = s.clayGen := rfl
@[simp] theorem State.setEngine_cxl0 (s : State) (p : Nat) (e : Engine) : (s.setEngine p e).cxl0 = s.cxl0 := rfl
@[simp] theorem State.setEngine_cxl1 (s : State) (p : Nat) (e : Engine) : (s.setEngine p e).cxl1 = s.cxl1 := rfl
@[simp] theorem State.setEngine_recBuf (s : State) (p : Nat) (e : Engine) : (s.setEngine p e).recBuf = s.recBuf := rfl
@[simp] theorem State.setEngine_recLost (s : State) (p : Nat) (e : Engine) : (s.setEngine p e).recLost = s.recLost := rfl
@[simp] theorem State.setEngine_out (s : State) (p : Nat) (e : Engine) : (s.setEngine p e).out = s.out := rfl
@[simp] theorem State.setEngine_fresh (s : State) (p : Nat) (e : Engine) : (s.setEngine p e).fresh = s.fresh := rfl
@[simp] theorem State.setEngine_time (s : State) (p : Nat) (e : Engine) : (s.setEngine p e).time = s.time := rfl
@[simp] theorem State.setEngine_ev (s : State) (p : Nat) (e : Engine) : (s.setEngine p e).ev = s.ev := rfl
@[simp] theorem State.setEngine_lib (s : State) (p : Nat) (e : Engine) : (s.setEngine p e).lib = s.lib := rfl
@[simp] theorem State.setEngine_rings (s : State) (p : Nat) (e : Engine) : (s.setEngine p e).rings = s.rings := rfl
@[simp] theorem State.setEngine_slots (s : State) (p : Nat) (e : Engine) : (s.setEngine p e).slots = s.slots := rfl
@[simp] theorem State.setEngine_parts (s : State) (p : Nat) (e : Engine) : (s.setEngine p e).parts = s.parts := rfl
@[simp] theorem State.setEngine_rot (s : State) (p : Nat) (e : Engine) : (s.setEngine p e).rot = s.rot := rfl
@[simp] theorem State.setEngine_gcmTag (s : State) (p : Nat) (e : Engine) : (s.setEngine p e).gcmTag = s.gcmTag := rfl
@[simp] theorem State.setEngine_libStaged (s : State) (p : Nat) (e : Engine) : (s.setEngine p e).libStaged = s.libStaged := rfl
@[simp] theorem State.setEngine_setKeys (s : State) (p : Nat) (e : Engine) : (s.setEngine p e).setKeys = s.setKeys := rfl
@[simp] theorem State.setEngine_ideOn (s : State) (p : Nat) (e : Engine) : (s.setEngine p e).ideOn = s.ideOn := rfl
@[simp] theorem State.setEngine_msixTab (s : State) (p : Nat) (e : Engine) : (s.setEngine p e).msixTab = s.msixTab := rfl
@[simp] theorem State.setEngine_msixPend (s : State) (p : Nat) (e : Engine) : (s.setEngine p e).msixPend = s.msixPend := rfl
@[simp] theorem State.setEngine_eps (s : State) (p : Nat) (e : Engine) : (s.setEngine p e).eps = s.eps := rfl
@[simp] theorem State.setEngine_reqs (s : State) (p : Nat) (e : Engine) : (s.setEngine p e).reqs = s.reqs := rfl
@[simp] theorem State.setEngine_send (s : State) (p : Nat) (e : Engine) : (s.setEngine p e).send = s.send := rfl
@[simp] theorem State.setEngine_recv (s : State) (p : Nat) (e : Engine) : (s.setEngine p e).recv = s.recv := rfl
@[simp] theorem State.setEngine_tilthIn (s : State) (p : Nat) (e : Engine) : (s.setEngine p e).tilthIn = s.tilthIn := rfl
@[simp] theorem State.setEngine_ackIn (s : State) (p : Nat) (e : Engine) : (s.setEngine p e).ackIn = s.ackIn := rfl
@[simp] theorem State.setEngine_egq (s : State) (p : Nat) (e : Engine) : (s.setEngine p e).egq = s.egq := rfl
@[simp] theorem State.setEngine_starts (s : State) (p : Nat) (e : Engine) : (s.setEngine p e).starts = s.starts := rfl
@[simp] theorem State.setEngine_ptp (s : State) (p : Nat) (e : Engine) : (s.setEngine p e).ptp = s.ptp := rfl
@[simp] theorem State.setEngine_swtab (s : State) (p : Nat) (e : Engine) : (s.setEngine p e).swtab = s.swtab := rfl
@[simp] theorem State.setEngine_exch (s : State) (p : Nat) (e : Engine) : (s.setEngine p e).exch = s.exch := rfl
@[simp] theorem State.setEngine_folds (s : State) (p : Nat) (e : Engine) : (s.setEngine p e).folds = s.folds := rfl
@[simp] theorem State.setEngine_relay (s : State) (p : Nat) (e : Engine) : (s.setEngine p e).relay = s.relay := rfl
@[simp] theorem State.setEngine_keys (s : State) (p : Nat) (e : Engine) : (s.setEngine p e).keys = s.keys := rfl
@[simp] theorem State.setEngine_hvpRx (s : State) (p : Nat) (e : Engine) : (s.setEngine p e).hvpRx = s.hvpRx := rfl
@[simp] theorem State.setEngine_hvpTx (s : State) (p : Nat) (e : Engine) : (s.setEngine p e).hvpTx = s.hvpTx := rfl
@[simp] theorem State.setEngine_audit (s : State) (p : Nat) (e : Engine) : (s.setEngine p e).audit = s.audit := rfl
@[simp] theorem State.setEngine_crungBy (s : State) (p : Nat) (e : Engine) : (s.setEngine p e).crungBy = s.crungBy := rfl
@[simp] theorem State.setEngine_auditBad (s : State) (p : Nat) (e : Engine) : (s.setEngine p e).auditBad = s.auditBad := rfl
@[simp] theorem State.setEngine_repair (s : State) (p : Nat) (e : Engine) : (s.setEngine p e).repair = s.repair := rfl
@[simp] theorem State.setEngine_clayMarks (s : State) (p : Nat) (e : Engine) : (s.setEngine p e).clayMarks = s.clayMarks := rfl
@[simp] theorem State.setEngine_sched (s : State) (p : Nat) (e : Engine) : (s.setEngine p e).sched = s.sched := rfl
@[simp] theorem State.setEngine_latch (s : State) (p : Nat) (e : Engine) : (s.setEngine p e).latch = s.latch := rfl
@[simp] theorem State.setEngine_npstAbort (s : State) (p : Nat) (e : Engine) : (s.setEngine p e).npstAbort = s.npstAbort := rfl
@[simp] theorem State.setEngine_npstEng (s : State) (p : Nat) (e : Engine) : (s.setEngine p e).npstEng = s.npstEng := rfl
@[simp] theorem State.setEngine_npstLib (s : State) (p : Nat) (e : Engine) : (s.setEngine p e).npstLib = s.npstLib := rfl
@[simp] theorem State.setEngine_swAt (s : State) (p : Nat) (e : Engine) : (s.setEngine p e).swAt = s.swAt := rfl
@[simp] theorem State.setEngine_engParts (s : State) (p : Nat) (e : Engine) : (s.setEngine p e).engParts = s.engParts := rfl
@[simp] theorem State.setEngine_engSet (s : State) (p : Nat) (e : Engine) : (s.setEngine p e).engSet = s.engSet := rfl
@[simp] theorem State.setEngine_svn (s : State) (p : Nat) (e : Engine) : (s.setEngine p e).svn = s.svn := rfl
@[simp] theorem State.setEngine_store (s : State) (p : Nat) (e : Engine) : (s.setEngine p e).store = s.store := rfl
@[simp] theorem State.setEngine_emmc (s : State) (p : Nat) (e : Engine) : (s.setEngine p e).emmc = s.emmc := rfl
@[simp] theorem State.setEngine_logs (s : State) (p : Nat) (e : Engine) : (s.setEngine p e).logs = s.logs := rfl
@[simp] theorem State.setEngine_boot (s : State) (p : Nat) (e : Engine) : (s.setEngine p e).boot = s.boot := rfl
@[simp] theorem State.setEngine_bonnet (s : State) (p : Nat) (e : Engine) : (s.setEngine p e).bonnet = s.bonnet := rfl
@[simp] theorem State.setEngine_mgmt (s : State) (p : Nat) (e : Engine) : (s.setEngine p e).mgmt = s.mgmt := rfl
@[simp] theorem State.setEngine_gaunt (s : State) (p : Nat) (e : Engine) : (s.setEngine p e).gaunt = s.gaunt := rfl

@[simp] theorem State.setReg_pending (s : State) (off : Nat) (v : W64) : (s.setReg off v).pending = s.pending := rfl
@[simp] theorem State.setReg_fuse (s : State) (off : Nat) (v : W64) : (s.setReg off v).fuse = s.fuse := rfl
@[simp] theorem State.setReg_eng (s : State) (off : Nat) (v : W64) : (s.setReg off v).eng = s.eng := rfl
@[simp] theorem State.setReg_loam (s : State) (off : Nat) (v : W64) : (s.setReg off v).loam = s.loam := rfl
@[simp] theorem State.setReg_loamEra (s : State) (off : Nat) (v : W64) : (s.setReg off v).loamEra = s.loamEra := rfl
@[simp] theorem State.setReg_clay (s : State) (off : Nat) (v : W64) : (s.setReg off v).clay = s.clay := rfl
@[simp] theorem State.setReg_clayGen (s : State) (off : Nat) (v : W64) : (s.setReg off v).clayGen = s.clayGen := rfl
@[simp] theorem State.setReg_cxl0 (s : State) (off : Nat) (v : W64) : (s.setReg off v).cxl0 = s.cxl0 := rfl
@[simp] theorem State.setReg_cxl1 (s : State) (off : Nat) (v : W64) : (s.setReg off v).cxl1 = s.cxl1 := rfl
@[simp] theorem State.setReg_recBuf (s : State) (off : Nat) (v : W64) : (s.setReg off v).recBuf = s.recBuf := rfl
@[simp] theorem State.setReg_recLost (s : State) (off : Nat) (v : W64) : (s.setReg off v).recLost = s.recLost := rfl
@[simp] theorem State.setReg_out (s : State) (off : Nat) (v : W64) : (s.setReg off v).out = s.out := rfl
@[simp] theorem State.setReg_fresh (s : State) (off : Nat) (v : W64) : (s.setReg off v).fresh = s.fresh := rfl
@[simp] theorem State.setReg_time (s : State) (off : Nat) (v : W64) : (s.setReg off v).time = s.time := rfl
@[simp] theorem State.setReg_ev (s : State) (off : Nat) (v : W64) : (s.setReg off v).ev = s.ev := rfl
@[simp] theorem State.setReg_lib (s : State) (off : Nat) (v : W64) : (s.setReg off v).lib = s.lib := rfl
@[simp] theorem State.setReg_rings (s : State) (off : Nat) (v : W64) : (s.setReg off v).rings = s.rings := rfl
@[simp] theorem State.setReg_slots (s : State) (off : Nat) (v : W64) : (s.setReg off v).slots = s.slots := rfl
@[simp] theorem State.setReg_parts (s : State) (off : Nat) (v : W64) : (s.setReg off v).parts = s.parts := rfl
@[simp] theorem State.setReg_rot (s : State) (off : Nat) (v : W64) : (s.setReg off v).rot = s.rot := rfl
@[simp] theorem State.setReg_gcmTag (s : State) (off : Nat) (v : W64) : (s.setReg off v).gcmTag = s.gcmTag := rfl
@[simp] theorem State.setReg_libStaged (s : State) (off : Nat) (v : W64) : (s.setReg off v).libStaged = s.libStaged := rfl
@[simp] theorem State.setReg_setKeys (s : State) (off : Nat) (v : W64) : (s.setReg off v).setKeys = s.setKeys := rfl
@[simp] theorem State.setReg_ideOn (s : State) (off : Nat) (v : W64) : (s.setReg off v).ideOn = s.ideOn := rfl
@[simp] theorem State.setReg_msixTab (s : State) (off : Nat) (v : W64) : (s.setReg off v).msixTab = s.msixTab := rfl
@[simp] theorem State.setReg_msixPend (s : State) (off : Nat) (v : W64) : (s.setReg off v).msixPend = s.msixPend := rfl
@[simp] theorem State.setReg_eps (s : State) (off : Nat) (v : W64) : (s.setReg off v).eps = s.eps := rfl
@[simp] theorem State.setReg_reqs (s : State) (off : Nat) (v : W64) : (s.setReg off v).reqs = s.reqs := rfl
@[simp] theorem State.setReg_send (s : State) (off : Nat) (v : W64) : (s.setReg off v).send = s.send := rfl
@[simp] theorem State.setReg_recv (s : State) (off : Nat) (v : W64) : (s.setReg off v).recv = s.recv := rfl
@[simp] theorem State.setReg_tilthIn (s : State) (off : Nat) (v : W64) : (s.setReg off v).tilthIn = s.tilthIn := rfl
@[simp] theorem State.setReg_ackIn (s : State) (off : Nat) (v : W64) : (s.setReg off v).ackIn = s.ackIn := rfl
@[simp] theorem State.setReg_egq (s : State) (off : Nat) (v : W64) : (s.setReg off v).egq = s.egq := rfl
@[simp] theorem State.setReg_starts (s : State) (off : Nat) (v : W64) : (s.setReg off v).starts = s.starts := rfl
@[simp] theorem State.setReg_ptp (s : State) (off : Nat) (v : W64) : (s.setReg off v).ptp = s.ptp := rfl
@[simp] theorem State.setReg_swtab (s : State) (off : Nat) (v : W64) : (s.setReg off v).swtab = s.swtab := rfl
@[simp] theorem State.setReg_exch (s : State) (off : Nat) (v : W64) : (s.setReg off v).exch = s.exch := rfl
@[simp] theorem State.setReg_folds (s : State) (off : Nat) (v : W64) : (s.setReg off v).folds = s.folds := rfl
@[simp] theorem State.setReg_relay (s : State) (off : Nat) (v : W64) : (s.setReg off v).relay = s.relay := rfl
@[simp] theorem State.setReg_keys (s : State) (off : Nat) (v : W64) : (s.setReg off v).keys = s.keys := rfl
@[simp] theorem State.setReg_hvpRx (s : State) (off : Nat) (v : W64) : (s.setReg off v).hvpRx = s.hvpRx := rfl
@[simp] theorem State.setReg_hvpTx (s : State) (off : Nat) (v : W64) : (s.setReg off v).hvpTx = s.hvpTx := rfl
@[simp] theorem State.setReg_audit (s : State) (off : Nat) (v : W64) : (s.setReg off v).audit = s.audit := rfl
@[simp] theorem State.setReg_crungBy (s : State) (off : Nat) (v : W64) : (s.setReg off v).crungBy = s.crungBy := rfl
@[simp] theorem State.setReg_auditBad (s : State) (off : Nat) (v : W64) : (s.setReg off v).auditBad = s.auditBad := rfl
@[simp] theorem State.setReg_repair (s : State) (off : Nat) (v : W64) : (s.setReg off v).repair = s.repair := rfl
@[simp] theorem State.setReg_clayMarks (s : State) (off : Nat) (v : W64) : (s.setReg off v).clayMarks = s.clayMarks := rfl
@[simp] theorem State.setReg_sched (s : State) (off : Nat) (v : W64) : (s.setReg off v).sched = s.sched := rfl
@[simp] theorem State.setReg_latch (s : State) (off : Nat) (v : W64) : (s.setReg off v).latch = s.latch := rfl
@[simp] theorem State.setReg_npstAbort (s : State) (off : Nat) (v : W64) : (s.setReg off v).npstAbort = s.npstAbort := rfl
@[simp] theorem State.setReg_npstEng (s : State) (off : Nat) (v : W64) : (s.setReg off v).npstEng = s.npstEng := rfl
@[simp] theorem State.setReg_npstLib (s : State) (off : Nat) (v : W64) : (s.setReg off v).npstLib = s.npstLib := rfl
@[simp] theorem State.setReg_swAt (s : State) (off : Nat) (v : W64) : (s.setReg off v).swAt = s.swAt := rfl
@[simp] theorem State.setReg_engParts (s : State) (off : Nat) (v : W64) : (s.setReg off v).engParts = s.engParts := rfl
@[simp] theorem State.setReg_engSet (s : State) (off : Nat) (v : W64) : (s.setReg off v).engSet = s.engSet := rfl
@[simp] theorem State.setReg_svn (s : State) (off : Nat) (v : W64) : (s.setReg off v).svn = s.svn := rfl
@[simp] theorem State.setReg_store (s : State) (off : Nat) (v : W64) : (s.setReg off v).store = s.store := rfl
@[simp] theorem State.setReg_emmc (s : State) (off : Nat) (v : W64) : (s.setReg off v).emmc = s.emmc := rfl
@[simp] theorem State.setReg_logs (s : State) (off : Nat) (v : W64) : (s.setReg off v).logs = s.logs := rfl
@[simp] theorem State.setReg_boot (s : State) (off : Nat) (v : W64) : (s.setReg off v).boot = s.boot := rfl
@[simp] theorem State.setReg_bonnet (s : State) (off : Nat) (v : W64) : (s.setReg off v).bonnet = s.bonnet := rfl
@[simp] theorem State.setReg_mgmt (s : State) (off : Nat) (v : W64) : (s.setReg off v).mgmt = s.mgmt := rfl
@[simp] theorem State.setReg_gaunt (s : State) (off : Nat) (v : W64) : (s.setReg off v).gaunt = s.gaunt := rfl

@[simp] theorem State.emit_pending (s : State) (m : Msg) : (s.emit m).pending = s.pending := rfl
@[simp] theorem State.emit_fuse (s : State) (m : Msg) : (s.emit m).fuse = s.fuse := rfl
@[simp] theorem State.emit_regs (s : State) (m : Msg) : (s.emit m).regs = s.regs := rfl
@[simp] theorem State.emit_eng (s : State) (m : Msg) : (s.emit m).eng = s.eng := rfl
@[simp] theorem State.emit_loam (s : State) (m : Msg) : (s.emit m).loam = s.loam := rfl
@[simp] theorem State.emit_loamEra (s : State) (m : Msg) : (s.emit m).loamEra = s.loamEra := rfl
@[simp] theorem State.emit_clay (s : State) (m : Msg) : (s.emit m).clay = s.clay := rfl
@[simp] theorem State.emit_clayGen (s : State) (m : Msg) : (s.emit m).clayGen = s.clayGen := rfl
@[simp] theorem State.emit_cxl0 (s : State) (m : Msg) : (s.emit m).cxl0 = s.cxl0 := rfl
@[simp] theorem State.emit_cxl1 (s : State) (m : Msg) : (s.emit m).cxl1 = s.cxl1 := rfl
@[simp] theorem State.emit_recBuf (s : State) (m : Msg) : (s.emit m).recBuf = s.recBuf := rfl
@[simp] theorem State.emit_recLost (s : State) (m : Msg) : (s.emit m).recLost = s.recLost := rfl
@[simp] theorem State.emit_fresh (s : State) (m : Msg) : (s.emit m).fresh = s.fresh := rfl
@[simp] theorem State.emit_time (s : State) (m : Msg) : (s.emit m).time = s.time := rfl
@[simp] theorem State.emit_ev (s : State) (m : Msg) : (s.emit m).ev = s.ev := rfl
@[simp] theorem State.emit_lib (s : State) (m : Msg) : (s.emit m).lib = s.lib := rfl
@[simp] theorem State.emit_rings (s : State) (m : Msg) : (s.emit m).rings = s.rings := rfl
@[simp] theorem State.emit_slots (s : State) (m : Msg) : (s.emit m).slots = s.slots := rfl
@[simp] theorem State.emit_parts (s : State) (m : Msg) : (s.emit m).parts = s.parts := rfl
@[simp] theorem State.emit_rot (s : State) (m : Msg) : (s.emit m).rot = s.rot := rfl
@[simp] theorem State.emit_gcmTag (s : State) (m : Msg) : (s.emit m).gcmTag = s.gcmTag := rfl
@[simp] theorem State.emit_libStaged (s : State) (m : Msg) : (s.emit m).libStaged = s.libStaged := rfl
@[simp] theorem State.emit_setKeys (s : State) (m : Msg) : (s.emit m).setKeys = s.setKeys := rfl
@[simp] theorem State.emit_ideOn (s : State) (m : Msg) : (s.emit m).ideOn = s.ideOn := rfl
@[simp] theorem State.emit_msixTab (s : State) (m : Msg) : (s.emit m).msixTab = s.msixTab := rfl
@[simp] theorem State.emit_msixPend (s : State) (m : Msg) : (s.emit m).msixPend = s.msixPend := rfl
@[simp] theorem State.emit_eps (s : State) (m : Msg) : (s.emit m).eps = s.eps := rfl
@[simp] theorem State.emit_reqs (s : State) (m : Msg) : (s.emit m).reqs = s.reqs := rfl
@[simp] theorem State.emit_send (s : State) (m : Msg) : (s.emit m).send = s.send := rfl
@[simp] theorem State.emit_recv (s : State) (m : Msg) : (s.emit m).recv = s.recv := rfl
@[simp] theorem State.emit_tilthIn (s : State) (m : Msg) : (s.emit m).tilthIn = s.tilthIn := rfl
@[simp] theorem State.emit_ackIn (s : State) (m : Msg) : (s.emit m).ackIn = s.ackIn := rfl
@[simp] theorem State.emit_egq (s : State) (m : Msg) : (s.emit m).egq = s.egq := rfl
@[simp] theorem State.emit_starts (s : State) (m : Msg) : (s.emit m).starts = s.starts := rfl
@[simp] theorem State.emit_ptp (s : State) (m : Msg) : (s.emit m).ptp = s.ptp := rfl
@[simp] theorem State.emit_swtab (s : State) (m : Msg) : (s.emit m).swtab = s.swtab := rfl
@[simp] theorem State.emit_exch (s : State) (m : Msg) : (s.emit m).exch = s.exch := rfl
@[simp] theorem State.emit_folds (s : State) (m : Msg) : (s.emit m).folds = s.folds := rfl
@[simp] theorem State.emit_relay (s : State) (m : Msg) : (s.emit m).relay = s.relay := rfl
@[simp] theorem State.emit_keys (s : State) (m : Msg) : (s.emit m).keys = s.keys := rfl
@[simp] theorem State.emit_hvpRx (s : State) (m : Msg) : (s.emit m).hvpRx = s.hvpRx := rfl
@[simp] theorem State.emit_hvpTx (s : State) (m : Msg) : (s.emit m).hvpTx = s.hvpTx := rfl
@[simp] theorem State.emit_audit (s : State) (m : Msg) : (s.emit m).audit = s.audit := rfl
@[simp] theorem State.emit_crungBy (s : State) (m : Msg) : (s.emit m).crungBy = s.crungBy := rfl
@[simp] theorem State.emit_auditBad (s : State) (m : Msg) : (s.emit m).auditBad = s.auditBad := rfl
@[simp] theorem State.emit_repair (s : State) (m : Msg) : (s.emit m).repair = s.repair := rfl
@[simp] theorem State.emit_clayMarks (s : State) (m : Msg) : (s.emit m).clayMarks = s.clayMarks := rfl
@[simp] theorem State.emit_sched (s : State) (m : Msg) : (s.emit m).sched = s.sched := rfl
@[simp] theorem State.emit_latch (s : State) (m : Msg) : (s.emit m).latch = s.latch := rfl
@[simp] theorem State.emit_npstAbort (s : State) (m : Msg) : (s.emit m).npstAbort = s.npstAbort := rfl
@[simp] theorem State.emit_npstEng (s : State) (m : Msg) : (s.emit m).npstEng = s.npstEng := rfl
@[simp] theorem State.emit_npstLib (s : State) (m : Msg) : (s.emit m).npstLib = s.npstLib := rfl
@[simp] theorem State.emit_swAt (s : State) (m : Msg) : (s.emit m).swAt = s.swAt := rfl
@[simp] theorem State.emit_engParts (s : State) (m : Msg) : (s.emit m).engParts = s.engParts := rfl
@[simp] theorem State.emit_engSet (s : State) (m : Msg) : (s.emit m).engSet = s.engSet := rfl
@[simp] theorem State.emit_svn (s : State) (m : Msg) : (s.emit m).svn = s.svn := rfl
@[simp] theorem State.emit_store (s : State) (m : Msg) : (s.emit m).store = s.store := rfl
@[simp] theorem State.emit_emmc (s : State) (m : Msg) : (s.emit m).emmc = s.emmc := rfl
@[simp] theorem State.emit_logs (s : State) (m : Msg) : (s.emit m).logs = s.logs := rfl
@[simp] theorem State.emit_boot (s : State) (m : Msg) : (s.emit m).boot = s.boot := rfl
@[simp] theorem State.emit_bonnet (s : State) (m : Msg) : (s.emit m).bonnet = s.bonnet := rfl
@[simp] theorem State.emit_mgmt (s : State) (m : Msg) : (s.emit m).mgmt = s.mgmt := rfl
@[simp] theorem State.emit_gaunt (s : State) (m : Msg) : (s.emit m).gaunt = s.gaunt := rfl

end Machine

end Sys2Proof
end

