-- ==== Sys2Proof/Laws/Memory.lean ====
section
/-!
SUPPORT. Laws of byte memory: a read after a write, and that every memory operation keeps the canonical form.
-/

namespace Sys2Proof

/-! ## The canonical form -/

/-- A lower bound may be lowered, or dropped. -/
theorem Mem.wfFrom_weaken (m : Mem) (lo : Option Nat) (b : Nat) (h : Mem.wfFrom (some b) m = true)
    (hb : ∀ l, lo = some l → l ≤ b) : Mem.wfFrom lo m = true := by
  cases m with
  | nil => rfl
  | cons e t =>
    obtain ⟨j, v⟩ := e
    cases lo with
    | none => simp_all [Mem.wfFrom]
    | some l =>
      have := hb l rfl
      simp_all [Mem.wfFrom]
      omega

/-- A byte written above the bound keeps the form above the bound. -/
theorem Mem.wfFrom_write (m : Mem) (lo : Option Nat) (a : Nat) (v : Byte) (h : Mem.wfFrom lo m = true)
    (ha : ∀ l, lo = some l → l < a) : Mem.wfFrom lo (Mem.write m a v) = true := by
  induction m generalizing lo with
  | nil =>
    unfold Mem.write
    split
    · rfl
    · cases lo <;> simp_all [Mem.wfFrom]
  | cons e t ih =>
    obtain ⟨j, u⟩ := e
    have ht : Mem.wfFrom (some j) t = true := by
      cases lo <;> simp_all [Mem.wfFrom]
    have hu : u ≠ 0 := by
      cases lo <;> simp_all [Mem.wfFrom]
    unfold Mem.write
    split
    · split
      · exact h
      · cases lo <;> simp_all [Mem.wfFrom]
    · split
      · rename_i h1 h2
        split
        · refine Mem.wfFrom_weaken t lo j ht ?_
          intro l hl
          have := ha l hl
          omega
        · cases lo <;> simp_all [Mem.wfFrom]
      · rename_i h1 h2
        have := ih (some j) ht (by intro l hl; cases hl; omega)
        cases lo <;> simp_all [Mem.wfFrom]

/-- A write keeps the canonical form. -/
theorem Mem.write_wf (m : Mem) (a : Nat) (v : Byte) (h : m.wf = true) : (m.write a v).wf = true :=
  Mem.wfFrom_write m none a v h (by intro l hl; cases hl)

/-- A store keeps the canonical form. -/
theorem Mem.store_wf (m : Mem) (a : Nat) (bs : Bytes) (h : m.wf = true) : (m.store a bs).wf = true := by
  induction bs generalizing m a with
  | nil => exact h
  | cons b bs ih => exact ih _ _ (Mem.write_wf m a b h)

/-- A filter keeps the canonical form above a bound. -/
theorem Mem.wfFrom_filter (m : Mem) (lo : Option Nat) (f : Nat × Byte → Bool) (h : Mem.wfFrom lo m = true) :
    Mem.wfFrom lo (m.filter f) = true := by
  induction m generalizing lo with
  | nil => rfl
  | cons e t ih =>
    obtain ⟨j, u⟩ := e
    have ht : Mem.wfFrom (some j) t = true := by cases lo <;> simp_all [Mem.wfFrom]
    have := ih (some j) ht
    by_cases hf : f (j, u) = true
    · cases lo <;> simp_all [Mem.wfFrom]
    · have hw := Mem.wfFrom_weaken (t.filter f) lo j this (by
        intro l hl; subst hl; simp [Mem.wfFrom] at h; omega)
      simpa [hf] using hw

/-- Clearing a range keeps the canonical form. -/
theorem Mem.clear_wf (m : Mem) (lo n : Nat) (h : m.wf = true) : (m.clear lo n).wf = true :=
  Mem.wfFrom_filter m none _ h

/-- A filter keeps the canonical form. -/
theorem Mem.filter_wf (m : Mem) (f : Nat × Byte → Bool) (h : m.wf = true) : Mem.wf (m.filter f) = true :=
  Mem.wfFrom_filter m none f h

/-! ## Reads -/

/-- Below its first address a memory reads 0. -/
theorem Mem.read_below (m : Mem) (b a : Nat) (h : Mem.wfFrom (some b) m = true) (ha : a ≤ b) : Mem.read m a = 0 := by
  induction m generalizing b with
  | nil => rfl
  | cons e t ih =>
    obtain ⟨j, u⟩ := e
    simp only [Mem.wfFrom, Bool.and_eq_true, decide_eq_true_eq] at h
    have hne : j ≠ a := by omega
    simp only [Mem.read, hne, if_false]
    exact ih j h.2 (by omega)

/-- The byte written is read back. -/
theorem Mem.read_write_same (m : Mem) (lo : Option Nat) (a : Nat) (v : Byte) (h : Mem.wfFrom lo m = true) :
    Mem.read (Mem.write m a v) a = v := by
  induction m generalizing lo with
  | nil =>
    unfold Mem.write
    split <;> simp_all [Mem.read]
  | cons e t ih =>
    obtain ⟨j, u⟩ := e
    have ht : Mem.wfFrom (some j) t = true := by cases lo <;> simp_all [Mem.wfFrom]
    unfold Mem.write
    split
    · rename_i h1
      split
      · rename_i hv
        have hne : j ≠ a := by omega
        have := Mem.read_below t j a ht (by omega)
        simp [Mem.read, hne, this, hv]
      · simp [Mem.read]
    · split
      · rename_i h1 h2
        subst h2
        split
        · rename_i hv
          rw [Mem.read_below t a a ht (Nat.le_refl a), hv]
        · simp [Mem.read]
      · rename_i h1 h2
        have hne : j ≠ a := fun e => h2 e.symm
        simp [Mem.read, hne, ih (some j) ht]

/-- A write leaves every other byte. -/
theorem Mem.read_write_ne (m : Mem) (a b : Nat) (v : Byte) (hb : b ≠ a) : Mem.read (Mem.write m a v) b = Mem.read m b := by
  have hab : a ≠ b := fun e => hb e.symm
  induction m with
  | nil =>
    unfold Mem.write
    split <;> simp [Mem.read, hab]
  | cons e t ih =>
    obtain ⟨j, u⟩ := e
    unfold Mem.write
    split
    · split <;> simp [Mem.read, hab]
    · split
      · rename_i h1 h2
        subst h2
        split <;> simp [Mem.read, hab]
      · by_cases hj : j = b <;> simp [Mem.read, hj, ih]

/-- A store leaves every byte outside it. -/
theorem Mem.read_store_out (m : Mem) (a b : Nat) (bs : Bytes) (hb : b < a ∨ a + bs.length ≤ b) :
    Mem.read (Mem.store m a bs) b = Mem.read m b := by
  induction bs generalizing m a with
  | nil => rfl
  | cons x xs ih =>
    simp only [List.length_cons] at hb
    simp only [Mem.store]
    rw [ih (m.write a x) (a + 1) (by omega), Mem.read_write_ne m a b x (by omega)]

/-- What was stored is read back, byte by byte. -/
theorem Mem.read_store_in (m : Mem) (a i : Nat) (bs : Bytes) (hm : m.wf = true) (hi : i < bs.length) :
    Mem.read (Mem.store m a bs) (a + i) = bs.getD i 0 := by
  induction bs generalizing m a i with
  | nil => simp at hi
  | cons x xs ih =>
    cases i with
    | zero =>
      simp only [Mem.store, Nat.add_zero, List.getD_cons_zero]
      rw [Mem.read_store_out _ _ _ _ (Or.inl (Nat.lt_succ_self a))]
      exact Mem.read_write_same m none a x hm
    | succ k =>
      simp only [Mem.store, List.getD_cons_succ]
      have := ih (m.write a x) (a + 1) k (Mem.write_wf m a x hm) (by simpa using hi)
      have e : a + (k + 1) = a + 1 + k := by omega
      rw [e]; exact this

/-- Clearing leaves every byte outside the range. -/
theorem Mem.read_clear_out (m : Mem) (lo n b : Nat) (hb : b < lo ∨ lo + n ≤ b) : Mem.read (m.clear lo n) b = Mem.read m b := by
  induction m with
  | nil => rfl
  | cons e t ih =>
    obtain ⟨j, u⟩ := e
    unfold Mem.clear at *
    by_cases hj : j = b
    · subst hj
      have : (!(decide (lo ≤ j) && decide (j < lo + n))) = true := by
        simp only [Bool.not_eq_true', Bool.and_eq_false_iff, decide_eq_false_iff_not]
        omega
      simp [List.filter, this, Mem.read]
    · by_cases hin : (!(decide (lo ≤ j) && decide (j < lo + n))) = true
      · simp only [List.filter, hin, Mem.read, hj, if_false]; exact ih
      · simp only [Bool.not_eq_true] at hin
        simp only [List.filter, hin, Mem.read, hj, if_false]; exact ih

/-- A cleared byte reads 0. -/
theorem Mem.read_clear_in (m : Mem) (lo n b : Nat) (hb : lo ≤ b ∧ b < lo + n) : Mem.read (m.clear lo n) b = 0 := by
  induction m with
  | nil => rfl
  | cons e t ih =>
    obtain ⟨j, u⟩ := e
    unfold Mem.clear at *
    by_cases hin : (!(decide (lo ≤ j) && decide (j < lo + n))) = true
    · have hj : j ≠ b := by
        intro h; subst h
        simp only [Bool.not_eq_true', Bool.and_eq_false_iff, decide_eq_false_iff_not] at hin
        omega
      simp only [List.filter, hin, Mem.read, hj, if_false]; exact ih
    · simp only [Bool.not_eq_true] at hin
      simp only [List.filter, hin]; exact ih

end Sys2Proof

namespace Sys2Proof.Machine

/-! ## The cipher of Clay and CXL -/

/-- The halves of a block. -/
theorem high_half (x y : BitVec 64) : (x ++ y).extractLsb' 64 64 = x := by
  apply BitVec.eq_of_getLsbD_eq; intro i hi
  rw [BitVec.getLsbD_extractLsb', BitVec.getLsbD_append]; simp [hi]
theorem low_half (x y : BitVec 64) : (x ++ y).extractLsb' 0 64 = y := by
  apply BitVec.eq_of_getLsbD_eq; intro i hi
  rw [BitVec.getLsbD_extractLsb', BitVec.getLsbD_append]; simp [hi]
theorem halves (b : BitVec 128) : (b.extractLsb' 64 64 ++ b.extractLsb' 0 64 : BitVec 128) = b := by
  apply BitVec.eq_of_getLsbD_eq; intro i hi
  rw [BitVec.getLsbD_append, BitVec.getLsbD_extractLsb', BitVec.getLsbD_extractLsb']
  by_cases h : i < 64
  · simp [h]
  · have h1 : 64 + (i - 64) = i := by omega
    have h2 : i - 64 < 64 := by omega
    simp [h, h1, h2]

/-- A step of the cipher is undone. -/
@[simp] theorem halfBack_halfStep (f : BitVec 64 → BitVec 64) (b : BitVec 128) : halfBack f (halfStep f b) = b := by
  unfold halfBack halfStep
  dsimp only
  rw [high_half, low_half, BitVec.xor_assoc, BitVec.xor_self, BitVec.xor_zero, halves]

/-- Decryption undoes encryption, whatever the rounds are. -/
@[simp] theorem aesDec_aesEnc (k : BitVec 256) (b : BitVec 128) : aesDec k (aesEnc k b) = b := by
  unfold aesDec aesEnc
  generalize Config.aesRounds k = fs
  induction fs generalizing b with
  | nil => rfl
  | cons f fs ih => simp [ih]

/-- A block reads back under the keys that wrote it. -/
@[simp] theorem xtsDec_xtsEnc (ks : List (BitVec 256)) (unit : BitVec 128) (j : Nat) (b : BitVec 128) :
    xtsDec ks unit j (xtsEnc ks unit j b) = b := by
  match ks with
  | [] => rfl
  | [_] => rfl
  | k :: w :: _ => simp [xtsDec, xtsEnc, BitVec.xor_assoc]

/-! ## Bytes of a number -/

@[simp] theorem length_leBytes (n x : Nat) : (leBytes n x).length = n := by
  induction n generalizing x with
  | zero => rfl
  | succ n ih => simp [leBytes, ih]

/-- The value of n bytes of a number. -/
@[simp] theorem leNat_leBytes (n x : Nat) : leNat (leBytes n x) = x % 256 ^ n := by
  induction n generalizing x with
  | zero => simp [leBytes, leNat, Nat.mod_one]
  | succ n ih => simp [leBytes, leNat, ih, Nat.pow_succ', Nat.mod_mul]

/-- The bytes of their value. -/
@[simp] theorem leBytes_leNat (b : Bytes) : leBytes b.length (leNat b) = b := by
  induction b with
  | nil => rfl
  | cons x b ih =>
    have h1 : (x.toNat + 256 * leNat b) / 256 = leNat b := by have := x.isLt; omega
    have h2 : BitVec.ofNat 8 (x.toNat + 256 * leNat b) = x := by
      apply BitVec.eq_of_toNat_eq; have := x.isLt; simp only [BitVec.toNat_ofNat]; omega
    simp [leBytes, leNat, h1, h2, ih]

theorem leNat_lt (b : Bytes) : leNat b < 256 ^ b.length := by
  induction b with
  | nil => simp [leNat]
  | cons x b ih =>
    have := x.isLt
    simp only [leNat, List.length_cons, Nat.pow_succ']
    omega

end Sys2Proof.Machine
end

