-- ==== Sys2Proof/Laws/Operations.lean ====
section
/-!
SUPPORT. What each shared operation can do, said once: the fields of the state it may change, every other field being as it
was; and that the stores to the global memories keep their canonical form.
-/

namespace Sys2Proof.Machine

/-! ## Records, counters, events -/

theorem State.sendRec_only (s : State) (b : Nat) (r : ErrRec) :
    s.sendRec b r = { s with recBuf := (s.sendRec b r).recBuf, recLost := (s.sendRec b r).recLost } := by
  unfold State.sendRec; dsimp only; split <;> rfl

theorem State.bump_only (s : State) (off n : Nat) :
    s.bump off n = { s with regs := (s.bump off n).regs, recBuf := (s.bump off n).recBuf, recLost := (s.bump off n).recLost } := by
  unfold State.bump; dsimp only
  split
  · rfl
  · split
    · rfl
    · rw [State.sendRec_only]; rfl

/-- A counter below its end rises by n and nothing else changes. -/
theorem State.bump_reg (s : State) (off n : Nat) (h : (s.reg off).toNat + n < 2 ^ 64 - 1) (hn : n ≠ 0) :
    s.bump off n = s.setReg off (BitVec.ofNat 64 ((s.reg off).toNat + n)) := by
  unfold State.bump; dsimp only
  rw [if_neg (by omega), if_pos h]

theorem State.interrupt_only (s : State) (f v : Nat) :
    s.interrupt f v = { s with out := (s.interrupt f v).out, msixPend := (s.interrupt f v).msixPend } := by
  unfold State.interrupt
  (repeat' split) <;> rfl

theorem State.event_only (s : State) (e k : Nat) (d : Bytes) :
    s.event e k d = { s with ev := (s.event e k d).ev, regs := (s.event e k d).regs, out := (s.event e k d).out
                             msixPend := (s.event e k d).msixPend, recBuf := (s.event e k d).recBuf
                             recLost := (s.event e k d).recLost } := by
  unfold State.event; dsimp only
  generalize (bit (s.reg (Reg.evrCfg e)).toNat 0 && decide ((Tab.get {} s.ev e).used < _) && s.inWindow _ true _ 32) = b
  cases b
  · simp only [Bool.false_eq_true, if_false]
    rw [State.bump_only]
  · simp only [if_true]
    rw [State.interrupt_only]; rfl

/-! ## Engines and contexts -/

theorem State.modEngine_only (s : State) (p : Nat) (f : Engine → Engine) :
    s.modEngine p f = { s with eng := (s.modEngine p f).eng } := rfl

theorem State.modCtx_only (s : State) (p c : Nat) (f : Ctx → Ctx) : s.modCtx p c f = { s with eng := (s.modCtx p c f).eng } := rfl

theorem State.deliver_only (s : State) (p c : Nat) (k : Producer) (t : Tok) :
    s.deliver p c k t = { s with eng := (s.deliver p c k t).eng } := rfl

theorem State.journalBack_only (s : State) (p c : Nat) : s.journalBack p c = { s with eng := (s.journalBack p c).eng } := rfl

theorem State.complete_only (s : State) (r i st : Nat) (d : W64) :
    s.complete r i st d = { s with rings := (s.complete r i st d).rings } := rfl

theorem State.endShadow_only (s : State) (a : AuditRun) : s.endShadow a = { s with eng := (s.endShadow a).eng } := by
  unfold State.endShadow; split <;> rfl

/-- A dropped audit changes the audit, its register and the spare that held its shadow. -/
theorem State.dropAudit_only (s : State) (p c : Nat) :
    s.dropAudit p c = { s with eng := (s.dropAudit p c).eng, audit := (s.dropAudit p c).audit, regs := (s.dropAudit p c).regs } := by
  unfold State.dropAudit; split
  · split
    · rw [State.endShadow_only]; rfl
    · rfl
  · rfl

/-- Completions that are discarded change the rings alone. -/
theorem State.discardTags_only (n : Nat) (l : List HostTag) (s : State) :
    l.foldl (State.discardTag n) s = { s with rings := (l.foldl (State.discardTag n) s).rings } := by
  induction l generalizing s with
  | nil => rfl
  | cons t ts ih =>
    rw [List.foldl_cons, ih]
    cases t <;> rfl

theorem State.discardHeld_only (s : State) (p c n : Nat) :
    s.discardHeld p c n = { s with eng := (s.discardHeld p c n).eng, rings := (s.discardHeld p c n).rings } := by
  unfold State.discardHeld
  dsimp only
  rw [State.discardTags_only, State.modCtx_only]

/-- A context that stops for good: only contexts, rings, the audit and its register change. -/
theorem State.halt_only (s : State) (p c : Nat) :
    s.halt p c = { s with eng := (s.halt p c).eng, rings := (s.halt p c).rings, audit := (s.halt p c).audit, regs := (s.halt p c).regs } := by
  unfold State.halt
  dsimp only
  split
  · rw [State.dropAudit_only]
  · rw [State.discardHeld_only, State.dropAudit_only]; rfl

/-- A program fault besides sends its record and its event. -/
theorem State.faultIn_only (s : State) (p c code cls fpc : Nat) (b : Bool) :
    s.faultIn p c code cls fpc b = { s with
      eng := (s.faultIn p c code cls fpc b).eng, rings := (s.faultIn p c code cls fpc b).rings
      audit := (s.faultIn p c code cls fpc b).audit
      regs := (s.faultIn p c code cls fpc b).regs, recBuf := (s.faultIn p c code cls fpc b).recBuf
      recLost := (s.faultIn p c code cls fpc b).recLost, ev := (s.faultIn p c code cls fpc b).ev
      out := (s.faultIn p c code cls fpc b).out, msixPend := (s.faultIn p c code cls fpc b).msixPend } := by
  unfold State.faultIn; dsimp only
  split
  · rw [State.dropAudit_only]
  · rw [State.halt_only, State.event_only, State.sendRec_only]; rfl

theorem State.fault_only (s : State) (p c code cls fpc : Nat) :
    s.fault p c code cls fpc = { s with
      eng := (s.fault p c code cls fpc).eng, rings := (s.fault p c code cls fpc).rings, audit := (s.fault p c code cls fpc).audit
      regs := (s.fault p c code cls fpc).regs, recBuf := (s.fault p c code cls fpc).recBuf
      recLost := (s.fault p c code cls fpc).recLost, ev := (s.fault p c code cls fpc).ev
      out := (s.fault p c code cls fpc).out, msixPend := (s.fault p c code cls fpc).msixPend } :=
  State.faultIn_only s p c code cls fpc _

theorem State.stopForReplay_only (s : State) (p c : Nat) :
    s.stopForReplay p c = { s with eng := (s.stopForReplay p c).eng, audit := (s.stopForReplay p c).audit, regs := (s.stopForReplay p c).regs } := by
  unfold State.stopForReplay
  dsimp only
  split
  · rw [State.dropAudit_only]
  · rw [State.modCtx_only, State.modEngine_only, State.dropAudit_only]

theorem State.countSecond_only (s : State) (p cls : Nat) (k : Option Second) :
    s.countSecond p cls k = { s with regs := (s.countSecond p cls k).regs, recBuf := (s.countSecond p cls k).recBuf
                                     recLost := (s.countSecond p cls k).recLost } := by
  unfold State.countSecond
  (repeat' split) <;> first | rfl | exact State.bump_only _ _ _

/-- A check failure that is replayed sends its record and stops its context. -/
theorem State.replayBoth_only (s : State) (p c cls : Nat) (d : Bytes) (a : Option Nat) (k : Option Second) :
    s.replayBoth p c cls d a k = { s with
      eng := (s.replayBoth p c cls d a k).eng, audit := (s.replayBoth p c cls d a k).audit
      regs := (s.replayBoth p c cls d a k).regs
      recBuf := (s.replayBoth p c cls d a k).recBuf, recLost := (s.replayBoth p c cls d a k).recLost } := by
  have h1 := State.countSecond_only s p cls k
  unfold State.replayBoth
  dsimp only
  generalize s.countSecond p cls k = u at h1 ⊢
  generalize u.regs = g1, u.recBuf = g2, u.recLost = g3 at h1
  subst h1
  rw [State.stopForReplay_only]
  split <;> split <;> (rw [State.sendRec_only]; try rfl)

theorem State.replayFault_only (s : State) (p c cls : Nat) (d : Bytes) (a : Option Nat) :
    s.replayFault p c cls d a = { s with
      eng := (s.replayFault p c cls d a).eng, audit := (s.replayFault p c cls d a).audit, regs := (s.replayFault p c cls d a).regs
      recBuf := (s.replayFault p c cls d a).recBuf, recLost := (s.replayFault p c cls d a).recLost } :=
  State.replayBoth_only s p c cls d a none

/-! ## The global memories -/

/-- The canonical form rests on the four memories alone. -/
theorem State.globalWf_of_same {s t : State} (h : s.globalWf) (h1 : t.loam = s.loam) (h2 : t.clay = s.clay) (h3 : t.cxl0 = s.cxl0)
    (h4 : t.cxl1 = s.cxl1) : t.globalWf := by
  unfold State.globalWf; rw [h1, h2, h3, h4]; exact h

theorem State.fault_globalWf {s : State} (h : s.globalWf) (p c code cls fpc : Nat) : (s.fault p c code cls fpc).globalWf := by
  rw [State.fault_only]; exact h

theorem State.replayFault_globalWf {s : State} (h : s.globalWf) (p c cls : Nat) (d : Bytes) (a : Option Nat) :
    (s.replayFault p c cls d a).globalWf := by
  rw [State.replayFault_only]; exact h

theorem State.loamStore_globalWf {s : State} (h : s.globalWf) (off : Nat) (bs : Bytes) : (s.loamStore off bs).globalWf :=
  ⟨Mem.store_wf _ _ _ h.1, h.2⟩

theorem State.clayPut_globalWf {s : State} (h : s.globalWf) (q off : Nat) (bs : Bytes) : (s.clayPut q off bs).globalWf := by
  unfold State.clayPut
  split <;> exact ⟨h.1, Mem.store_wf _ _ _ h.2.1, h.2.2⟩

theorem State.clayStore_globalWf {s : State} (h : s.globalWf) (off : Nat) (bs : Bytes) : (s.clayStore off bs).globalWf := by
  unfold State.clayStore
  split
  · exact State.clayPut_globalWf h _ _ _
  · exact ⟨h.1, Mem.store_wf _ _ _ h.2.1, h.2.2⟩

/-- A CXL device's memory replaced by one in the form. -/
theorem State.setCxl_globalWf {s : State} (h : s.globalWf) (port : Bool) (m : Mem) (hm : m.wf = true) :
    (s.setCxl port m).globalWf := by
  cases port
  · exact ⟨h.1, h.2.1, hm, h.2.2.2⟩
  · exact ⟨h.1, h.2.1, h.2.2.1, hm⟩

theorem State.cxlMem_wf {s : State} (h : s.globalWf) (port : Bool) : (s.cxlMem port).wf = true := by
  cases port
  · exact h.2.2.1
  · exact h.2.2.2

theorem State.shaleStore_globalWf {s : State} (h : s.globalWf) (off : Nat) (bs : Bytes) : (s.shaleStore off bs).globalWf := by
  unfold State.shaleStore
  dsimp only
  split
  · exact State.clayPut_globalWf h _ _ _
  · split <;> exact State.setCxl_globalWf h _ _ (Mem.store_wf _ _ _ (State.cxlMem_wf h _))

theorem State.sandLand_globalWf {s : State} (h : s.globalWf) (p c off : Nat) (bs : Bytes) : (s.sandLand p c off bs).globalWf := by
  unfold State.sandLand; dsimp only; split <;> exact h

theorem State.siltLand_globalWf {s : State} (h : s.globalWf) (p c off : Nat) (bs : Bytes) : (s.siltLand p c off bs).globalWf := by
  unfold State.siltLand; dsimp only; split <;> exact h

/-- A store to any tier. -/
theorem State.tierStore_globalWf {s : State} (h : s.globalWf) (tier off : Nat) (bs : Bytes) : (s.tierStore tier off bs).globalWf := by
  unfold State.tierStore
  split
  · split
    · exact State.sandLand_globalWf h _ _ _ _
    · exact h
  · split
    · exact State.siltLand_globalWf h _ _ _ _
    · exact h
  · exact State.loamStore_globalWf h off bs
  · exact State.clayStore_globalWf h off bs
  · exact State.shaleStore_globalWf h off bs

/-- Zeroed granules of Loam. -/
theorem State.loamZero_globalWf {s : State} (h : s.globalWf) (g n : Nat) : (s.loamZero g n).globalWf :=
  ⟨Mem.clear_wf _ _ _ h.1, h.2⟩

end Sys2Proof.Machine
end

