-- ==== Sys2Proof/Laws/Checks.lean ====
section
/-!
SUPPORT. What a check failure that is replayed does, said once for all of them (R138, R175, R234, R283, R504, R506).
-/

namespace Sys2Proof.Machine

/-- A counter that has room rises by one. -/
theorem State.bump_small (s : State) (o : Nat) (h : (s.reg o).toNat + 1 < 2 ^ 64 - 1) :
    s.bump o 1 = s.setReg o (BitVec.ofNat 64 ((s.reg o).toNat + 1)) := State.bump_reg s o 1 h (by decide)

/-- The registers a failed check counts in are none of those it marks. -/
theorem classCounter_ne (p cls o : Nat) (hp : p < 52) (h : classCounter p cls = some o) :
    o ≠ Reg.engHealth p ∧ o ≠ Reg.auditStat ∧ (∀ n, n < 48 → o ≠ Reg.leMap n) := by
  unfold classCounter at h
  unfold Reg.engHealth Reg.auditStat Reg.leMap
  split at h <;> simp only [Option.some.injEq, reduceCtorEq] at h <;> subst h <;>
    simp only [Reg.arrChkfail, Reg.arrLoadfail, Reg.vecResfail, Reg.vecParfail, Reg.redDupfail, Reg.ccLockfail, Reg.sramEccunc,
      Reg.loamUnc, Reg.clayUnc, Reg.shalePoison] <;> exact ⟨by omega, by omega, fun n hn => by omega⟩

/-- Two classes do not share a counter. -/
theorem classCounter_inj (p a b o : Nat) (hp : p < 52) (ha : classCounter p a = some o) (hb : classCounter p b = some o) : a = b := by
  unfold classCounter at ha hb
  split at ha <;> split at hb <;> simp only [Option.some.injEq, reduceCtorEq] at ha hb <;> first | rfl | skip
  all_goals
    exfalso
    subst ha
    simp only [Reg.arrChkfail, Reg.arrLoadfail, Reg.vecResfail, Reg.vecParfail, Reg.redDupfail, Reg.ccLockfail, Reg.sramEccunc,
      Reg.loamUnc, Reg.clayUnc, Reg.shalePoison] at hb
    omega

/-- The records of a context depend on the registers only through the engine map. -/
theorem State.leOf_setReg (s : State) (p o : Nat) (v : W64) (h : ∀ n, n < 48 → o ≠ Reg.leMap n) : (s.setReg o v).leOf p = s.leOf p := by
  unfold State.leOf
  have : ∀ n ∈ List.range 48, ((s.setReg o v).fld (Reg.leMap n) 5 0 == p) = (s.fld (Reg.leMap n) 5 0 == p) := by
    intro n hn
    have hn : n < 48 := by simpa using hn
    simp only [State.fld, State.reg_setReg_ne _ _ _ _ (h n hn).symm]
  revert this
  generalize List.range 48 = l
  intro h
  induction l with
  | nil => rfl
  | cons a l ih =>
    have h1 := h a (List.mem_cons_self)
    have h2 := ih (fun n hn => h n (List.mem_cons_of_mem _ hn))
    simp only [List.find?_cons, h1, h2]
/-- So does the record of a failed check. -/
theorem State.failRec_setReg (s : State) (p c cls o : Nat) (d : Bytes) (k : Option Second) (v : W64) (h : ∀ n, n < 48 → o ≠ Reg.leMap n) :
    (s.setReg o v).failRec p c cls d k = s.failRec p c cls d k := by
  unfold State.failRec State.ctxRec
  rw [State.leOf_setReg s p o v h]
  rfl

/-- A counter's next value. -/
theorem toNat_succ (v : W64) (h : v.toNat + 1 < 2 ^ 64 - 1) : (BitVec.ofNat 64 (v.toNat + 1)).toNat = v.toNat + 1 := by
  rw [BitVec.toNat_ofNat]; omega

/-- The counters after the two bumps. -/
theorem State.counted_eq (s : State) (p cls : Nat) (k : Option Second) (o : Nat) (hp : p < 52) (ho : classCounter p cls = some o)
    (h : ∀ o ∈ failCounters p cls k, (s.reg o).toNat + 1 < 2 ^ 64 - 1) :
    ∃ R, (s.bump o 1).countSecond p cls k = { s with regs := R } ∧
      (∀ o ∈ failCounters p cls k, (({ s with regs := R } : State).reg o).toNat = (s.reg o).toNat + 1) ∧
      regsBut s { s with regs := R } (failCounters p cls k) := by
  have h0 := h o (by simp [failCounters, ho])
  rw [State.bump_small s o h0]
  cases k with
  | none =>
    refine ⟨_, rfl, ?_, ?_⟩
    · intro o' ho'
      simp only [failCounters, ho, Option.toList, List.append_nil, List.mem_singleton] at ho'
      subst ho'
      show ((s.setReg o' _).reg o').toNat = _
      simp [toNat_succ _ h0]
    · intro o' ho'
      simp only [failCounters, ho, Option.toList, List.append_nil, List.mem_singleton] at ho'
      show (s.setReg o _).reg o' = _
      simp [ho']
  | some k =>
    cases hk : classCounter p k.cls.toNat with
    | none =>
      refine ⟨_, by simp only [State.countSecond, hk]; rfl, ?_, ?_⟩
      · intro o' ho'
        simp only [failCounters, ho, hk, Option.toList, ite_self, List.append_nil, List.mem_singleton] at ho'
        subst ho'
        show ((s.setReg o' _).reg o').toNat = _
        simp [toNat_succ _ h0]
      · intro o' ho'
        simp only [failCounters, ho, hk, Option.toList, ite_self, List.append_nil, List.mem_singleton] at ho'
        show (s.setReg o _).reg o' = _
        simp [ho']
    | some o2 =>
      by_cases he : k.cls.toNat = cls
      · refine ⟨_, by simp only [State.countSecond, hk, if_pos he]; rfl, ?_, ?_⟩
        · intro o' ho'
          simp only [failCounters, ho, he, Option.toList, if_true, List.append_nil, List.mem_singleton] at ho'
          subst ho'
          show ((s.setReg o' _).reg o').toNat = _
          simp [toNat_succ _ h0]
        · intro o' ho'
          simp only [failCounters, ho, he, Option.toList, if_true, List.append_nil, List.mem_singleton] at ho'
          show (s.setReg o _).reg o' = _
          simp [ho']
      · have hne : o2 ≠ o := by
          intro e; subst e
          exact he (classCounter_inj p _ _ o2 hp hk ho)
        have h2 := h o2 (by simp [failCounters, hk, he])
        have hr : (s.setReg o (BitVec.ofNat 64 ((s.reg o).toNat + 1))).reg o2 = s.reg o2 := by simp [hne]
        have hb := State.bump_small (s.setReg o (BitVec.ofNat 64 ((s.reg o).toNat + 1))) o2 (by rw [hr]; exact h2)
        rw [hr] at hb
        refine ⟨_, by simp only [State.countSecond, hk, he, if_false, hb]; rfl, ?_, ?_⟩
        · intro o' ho'
          simp only [failCounters, ho, hk, he, Option.toList, if_false, List.mem_append, List.mem_singleton] at ho'
          show (((s.setReg o _).setReg o2 _).reg o').toNat = _
          rcases ho' with rfl | rfl
          · simp [hne.symm, toNat_succ _ h0]
          · simp [toNat_succ _ h2]
        · intro o' ho'
          simp only [failCounters, ho, hk, he, Option.toList, if_false, List.mem_append, List.mem_singleton, not_or] at ho'
          show ((s.setReg o _).setReg o2 _).reg o' = _
          simp [ho'.1, ho'.2]

/-- The class field of ENG_HEALTH once it is set. -/
theorem State.fld_setFld_class (s : State) (off v : Nat) (hv : v < 256) : (s.setFld off 15 8 v).fld off 15 8 = v := by
  simp only [State.fld, State.setFld, State.reg_setReg_same, bits]
  generalize s.reg off = old
  have h1 : ∀ w : W64, w.toNat / 2 ^ 8 % 2 ^ (15 + 1 - 8) = (w.extractLsb' 8 8).toNat := by
    intro w
    simp [BitVec.extractLsb'_toNat, Nat.shiftRight_eq_div_pow]
  rw [h1]
  have h2 : (BitVec.extractLsb' 8 8 ((old &&& ~~~BitVec.ofNat 64 ((2 ^ (15 + 1 - 8) - 1) * 2 ^ 8)) |||
      BitVec.ofNat 64 (v % 2 ^ (15 + 1 - 8) * 2 ^ 8))) = BitVec.ofNat 8 v := by
    apply BitVec.eq_of_getLsbD_eq
    intro i hi
    have : ((2 ^ (15 + 1 - 8) - 1) * 2 ^ 8 : Nat).testBit (8 + i) = true := by
      have : ∀ i : Fin 8, ((2 ^ (15 + 1 - 8) - 1) * 2 ^ 8 : Nat).testBit (8 + i.val) = true := by decide
      exact this ⟨i, hi⟩
    have h3 : (v % 2 ^ (15 + 1 - 8) * 2 ^ 8).testBit (8 + i) = v.testBit i := by
      rw [Nat.testBit_mul_two_pow]
      rw [Nat.mod_eq_of_lt (by simpa using hv)]
      simp
    have h4 : 8 + i < 64 := by omega
    rw [BitVec.getLsbD_extractLsb', BitVec.getLsbD_or, BitVec.getLsbD_and, BitVec.getLsbD_not, BitVec.getLsbD_ofNat,
      BitVec.getLsbD_ofNat, BitVec.getLsbD_ofNat, this, h3]
    simp [hi, h4]
  rw [h2, BitVec.toNat_ofNat]; omega

/-- A dropped audit changes AUDIT_STAT alone of the registers. -/
theorem State.dropAudit_eq (s : State) (p c : Nat) :
    ∃ R, s.dropAudit p c = { s with eng := (s.dropAudit p c).eng, audit := (s.dropAudit p c).audit, regs := R } ∧
    ∀ o, o ≠ Reg.auditStat → ({ s with regs := R } : State).reg o = s.reg o := by
  unfold State.dropAudit
  split
  · split
    · rw [State.endShadow_only]
      refine ⟨_, rfl, ?_⟩
      intro o ho
      show (State.setReg _ _ _).reg o = _
      rw [State.reg_setReg_ne _ _ _ _ ho]
    · exact ⟨_, rfl, fun _ _ => rfl⟩
  · exact ⟨_, rfl, fun _ _ => rfl⟩

@[simp] theorem State.endShadow_audit (s : State) (a : AuditRun) : (s.endShadow a).audit = s.audit := by
  unfold State.endShadow; split <;> rfl

theorem State.endShadow_same {s t : State} (a : AuditRun) (he : t.eng = s.eng) : (t.endShadow a).eng = (s.endShadow a).eng := by
  have hg : ∀ p, t.engine p = s.engine p := by intro p; unfold State.engine; rw [he]
  have hc : t.ctx a.spare a.c = s.ctx a.spare a.c := by unfold State.ctx; rw [hg]
  unfold State.endShadow
  rw [hc]
  split
  · show t.eng.set a.spare _ = s.eng.set a.spare _
    rw [he, hg]
  · exact he

/-- A dropped audit depends on the contexts and the audit alone. -/
theorem State.dropAudit_same {s t : State} (p c : Nat) (he : t.eng = s.eng) (ha : t.audit = s.audit) :
    (t.dropAudit p c).eng = (s.dropAudit p c).eng ∧ (t.dropAudit p c).audit = (s.dropAudit p c).audit := by
  unfold State.dropAudit
  rw [ha]
  split
  · split
    · rename_i a _ _
      refine ⟨State.endShadow_same (s := { s with audit := none }) (t := { t with audit := none }) a he, ?_⟩
      show (State.endShadow { t with audit := none } a).audit = (State.endShadow { s with audit := none } a).audit
      rw [State.endShadow_audit, State.endShadow_audit]
    · exact ⟨he, ha⟩
  · exact ⟨he, ha⟩

/-- The engine of a context that is no shadow keeps all it has when the context's audit is dropped. -/
theorem State.dropAudit_engine (s : State) (p c : Nat) (h : (s.ctx p c).shadow = false) :
    (s.dropAudit p c).engine p = s.engine p := by
  unfold State.dropAudit
  split
  · split
    · rename_i a _ hh
      show (({ s with audit := none } : State).endShadow a).engine p = _
      unfold State.endShadow
      split
      · rename_i hs
        by_cases hp : a.spare = p
        · exfalso
          rw [hp, hh.2] at hs
          exact Bool.false_ne_true (h.symm.trans hs)
        · simp only [State.modEngine_eq, State.engine_setEngine_ne _ _ _ _ (Ne.symm hp)]
          rfl
      · rfl
    · rfl
  · rfl

/-- The class of a joint record is a byte. -/
theorem ErrRec.joined_cls (r : ErrRec) (k : Second) (h : r.cls < 256) : (r.joined k).cls < 256 := by
  unfold ErrRec.joined
  have := k.cls.isLt
  split
  · exact this
  · split <;> exact h

/-- So is that of a record of a failed check. -/
theorem State.failRec_cls (s : State) (p c cls : Nat) (d : Bytes) (k : Option Second) (h : cls < 256) :
    (s.failRec p c cls d k).cls < 256 := by
  unfold State.failRec
  cases k with
  | none => exact h
  | some k => exact ErrRec.joined_cls _ _ h

/-- A class that counts is a byte. -/
theorem classCounter_lt (p cls o : Nat) (h : classCounter p cls = some o) : cls < 256 := by
  unfold classCounter at h
  split at h <;> simp_all <;> omega

/-- A check failure that its class counts stops its context for a replay. -/
theorem State.replayBoth_stops (s : State) (p c cls o : Nat) (d : Bytes) (a : Option Nat) (k : Option Second) (hp : p < 52)
    (ho : classCounter p cls = some o) (h : s.countsFails p c (failCounters p cls k)) :
    StoppedForReplay s ((s.bump o 1).replayBoth p c cls d a k) p c (s.failRec p c cls d k) a (failCounters p cls k) := by
  obtain ⟨hc, hb, hg⟩ := h
  have hne := classCounter_ne p cls o hp ho
  have h0 := hc o (by simp [failCounters, ho])
  obtain ⟨R, hR, hR1, hR2⟩ := State.counted_eq s p cls k o hp ho hc
  have hf : (s.bump o 1).failRec p c cls d k = s.failRec p c cls d k := by
    rw [State.bump_small s o h0]; exact State.failRec_setReg s p c cls o d k _ hne.2.2
  have hcls := State.failRec_cls s p c cls d k (classCounter_lt p cls o ho)
  have hoffs : ∀ o' ∈ failCounters p cls k, o' ≠ Reg.engHealth p ∧ o' ≠ Reg.auditStat := by
    intro o' ho'
    simp only [failCounters, List.mem_append, Option.mem_toList] at ho'
    rcases ho' with h1 | h1
    · have := classCounter_ne p cls o' hp h1; exact ⟨this.1, this.2.1⟩
    · cases k with
      | none => simp at h1
      | some k =>
        simp only at h1
        split at h1
        · simp at h1
        · have := classCounter_ne p _ o' hp (by simpa using h1); exact ⟨this.1, this.2.1⟩
  have hea : Reg.engHealth p ≠ Reg.auditStat := by unfold Reg.engHealth Reg.auditStat; omega
  unfold State.replayBoth
  dsimp only
  rw [hf, hR]
  generalize s.failRec p c cls d k = r at hcls ⊢
  -- the record
  have hsr : ({ s with regs := R } : State).sendRec p r = { s with regs := R, recBuf := s.recBuf.set p (Tab.get [] s.recBuf p ++ [r]) } := by
    unfold State.sendRec; dsimp only; rw [if_pos hb]
  rw [hsr]
  -- ENG_HEALTH
  generalize hB : s.recBuf.set p (Tab.get [] s.recBuf p ++ [r]) = B
  have hH : ∃ R', (if (decide (2 ≤ r.cls) && decide (r.cls ≤ 8)) = true then
      ({ s with regs := R, recBuf := B } : State).setFld (Reg.engHealth p) 15 8 r.cls else { s with regs := R, recBuf := B }) =
        { s with regs := R', recBuf := B } ∧
      (2 ≤ r.cls ∧ r.cls ≤ 8 → ({ s with regs := R' } : State).fld (Reg.engHealth p) 15 8 = r.cls) ∧
      ∀ o', o' ≠ Reg.engHealth p → ({ s with regs := R' } : State).reg o' = ({ s with regs := R } : State).reg o' := by
    split
    · refine ⟨_, rfl, ?_, ?_⟩
      · intro _
        exact State.fld_setFld_class { s with regs := R, recBuf := B } _ _ hcls
      · intro o' ho'
        exact State.reg_setReg_ne { s with regs := R, recBuf := B } _ _ _ ho'
    · rename_i hx
      refine ⟨R, rfl, ?_, fun _ _ => rfl⟩
      intro hy; simp [hy] at hx
  obtain ⟨R', hR', hF, hO⟩ := hH
  rw [hR']
  have hsame := State.dropAudit_same (s := s) (t := { s with regs := R', recBuf := B }) p c rfl rfl
  obtain ⟨R2, hA, hA2⟩ := State.dropAudit_eq { s with regs := R', recBuf := B } p c
  rw [hsame.1, hsame.2] at hA
  have hcnt : ∀ o' ∈ failCounters p cls k, (({ s with regs := R2 } : State).reg o').toNat = (s.reg o').toNat + 1 := by
    intro o' ho'
    have h1 := hA2 o' (hoffs o' ho').2
    have h2 := hO o' (hoffs o' ho').1
    have h3 : ({ s with regs := R2 } : State).reg o' = ({ s with regs := R } : State).reg o' := by
      rw [← h2]; exact h1
    rw [h3]; exact hR1 o' ho'
  have hcl : 2 ≤ r.cls ∧ r.cls ≤ 8 → ({ s with regs := R2 } : State).fld (Reg.engHealth p) 15 8 = r.cls := by
    intro hx
    rw [← hF hx]
    simp only [State.fld]
    have : ({ s with regs := R2 } : State).reg (Reg.engHealth p) = ({ s with regs := R' } : State).reg (Reg.engHealth p) := hA2 _ hea
    rw [this]
  have hbut : regsBut s { s with regs := R2 } (failCounters p cls k ++ [Reg.engHealth p, Reg.auditStat]) := by
    intro o' ho'
    simp only [List.mem_append, not_or] at ho'
    have h1 : ({ s with regs := R2 } : State).reg o' = ({ s with regs := R' } : State).reg o' := hA2 o' (by simp at ho'; exact ho'.2.2)
    rw [h1, hO o' (by simp at ho'; exact ho'.2.1)]
    exact hR2 o' ho'.1
  have hsh : (({ s with regs := R', recBuf := B } : State).ctx p c).shadow = (s.ctx p c).shadow := rfl
  rw [hsh]
  unfold State.stopForReplay
  rw [hsh]
  cases hv : (s.ctx p c).shadow
  case true =>
    dsimp only
    rw [if_pos rfl, if_pos rfl, hA]
    exact ⟨hcnt, hB.symm, hcl, hbut, rfl, fun _ => rfl, fun h => absurd (h.symm.trans hv) (by decide)⟩
  rw [if_neg Bool.false_ne_true, if_neg Bool.false_ne_true]
  have hpe := State.dropAudit_engine s p c hv
  dsimp only
  rw [hA]
  generalize hT : s.dropAudit p c = T at hpe
  have hpc : ∀ j, T.ctx p j = s.ctx p j := by intro j; unfold State.ctx; rw [hpe]
  have hpe' : ({ s with regs := R2, recBuf := B, eng := T.eng, audit := T.audit } : State).engine p = s.engine p := hpe
  have hgo : (({ s with regs := R2, recBuf := B, eng := T.eng, audit := T.audit } : State).modEngine p (·.discard c)).ctx p c = s.ctx p c := by
    simp only [State.modEngine_eq, State.ctx_setEngine_same, hpe']; rfl
  refine ⟨hcnt, hB.symm, hcl, hbut, by rw [hT]; rfl, fun h => absurd (hv.symm.trans h) (by decide), fun _ => ⟨?_, ?_, ?_, ?_, ?_, ?_, ?_⟩⟩
  · simp [State.modCtx_eq, hgo, hg]
  · simp [State.modCtx_eq, hgo]
  · simp [State.modCtx_eq, hgo, hg, Ctx.discard]
  · simp [State.modCtx_eq, hgo, hg, Ctx.discard]
  · intro j hj
    simp only [State.modCtx_eq, State.setCtx_eq, State.modEngine_eq, State.engine_setEngine_ne _ _ _ _ hj, hT]
    rfl
  · intro j hj
    simp only [State.modCtx_eq, State.ctx_setCtx_ne _ _ _ _ _ hj, State.modEngine_eq, State.ctx_setEngine_same, hpe']
    rfl
  · simp only [State.modCtx_eq, State.setCtx_eq, State.modEngine_eq, State.engine_setEngine_same, hpe']
    rfl

/-! ## Program faults -/

/-- A record of a counter outside the engines' windows goes to no engine's block. -/
theorem State.bump_recBuf (s : State) (off n p : Nat) (hp : p < 52) (hw : windowOf off = none) :
    Tab.get [] (s.bump off n).recBuf p = Tab.get [] s.recBuf p := by
  unfold State.bump; dsimp only
  split
  · rfl
  · split
    · rfl
    · rw [hw]; unfold State.sendRec; dsimp only
      split
      · show Tab.get [] (Tab.set s.recBuf blkMem _) p = _
        rw [Tab.get_set_ne]; unfold blkMem; omega
      · rfl

/-- A record that an event sends goes to no engine's block. -/
theorem State.event_recBuf (s : State) (e k : Nat) (d : Bytes) (p : Nat) (hp : p < 52) (he : e < 16) :
    Tab.get [] (s.event e k d).recBuf p = Tab.get [] s.recBuf p := by
  unfold State.event; dsimp only
  generalize (bit (s.reg (Reg.evrCfg e)).toNat 0 && decide ((Tab.get {} s.ev e).used < _) && s.inWindow _ true _ 32) = b
  cases b
  · simp only [Bool.false_eq_true, if_false]
    rw [State.bump_recBuf _ _ _ _ hp (by unfold windowOf Reg.evrLost; rw [if_neg (by omega)])]
  · simp only [if_true]
    rw [State.interrupt_only]; rfl

/-- A record changes no register. -/
@[simp] theorem State.reg_sendRec (s : State) (b : Nat) (r : ErrRec) (o : Nat) : (s.sendRec b r).reg o = s.reg o := by
  unfold State.sendRec; dsimp only; split <;> rfl

/-- Nor does an interrupt. -/
@[simp] theorem State.reg_interrupt (s : State) (f v o : Nat) : (s.interrupt f v).reg o = s.reg o := by
  unfold State.interrupt; (repeat' split) <;> rfl

/-- An event changes only its ring's own registers. -/
theorem State.event_reg (s : State) (e k : Nat) (d : Bytes) (o : Nat) (h1 : o ≠ Reg.evrStat e) (h2 : o ≠ Reg.evrLost e) :
    (s.event e k d).reg o = s.reg o := by
  unfold State.event; dsimp only
  generalize (bit (s.reg (Reg.evrCfg e)).toNat 0 && decide ((Tab.get {} s.ev e).used < _) && s.inWindow _ true _ 32) = b
  cases b
  · simp only [Bool.false_eq_true, if_false]
    unfold State.bump; dsimp only
    split
    · rfl
    · split
      · rw [State.reg_setReg_ne _ _ _ _ h2]; rfl
      · rw [State.reg_sendRec, State.reg_setReg_ne _ _ _ _ h2]; rfl
  · simp only [if_true]
    rw [State.reg_interrupt, State.reg_emit, State.reg_setReg_ne _ _ _ _ h1]; rfl

/-- Completions that are discarded change nothing of the contexts but what one context's HOST tokens carry. -/
theorem State.discardHeld_eq (s : State) (p c n : Nat) : ∃ R a b,
    s.discardHeld p c n = { (s.setCtx p c { s.ctx p c with hostTags := a, hostPopped := b }) with rings := R } := by
  unfold State.discardHeld
  dsimp only
  rw [State.discardTags_only]
  exact ⟨_, _, _, rfl⟩

/-- The journal's memory does not depend on registers outside the engines' windows. -/
theorem State.journalMem_of (s t : State) (p c : Nat) (he : t.engine p = s.engine p)
    (hr : t.reg (Reg.ccShare p c) = s.reg (Reg.ccShare p c)) : t.journalMem p c = s.journalMem p c := by
  unfold State.journalMem State.ccDShare State.fld State.ctx
  rw [hr, he]

/-- A context that stops for good. -/
def Ctx.stopped (x : Ctx) : Ctx :=
  { x.discard with xfers := x.xfers.filter Xfer.owed, journal := [], st := .halted, held := false, rep := .idle
                   stalls := false, stalled := false }

/-- A context that stops for good: the parts of its engine that change. -/
theorem State.halt_eq (s : State) (p c : Nat) (hs : (s.ctx p c).shadow = false) : ∃ R G a b, s.halt p c =
    { ((s.dropAudit p c).setEngine p (Engine.setCtx { (s.engine p).discard c with ccD := s.journalMem p c } c
      { (s.ctx p c).stopped with hostTags := a, hostPopped := b })) with regs := R, rings := G } := by
  obtain ⟨R, hA, hR⟩ := State.dropAudit_eq s p c
  have hpe := State.dropAudit_engine s p c hs
  have hj : (s.dropAudit p c).journalMem p c = s.journalMem p c := by
    refine State.journalMem_of _ _ _ _ hpe ?_
    rw [hA]
    exact hR _ (by unfold Reg.ccShare Reg.auditStat; omega)
  have hg : (s.dropAudit p c).rings = s.rings := by rw [hA]
  unfold State.halt
  rw [hs, if_neg Bool.false_ne_true]
  dsimp only
  generalize hT : s.dropAudit p c = T at hpe hj
  obtain ⟨G, a, b, hG⟩ := State.discardHeld_eq (((T.journalBack p c).modEngine p (·.discard c)).modCtx p c Ctx.stopped) p c 1
  refine ⟨T.regs, G, a, b, ?_⟩
  have : ((T.journalBack p c).modEngine p (·.discard c)).modCtx p c Ctx.stopped =
      ((T.journalBack p c).modEngine p (·.discard c)).modCtx p c (fun x => { x.discard with
        xfers := x.xfers.filter Xfer.owed, journal := [], st := .halted, held := false, rep := .idle, stalls := false
        stalled := false }) := rfl
  rw [← this, hG]
  simp only [State.modCtx_eq, State.setCtx_eq, State.ctx_setEngine_same, State.engine_setEngine_same, State.setEngine_setEngine,
    State.modEngine_eq, State.journalBack, hj, hpe, Engine.at_setCtx_same, Engine.setCtx_setCtx]
  rfl

/-- A program fault halts its context. -/
theorem State.faultIn_halts (s : State) (p c code cls fpc : Nat) (b : Bool) (hp : p < 52) :
    HaltedBy s (s.faultIn p c code cls fpc b) p c code cls fpc b := by
  unfold State.faultIn HaltedBy
  dsimp only
  cases hs : (s.ctx p c).shadow
  case true => rw [if_pos rfl, if_pos rfl]
  rw [if_neg Bool.false_ne_true, if_neg Bool.false_ne_true]
  have h1 := State.sendRec_only s p (s.ctxRec p c 0x10 (leBytes 4 code ++ leBytes 4 fpc))
  generalize hu : s.sendRec p (s.ctxRec p c 0x10 (leBytes 4 code ++ leBytes 4 fpc)) = u at h1
  have hue : u.eng = s.eng := by rw [h1]
  have hua : u.audit = s.audit := by rw [h1]
  have hctx : ∀ j k, u.ctx j k = s.ctx j k := by intro j k; unfold State.ctx State.engine; rw [hue]
  have h2 := State.event_only u (u.ctx p c).part 0x0001
    (leBytes 4 ((u.leOf p).getD 0xFF) ++ leBytes 4 c ++ leBytes 4 code ++ leBytes 4 fpc)
  have hvr := State.event_reg u (u.ctx p c).part 0x0001
    (leBytes 4 ((u.leOf p).getD 0xFF) ++ leBytes 4 c ++ leBytes 4 code ++ leBytes 4 fpc) (Reg.ccShare p c)
  have hrec : (Tab.get [] s.recBuf p).length < 8 → (s.ctx p c).part < 8 →
      Tab.get [] (u.event (u.ctx p c).part 0x0001 (leBytes 4 ((u.leOf p).getD 0xFF) ++ leBytes 4 c ++ leBytes 4 code ++
        leBytes 4 fpc)).recBuf p = Tab.get [] s.recBuf p ++ [s.ctxRec p c 0x10 (leBytes 4 code ++ leBytes 4 fpc)] := by
    intro ha hb
    rw [State.event_recBuf _ _ _ _ _ hp (by rw [hctx]; omega), ← hu]
    unfold State.sendRec; dsimp only; rw [if_pos ha]
    simp
  generalize u.event (u.ctx p c).part 0x0001 (leBytes 4 ((u.leOf p).getD 0xFF) ++ leBytes 4 c ++ leBytes 4 code ++
        leBytes 4 fpc) = v at h2 hrec hvr ⊢
  have hve : v.eng = s.eng := by rw [h2]; exact hue
  have hva : v.audit = s.audit := by rw [h2]; exact hua
  have hvc : ∀ j k, v.ctx j k = s.ctx j k := by intro j k; unfold State.ctx State.engine; rw [hve]
  have hvn : ∀ j, v.engine j = s.engine j := by intro j; unfold State.engine; rw [hve]
  have hj : (s.ctx p c).part < 8 → v.journalMem p c = s.journalMem p c := by
    intro hb
    refine State.journalMem_of _ _ _ _ (hvn p) ?_
    rw [hvr]
    · rw [← hu]; rw [State.sendRec_only]; rfl
    · rw [hctx]; unfold Reg.ccShare Reg.evrStat; omega
    · rw [hctx]; unfold Reg.ccShare Reg.evrLost; omega
  have hsame := State.dropAudit_same (s := s) (t := v) p c hve hva
  have hpe := State.dropAudit_engine s p c hs
  have hde : ∀ j, (v.dropAudit p c).engine j = (s.dropAudit p c).engine j := by intro j; unfold State.engine; rw [hsame.1]
  obtain ⟨R, G, a, b', hH⟩ := State.halt_eq v p c (by rw [hvc]; exact hs)
  have hdo := State.dropAudit_only v p c
  rw [hH, hvc, hvn]
  generalize hE : Engine.setCtx { (s.engine p).discard c with ccD := v.journalMem p c } c
      { (s.ctx p c).stopped with hostTags := a, hostPopped := b' } = E
  have hc : E.at c = { (s.ctx p c).stopped with hostTags := a, hostPopped := b' } := by
    rw [← hE]; simp
  generalize hU : ({ ((v.dropAudit p c).setEngine p E) with regs := R, rings := G } : State) = U
  have h0 : U.engine p = E := by rw [← hU]; show ((v.dropAudit p c).setEngine p E).engine p = E; simp
  have h0c : ∀ k, U.ctx p k = E.at k := by intro k; unfold State.ctx; rw [h0]
  have h0n : ∀ j, j ≠ p → U.engine j = (s.dropAudit p c).engine j := by
    intro j hj
    rw [← hU, ← hde]
    show ((v.dropAudit p c).setEngine p E).engine j = _
    rw [State.engine_setEngine_ne _ _ _ _ hj]
  have h0r : U.recBuf = v.recBuf := by
    rw [← hU]; show (v.dropAudit p c).recBuf = _; rw [hdo]
  have h0o : U = { s with eng := U.eng, rings := U.rings, audit := (s.dropAudit p c).audit, regs := U.regs, recBuf := U.recBuf
                          recLost := U.recLost, ev := U.ev, out := U.out, msixPend := U.msixPend } := by
    rw [← hU, ← hsame.2, hdo, h2, h1]; rfl
  generalize hT : U.modCtx p c (fun x => { x with fault := code, fpc := fpc, fbankB := b, fclass := cls }) = T
  have k1 : T.ctx p c = { (s.ctx p c).stopped with hostTags := a, hostPopped := b', fault := code, fpc := fpc, fbankB := b, fclass := cls } := by
    rw [← hT, State.modCtx_eq, State.ctx_setCtx_same, h0c, hc]
  have k2 : T.engine p = { E with ctx := (T.engine p).ctx } := by
    rw [← hT, State.modCtx_eq, State.setCtx_eq, State.engine_setEngine_same, h0]; rfl
  have k3 : ∀ j, j ≠ p → T.engine j = (s.dropAudit p c).engine j := by
    intro j hj
    rw [← hT, State.modCtx_eq, State.setCtx_eq, State.engine_setEngine_ne _ _ _ _ hj, h0n j hj]
  have k4 : ∀ j, j ≠ c → T.ctx p j = s.ctx p j := by
    intro j hj
    rw [← hT, State.modCtx_eq, State.ctx_setCtx_ne _ _ _ _ _ hj, h0c, ← hE, Engine.at_setCtx_ne _ _ _ _ hj]; rfl
  have kk : ∀ {α : Type} (g : Ctx → α), g (T.ctx p c) = g { (s.ctx p c).stopped with
      hostTags := a, hostPopped := b', fault := code, fpc := fpc, fbankB := b, fclass := cls } := fun g => by rw [k1]
  refine ⟨kk _, kk _, kk _, kk _, kk _, kk _, kk _, kk _, kk _, kk _, kk _, ?_, ?_, k3, k4, ?_⟩
  · intro hb
    refine ⟨?_, ?_⟩
    · rw [k2, ← hE]; exact hj hb
    · intro ha
      rw [← hT]
      show Tab.get [] U.recBuf p = _
      rw [h0r]; exact hrec ha hb
  · rw [← hT, h0o]; rfl
  · rw [k2, ← hE]; rfl

end Sys2Proof.Machine
end

