-- ==== Sys2Proof/Laws/Issue.lean ====
section
/-!
SUPPORT. Laws of issue: what a row of an engine instruction answers when its instruction runs, and what popping a group's
TW tokens and advancing the PC leave as it was.
-/

namespace Sys2Proof.Machine

/-- A group that may go on is not stopped by its waits. -/
theorem State.goes_on {s : State} {p c : Nat} (h : 0 < (s.ctx p c).gi ∨ s.gate p c = .go ∧ s.laterBad p c = none) :
    ¬ ((s.ctx p c).gi = 0 ∧ s.gate p c ≠ .go) := by
  rintro ⟨ha, hb⟩
  rcases h with h | h
  · omega
  · exact hb h.1

/-- Nor by a fault of a later word. -/
theorem State.goes_whole {s : State} {p c : Nat} (h : 0 < (s.ctx p c).gi ∨ s.gate p c = .go ∧ s.laterBad p c = none) :
    (if (decide ((s.ctx p c).gi = 0) && s.firstRuns p c) = true then s.laterBad p c else none) = none := by
  split
  · rename_i hc
    simp only [Bool.and_eq_true, decide_eq_true_eq] at hc
    rcases h with h | h
    · omega
    · exact h.2
  · rfl

/-- A row whose instruction runs in sequence: its effect, and then the advance. -/
theorem State.issue_seq {s u : State} {p c : Nat} {o : EngOp} {w : W64} {run : W64 → State → Ran}
    (h : s.canRun p c o w) (hr : run w (s.opened p c) = .seq u) : s.issue p c o run = u.advance p c w := by
  obtain ⟨h1, rfl⟩ := h
  simp only [State.issues, Bool.and_eq_true, Bool.or_eq_true, decide_eq_true_eq, beq_iff_eq] at h1
  obtain ⟨⟨h11, h12⟩, h13⟩ := h1
  simp only [State.issue, h11, Bool.not_true, if_false, State.goes_on h12, State.goes_whole h12, h13, if_true, State.execAt, hr,
    Bool.false_eq_true]

/-- A row whose instruction jumps: its effect, and control at the target. -/
theorem State.issue_jump {s u : State} {p c n : Nat} {o : EngOp} {w : W64} {run : W64 → State → Ran}
    (h : s.canRun p c o w) (hr : run w (s.opened p c) = .jump u n) : s.issue p c o run = u.goto p c n := by
  obtain ⟨h1, rfl⟩ := h
  simp only [State.issues, Bool.and_eq_true, Bool.or_eq_true, decide_eq_true_eq, beq_iff_eq] at h1
  obtain ⟨⟨h11, h12⟩, h13⟩ := h1
  simp only [State.issue, h11, Bool.not_true, if_false, State.goes_on h12, State.goes_whole h12, h13, if_true, State.execAt, hr,
    Bool.false_eq_true]

/-! ## Popping a group's tokens -/

/-- A popped token changes no recorded part. -/
@[simp] theorem Ctx.pop_cur (x : Ctx) (k : Nat) : (x.pop k).cur = x.cur := by
  unfold Ctx.pop
  split
  · rfl
  · dsimp only
    split <;> split <;> (try split) <;> rfl

/-- Popping the TW tokens changes no recorded part. -/
@[simp] theorem popTw_cur (x : Ctx) (g : List W64) : (popTw x g).cur = x.cur := by
  unfold popTw
  induction g generalizing x with
  | nil => rfl
  | cons w g ih =>
    rw [List.foldl_cons, ih]
    split
    · simp
    · rfl

/-- The state in which a group issues differs in the context alone. -/
theorem State.opened_eq (s : State) (p c : Nat) : s.opened p c = if (s.ctx p c).gi = 0 then s.setCtx p c (s.ctxAt p c) else s := by
  unfold State.ctxAt State.opened
  split
  · simp [State.modCtx_eq]
  · rfl

/-- Its recorded part is as before. -/
@[simp] theorem State.ctxAt_cur (s : State) (p c : Nat) : (s.ctxAt p c).cur = (s.ctx p c).cur := by
  unfold State.ctxAt State.opened
  split
  · simp [State.modCtx_eq]
  · rfl

/-- The registers are as before. -/
@[simp] theorem State.opened_regs (s : State) (p c : Nat) : (s.opened p c).regs = s.regs := by
  unfold State.opened; split <;> rfl
/-- The fuses are as before. -/
@[simp] theorem State.opened_fuse (s : State) (p c : Nat) : (s.opened p c).fuse = s.fuse := by
  unfold State.opened; split <;> rfl
/-- A register reads as before. -/
@[simp] theorem State.opened_reg (s : State) (p c off : Nat) : (s.opened p c).reg off = s.reg off := by
  simp [State.reg]
/-- A field of a register reads as before. -/
@[simp] theorem State.opened_fld (s : State) (p c off hi lo : Nat) : (s.opened p c).fld off hi lo = s.fld off hi lo := by
  simp [State.fld]
/-- The vector registers are as before. -/
@[simp] theorem State.opened_vregs (s : State) (p c j : Nat) : ((s.opened p c).engine j).vreg = (s.engine j).vreg := by
  rw [State.opened_eq]
  split
  · by_cases h : j = p
    · subst h; simp [State.setCtx_eq, Engine.setCtx]
    · simp [State.setCtx_eq, h]
  · rfl
/-- A vector register reads as before. -/
@[simp] theorem State.opened_vreg (s : State) (p c i : Nat) : (s.opened p c).vreg p c i = s.vreg p c i := by
  simp [State.vreg, State.vregShare]
/-- The register check reads as before. -/
@[simp] theorem State.opened_vregOut (s : State) (p c : Nat) (o : EngOp) (w : W64) :
    (s.opened p c).vregOut p c o w = s.vregOut p c o w := by
  unfold State.opened; split <;> rfl
/-- The context is the one in which the group issues. -/
@[simp] theorem State.opened_ctx (s : State) (p c : Nat) : (s.opened p c).ctx p c = s.ctxAt p c := rfl

/-! ## Advancing -/

/-- The advance keeps every part outside the context. -/
theorem State.advance_eq (s : State) (p c : Nat) (w : W64) : ∃ y, s.advance p c w = s.setCtx p c y ∧ (s.ctx p c).issued y (s.ctx p c).cur := by
  unfold State.advance
  rw [State.modCtx_eq]
  exact ⟨_, rfl, by unfold Ctx.issued; split <;> rfl⟩

/-- What an effect leaves, with the advance after it: the effect set context c to x, which issue began from the context
with which the group issues. -/
theorem State.advance_runs (s u : State) (s' : State) (p c : Nat) (w : W64) (e : Engine) (x y : Ctx) (r : Rec)
    (h1 : u = { s' with eng := u.eng }) (h2 : ∀ j, j ≠ p → u.engine j = s.engine j)
    (h3 : u.engine p = { e with ctx := (u.engine p).ctx }) (h4 : ∀ j, j ≠ c → u.ctx p j = s.ctx p j)
    (h5 : u.ctx p c = y) (h6 : x.issued y r) : RunsTo s s' (u.advance p c w) p c e x r := by
  obtain ⟨z, hz, hi⟩ := State.advance_eq u p c w
  rw [hz]
  subst h5
  refine ⟨?_, ?_, ?_, ?_, ?_⟩
  · generalize hE : u.eng = E at h1
    subst h1
    rfl
  · intro j hj; simp [State.setCtx_eq, hj, h2]
  · simp only [State.setCtx_eq, State.engine_setEngine_same]
    generalize hC : (u.engine p).ctx = C at h3
    rw [h3]
    rfl
  · intro j hj; simp [hj, h4]
  · rw [State.ctx_setCtx_same]
    unfold Ctx.issued at *
    rw [hi]
    generalize u.ctx p c = v at *
    generalize hg : v.gi = g1 at h6
    generalize v.oldV = g3 at h6
    generalize v.oldP = g4 at h6
    generalize v.cur.pc = g5 at h6
    generalize v.cur.loops = g6 at h6
    subst h6
    rfl

/-! ## The common effects -/

/-- Issuing changes no part outside the context. -/
theorem State.opened_withEng (s : State) (p c : Nat) : s.opened p c = { s with eng := (s.opened p c).eng } := by
  rw [State.opened_eq]; split <;> rfl
/-- Nor another engine. -/
theorem State.opened_engine_ne (s : State) (p c j : Nat) (h : j ≠ p) : (s.opened p c).engine j = s.engine j := by
  rw [State.opened_eq]; split
  · simp [State.setCtx_eq, h]
  · rfl
/-- Nor its engine beside the contexts. -/
theorem State.opened_engine (s : State) (p c : Nat) :
    (s.opened p c).engine p = { s.engine p with ctx := ((s.opened p c).engine p).ctx } := by
  rw [State.opened_eq]; split
  · simp [State.setCtx_eq, Engine.setCtx]
  · rfl
/-- Nor another context. -/
theorem State.opened_ctx_ne (s : State) (p c j : Nat) (h : j ≠ c) : (s.opened p c).ctx p j = s.ctx p j := by
  rw [State.opened_eq]; split
  · simp [h]
  · rfl

/-- A context set after the group has issued, and the advance: nothing changes outside the context. -/
theorem State.setCtx_runs (s : State) (p c : Nat) (w : W64) (x y : Ctx) (r : Rec) (hx : x.issued y r) :
    RunsTo s s (((s.opened p c).setCtx p c y).advance p c w) p c (s.engine p) x r := by
  refine State.advance_runs s _ s p c w _ x y r ?_ ?_ ?_ ?_ (by simp) hx
  · have h := State.opened_withEng s p c
    generalize (s.opened p c).eng = E at h
    rw [h]; rfl
  · intro j hj; simp [State.setCtx_eq, hj, State.opened_engine_ne]
  · have h := State.opened_engine s p c
    generalize ((s.opened p c).engine p).ctx = C at h
    simp only [State.setCtx_eq, State.engine_setEngine_same, h]
    rfl
  · intro j hj; simp [hj, State.opened_ctx_ne]

/-- A change of the recorded part after the group has issued, and the advance. -/
theorem State.modCur_runs (s : State) (p c : Nat) (w : W64) (f : Rec → Rec) :
    RunsToRec s (((s.opened p c).modCur p c f).advance p c w) p c (f (s.ctx p c).cur) := by
  rw [State.modCur_eq]
  refine State.setCtx_runs s p c w _ _ _ ?_
  unfold Ctx.issued
  simp

/-- No effect beside the advance. -/
theorem State.nop_runs (s : State) (p c : Nat) (w : W64) :
    RunsToRec s ((s.opened p c).advance p c w) p c (s.ctx p c).cur := by
  refine State.advance_runs s _ s p c w _ _ (s.ctxAt p c) _ (State.opened_withEng s p c)
    (fun j hj => State.opened_engine_ne s p c j hj) (State.opened_engine s p c)
    (fun j hj => State.opened_ctx_ne s p c j hj) rfl ?_
  unfold Ctx.issued
  have h := State.ctxAt_cur s p c
  generalize s.ctxAt p c = x at *
  rw [← h]

end Sys2Proof.Machine
end

