-- ==== Sys2Proof/Laws/Vector.lean ====
section
/-!
SUPPORT. Laws of the vector unit: what a register write of an instruction leaves, and the elements of a result.
-/

namespace Sys2Proof.Machine

/-- A vector register written after the group has issued, and the advance: the register holds the value, and nothing else
outside the context changes. -/
theorem State.vWrite_runs (s : State) (p c i : Nat) (w : W64) (v : VReg) :
    RunsToVreg s (((s.opened p c).vWrite p c i v).advance p c w) p c i (s.ctx p c).cur ∧
    (((s.opened p c).vWrite p c i v).advance p c w).vreg p c i = v := by
  have ho := State.opened_withEng s p c
  have he := State.opened_engine s p c
  have hv : ((s.opened p c).vWrite p c i v).engine p =
      { s.engine p with ctx := (((s.opened p c).vWrite p c i v).engine p).ctx
                        vreg := (s.engine p).vreg.set ((s.vregShare p c).1 + i) v } := by
    simp only [State.vWrite, State.modCtx_eq, State.setCtx_eq, State.setVreg, State.modEngine_eq, State.engine_setEngine_same]
    generalize ((s.opened p c).engine p).ctx = C at he
    simp only [he, Engine.setCtx, State.vregShare, State.fld_setEngine, State.opened_fld]
  have hr : RunsTo s s (((s.opened p c).vWrite p c i v).advance p c w) p c
      { s.engine p with vreg := (s.engine p).vreg.set ((s.vregShare p c).1 + i) v } (s.ctxAt p c) (s.ctx p c).cur := by
    refine State.advance_runs s _ s p c w _ _ _ _ ?_ ?_ ?_ ?_ rfl ?_
    · generalize (s.opened p c).eng = E at ho
      rw [ho]; rfl
    · intro j hj
      simp [State.vWrite, State.modCtx_eq, State.setCtx_eq, State.setVreg, State.modEngine_eq, hj, State.opened_engine_ne]
    · exact hv
    · intro j hj
      simp [State.vWrite, State.modCtx_eq, State.setVreg, State.modEngine_eq, State.ctx, State.setCtx_eq, Engine.at,
        Engine.setCtx, hj]
      exact State.opened_ctx_ne s p c j hj
    · have h := State.ctxAt_cur s p c
      simp only [State.vWrite, State.modCtx_eq, State.setVreg, State.modEngine_eq, State.setCtx_eq,
        State.ctx_setEngine_same, State.engine_setEngine_same, Engine.at, Engine.setCtx, Tab.get_set_same]
      unfold Ctx.issued
      show _ = _
      rw [← h]; rfl
  have hreg : (((s.opened p c).vWrite p c i v).advance p c w).vregShare p c = s.vregShare p c := by
    have := hr.1
    rw [this]; rfl
  obtain ⟨h1, h2, h3, h4, h5⟩ := hr
  refine ⟨⟨⟨h1, h2, ?_, h4, h5⟩, ?_⟩, ?_⟩
  · rw [h3]
  · intro k hk
    rw [h3]
    simp [hk]
  · unfold State.vreg
    rw [hreg, h3]
    simp

end Sys2Proof.Machine
end

