-- ==== Sys2Proof/WellFormed.lean ====
section
/-!
DEFINITION. What a command's operands must be to be one the outside can send. The types of `Instr` already bound every
operand that numbers a part of the module; the checks here bound the operands that are lists or plain numbers. A command
that fails one is no command of the spec; `exec` is total on it all the same.
-/

namespace Sys2Proof

/-- A register access is of 1, 2, 4 or 8 bytes and its value fits them. Whether the register takes that size is the module's
own check (R601). -/
def wfAccess (bytes : Nat) (v : W64) : Bool :=
  (bytes == 1 || bytes == 2 || bytes == 4 || bytes == 8) && decide (v.toNat < 2 ^ (8 * bytes))

/-- A plan gives its locations identifiers of 17 bits and speaks of this module's 16 ports (R366, R568). -/
def Plan.wf (p : Plan) : Bool := p.places.all (fun x => decide (x.2 < 2 ^ 17)) && p.neighbours.all (fun x => decide (x.1 < 16))

/-- A command's operands are in their ranges: a register access; a descriptor's 64 bytes (R436); one failing record for an
engine (R103); the plan that a start brings; a batch and a frame that are not empty. -/
def Instr.wf : Instr → Bool
  | .registerWrite _ _ bytes v => wfAccess bytes v
  | .descriptorFetch _ (.got d _) => d.length == 64
  | .selfTestEnd _ fails => decide (fails.map (fun f => f.p)).Nodup
  | .stageAdvance o => (match o.plan with | some p => p.wf | none => true)
  | .storeBatchWrite size => decide (0 < size)
  | .frameReceive _ _ _ frame => decide (0 < frame.length)
  | _ => true

end Sys2Proof
end

