-- ==== Sys2Proof/Tests/Slice0.lean ====
section
/-!
SUPPORT. The author's own tests. Each theorem shows small states and operands that meet the hypotheses of clauses of a
statement together; many say what one step gives there as well, with the value worked out from the spec by hand.
-/

namespace Sys2Proof.Tests

open Sys2Proof Sys2Proof.Machine

set_option Elab.async false

/-! ## Helpers -/

/-- What a command answers, when it is a next state. -/
def after (i : Instr) (s : State) : State := match exec i s with | .next t => t | _ => s

/-- An engine instruction word that ends its group: its class, its opcode, and operand values with the bit each starts at
(R177). -/
def word (cls op : Nat) (fs : List (Nat × Nat)) : W64 :=
  BitVec.ofNat 64 (cls * 2 ^ 61 + 2 ^ 60 + op * 2 ^ 54 + fs.foldl (fun n f => n + f.1 * 2 ^ f.2) 0)

/-- Engine 0 with context 0 running at group address 64 of its copy A, which holds the words given from there on. -/
def running (ws : List W64) (e : Engine := {}) (x : Ctx := {}) : State :=
  { State.reset with
    eng := [(0, { e with imemA := e.imemA ++ (List.range ws.length).map (fun i => (64 + i, ws.getD i 0)), holder := some 0
                         ctx := [(0, { x with st := .running, copyA := .active, cur := { x.cur with pc := 64 } })] })] }

/-- Vector registers v1 to v3: lane 0 holds 1.5, 0.25 and 2.0, and lane 1 1.5, 5 and 0x80000000. -/
def regs3 : Engine :=
  { vreg := [(1, 0x3FC000003FC00000), (2, 0x000000053E800000), (3, 0x8000000040000000)] }

/-- A V word with VD v4, VA v1 and VB v2. -/
def wv (op : Nat) (fs : List (Nat × Nat) := []) : W64 := word 1 op ([(4, 40), (1, 34), (2, 28)] ++ fs)

/-- The state at that word. -/
def sv (op : Nat) (fs : List (Nat × Nat) := []) (x : Ctx := {}) : State := running [wv op fs] regs3 x

/-- Lane k of v4 after a command. -/
def v4 (i : Instr) (s : State) (k : Nat) : W32 := lane ((after i s).vreg 0 0 4) k

/-- The same with T INT32 (2). -/
def wi (op : Nat) (fs : List (Nat × Nat) := []) : W64 := wv op ([(2, 46)] ++ fs)
/-- The state at that word. -/
def si (op : Nat) (fs : List (Nat × Nat) := []) : State := running [wi op fs] regs3

/-- An armed injection meets no instruction with this predicate. -/
abbrev quiet (s : State) (target : Nat) (w : W64) (one : Bool) : Prop := s.injHit 0 target (s.vp 0 0 w) one = none

/-! ## Vector instructions -/

/-- V.ADD: 1.5 + 0.25 = 1.75 (R80). -/
theorem test_vAdd : (sv 0).canRun 0 0 .vAdd (wv 0) ∧ noInj (sv 0) 0 0 ((sv 0).vp 0 0 (wv 0)) false ∧
    v4 (.vAdd 0 0) (sv 0) 0 = 0x3FE00000 := by
  unfold State.canRun noInj; decide +kernel
/-- V.SUB and V.MUL: 1.5 - 0.25 = 1.25, 1.5 × 0.25 = 0.375 (R80). -/
theorem test_vSub_vMul : (sv 1).canRun 0 0 .vSub (wv 1) ∧ quiet (sv 1) 0 (wv 1) false ∧
    Fmt.fp32.sub 0x3FC00000 0x3E800000 = 0x3FA00000 ∧
    (sv 2).canRun 0 0 .vMul (wv 2) ∧ quiet (sv 2) 0 (wv 2) false ∧ Fmt.fp32.mul 0x3FC00000 0x3E800000 = 0x3EC00000 := by
  unfold State.canRun; decide +kernel
/-- V.FMA: 1.5 × 0.25 + 2 = 2.375 (R80). -/
theorem test_vFma : (sv 3 [(3, 22)]).canRun 0 0 .vFma (wv 3 [(3, 22)]) ∧ quiet (sv 3 [(3, 22)]) 0 (wv 3 [(3, 22)]) false ∧
    v4 (.vFma 0 0) (sv 3 [(3, 22)]) 0 = 0x40180000 := by
  unfold State.canRun; decide +kernel
/-- V.MIN, V.MAX: the lesser and the greater (R151). -/
theorem test_vMin_vMax : (sv 6).canRun 0 0 .vMin (wv 6) ∧ quiet (sv 6) 1 (wv 6) false ∧
    Fmt.fp32.minMax false 0x3FC00000 0x3E800000 = 0x3E800000 ∧
    (sv 7).canRun 0 0 .vMax (wv 7) ∧ quiet (sv 7) 1 (wv 7) false ∧ Fmt.fp32.minMax true 0x3FC00000 0x3E800000 = 0x3FC00000 := by
  unfold State.canRun; decide +kernel
/-- The logic operations run on INT32 lanes (R207). -/
theorem test_logic : (si 8).canRun 0 0 .vAnd (wi 8) ∧ quiet (si 8) 1 (wi 8) false ∧ (si 9).canRun 0 0 .vOr (wi 9) ∧
    quiet (si 9) 1 (wi 9) false ∧ (si 10).canRun 0 0 .vXor (wi 10) ∧ quiet (si 10) 1 (wi 10) false ∧
    (si 11).canRun 0 0 .vAndn (wi 11) ∧ quiet (si 11) 1 (wi 11) false := by
  unfold State.canRun; decide +kernel
/-- V.ANDN of lane 1: 0x3FC00000 AND NOT 5 (R207). -/
theorem test_vAndn : v4 (.vAndn 0 0 none) (si 11) 1 = 0x3FC00000 := by decide +kernel
/-- The shifts run on INT32 lanes (R207). -/
theorem test_shifts : (si 12).canRun 0 0 .vShl (wi 12) ∧ quiet (si 12) 1 (wi 12) false ∧ (si 13).canRun 0 0 .vShr (wi 13) ∧
    quiet (si 13) 1 (wi 13) false ∧ (si 14).canRun 0 0 .vSra (wi 14) ∧ quiet (si 14) 1 (wi 14) false := by
  unfold State.canRun; decide +kernel
/-- V.SRA takes in the sign; V.SHL and V.SHR take in zeros (R207). -/
theorem test_shift_values : shiftLane 0 0x3FC00000 5 = 0x7F8000000 % 2 ^ 32 ∧ shiftLane 1 0x80000000 5 = 0x04000000 ∧
    shiftLane 2 0x80000000 5 = 0xFC000000 := by decide +kernel
/-- V.SEL by VP0, and V.PERM: lane 1 takes lane 5 of VA, which holds 0 (R152, R207). -/
theorem test_vSel_vPerm : (sv 5).canRun 0 0 .vSel (wv 5) ∧ quiet (sv 5) 1 (wv 5) false ∧ (sv 16).canRun 0 0 .vPerm (wv 16) ∧
    quiet (sv 16) 1 (wv 16) false := by
  unfold State.canRun; decide +kernel
/-- V.PERM: lane 1 takes lane 5 of VA, which holds 0 (R152). -/
theorem test_vPerm : v4 (.vPerm 0 0 none) (sv 16) 1 = 0 := by decide +kernel

/-- A V.CMP word (condition 1, into VP2) and a V.PLOG word (operation 1, VP0 or VP1 into VP2). -/
def wcmp : W64 := word 1 4 [(1, 34), (2, 28), (1, 16), (2, 13)]
def wplog : W64 := word 1 27 [(1, 16), (2, 13), (0, 10), (1, 7)]
/-- V.CMP and V.PLOG issue (R151, R207). -/
theorem test_vCmp_vPlog : (running [wcmp] regs3).canRun 0 0 .vCmp wcmp ∧ noInj (running [wcmp] regs3) 0 1 ((running [wcmp] regs3).vp 0 0 wcmp) true ∧
    (running [wplog]).canRun 0 0 .vPlog wplog := by
  unfold State.canRun noInj; decide +kernel
/-- V.PLOG: VP0 or VP1 is all ones (R146). -/
theorem test_vPlog : ((after (.vPlog 0 0) (running [wplog])).ctx 0 0).cur.vpred 2 = BitVec.allOnes 512 := by decide +kernel

/-- V.LI, V.SETIB, V.SETRK, V.PTR (LP1) and V.SUMQ (lane 1) words. -/
def wli : W64 := word 1 24 [(4, 40), (0x12345678, 0)]
def wsetib : W64 := word 1 21 [(1, 34)]
def wsetrk : W64 := word 1 25 [(1, 34), (1, 17)]
def wptr : W64 := word 1 22 [(3, 43), (0x123456, 16)]
def wsumq : W64 := word 1 23 [(1, 34), (0xBEEF, 18), (1, 5)]
/-- The setters issue (R160, R207, R209). -/
theorem test_setters : (running [wli]).canRun 0 0 .vLi wli ∧ (running [wsetib] regs3).canRun 0 0 .vSetib wsetib ∧
    (running [wsetrk] regs3).canRun 0 0 .vSetrk wsetrk ∧ (running [wptr]).canRun 0 0 .vPtr wptr ∧
    (running [wsumq] regs3).canRun 0 0 .vSumq wsumq ∧ ((running [wsumq] regs3).ctx 0 0).cur.sumq.length < 32 ∧
    ((running [wsumq] regs3).ctx 0 0).sumHeld = [] := by
  unfold State.canRun; decide +kernel
/-- A full queue holds the summary of a V.SUMQ and sets SUMQ_STAT.HELD, bit 6 (R161). -/
def fullq : State := running [wsumq] regs3 { cur := { sumq := List.replicate 32 ⟨1, 2, 0, false⟩ } }
theorem test_vSumq_full : fullq.canRun 0 0 .vSumq wsumq ∧ (fullq.ctx 0 0).cur.sumq.length = 32 ∧ (fullq.ctx 0 0).sumHeld = [] ∧
    ((after (.vSumq 0 0 0) fullq).ctx 0 0).sumHeld = [⟨0x3FC00000, 0xBEEF, 0, false⟩] ∧
    (after (.vSumq 0 0 0) fullq).flag (Reg.sumqStat 0 0) 6 = true := by
  unfold State.canRun; decide +kernel
/-- A V.SUMQ lands before the finish of a reduction that issued earlier (R161). -/
theorem test_vSumq_ahead : let s := running [wsumq] regs3 { cur := { sumq := [⟨7, 7, 9, true⟩] } }
    ((after (.vSumq 0 0 1) s).ctx 0 0).cur.sumq = [⟨0x3FC00000, 0xBEEF, 0, false⟩, ⟨7, 7, 9, true⟩] := by decide +kernel
/-- V.SUMQ of lane 1 of v1 (R160), and V.PTR of LP1 (R207). -/
theorem test_vSumq_vPtr : ((after (.vSumq 0 0 0) (running [wsumq] regs3)).ctx 0 0).cur.sumq = [⟨0x3FC00000, 0xBEEF, 0, false⟩] ∧
    ((after (.vPtr 0 0) (running [wptr])).ctx 0 0).cur.ptr 1 = 0x123456 := by decide +kernel

/-- V.CVT from FP32 to BF16, and to E4M3 with the scale 0.25 of v2. -/
def wcvt : W64 := word 1 15 [(4, 40), (1, 34), (0, 15), (1, 11)]
def wcvtS : W64 := word 1 15 [(4, 40), (1, 34), (2, 22), (0, 15), (2, 11)]
/-- Both pairs issue; the scaled one with an accepted scale (R153). -/
theorem test_vCvt : (running [wcvt] regs3).canRun 0 0 .vCvt wcvt ∧ Fmt.ofCode (wbits wcvt 18 15) = some .fp32 ∧
    Fmt.ofCode (wbits wcvt 14 11) = some .bf16 ∧ quiet (running [wcvt] regs3) 0 wcvt false ∧
    (running [wcvtS] regs3).canRun 0 0 .vCvt wcvtS ∧ Fmt.ofCode (wbits wcvtS 14 11) = some .e4m3 ∧
    scaleOk (lane ((running [wcvtS] regs3).vreg 0 0 (wbits wcvtS 27 22)) 0).toNat = true ∧
    quiet (running [wcvtS] regs3) 0 wcvtS false := by
  unfold State.canRun; decide +kernel

/-- V.LD, V.ST and V.PST words at LP0, with INC. -/
def wmem (op : Nat) : W64 := word 1 op [(4, 40), (1, 34), (1, 16)]
/-- The context's LP0 at the last place of its share of 3,072 pages that holds n bytes, for the three accesses. -/
def smem (op n : Nat) : State :=
  running [wmem op] { regs3 with sand := [(4096 * 3072 - n, 0x11), (4096 * 3072 - n + 5, 0x22)] } { cur := { lp := [(0, 4096 * 3072 - n)] } }
/-- The three accesses run at the end of the share (R207, R208). -/
theorem test_vLd_vSt_vPst : (smem 17 2048).canRun 0 0 .vLd (wmem 17) ∧ (smem 17 2048).vAddrBad 0 0 ((smem 17 2048).vAddr 0 0 (wmem 17)) 2048 = none ∧
    quiet (smem 17 2048) 1 (wmem 17) false ∧
    (smem 18 2048).canRun 0 0 .vSt (wmem 18) ∧ (smem 18 2048).vAddrBad 0 0 ((smem 18 2048).vAddr 0 0 (wmem 18)) 2048 = none ∧
    quiet (smem 18 2048) 1 (wmem 18) false ∧ ((smem 18 2048).engine 0).sand.wf = true ∧
    (∀ k, k < 512 → ((smem 18 2048).vp 0 0 (wmem 18)).getLsbD k = true →
      ((smem 18 2048).ctx 0 0).holds 0 ((smem 18 2048).vAddr 0 0 (wmem 18) + 4 * k) 4 = false) ∧
    (smem 26 64).canRun 0 0 .vPst (wmem 26) ∧ (smem 26 64).vAddrBad 0 0 ((smem 26 64).vAddr 0 0 (wmem 26)) 64 = none ∧
    ((smem 26 64).engine 0).sand.wf = true ∧ ((smem 26 64).ctx 0 0).holds 0 ((smem 26 64).vAddr 0 0 (wmem 26)) 64 = false := by
  unfold State.canRun; decide +kernel
/-- V.PST of VP0 stores 64 bytes of ones at the end of the share and moves LP0 past it (R207). -/
theorem test_vPst : (after (.vPst 0 0) (smem 26 64)).sandBytes 0 0 (4096 * 3072 - 64) 64 = List.replicate 64 0xFF ∧
    ((after (.vPst 0 0) (smem 26 64)).ctx 0 0).cur.ptr 0 = 4096 * 3072 := by decide +kernel

/-- An access that is misaligned, and one whose last byte lies beyond the share (R208); a store at a held word. -/
def offEnd (op n : Nat) (h : List HRange := []) : State := running [wmem op] regs3 { cur := { lp := [(0, n)] }, hranges := h }
/-- The faults of the three accesses (R208, R273). -/
theorem test_accessFaults : ∀ x ∈ [(17, EngOp.vLd, 2048), (18, .vSt, 2048), (26, .vPst, 64)],
    (offEnd x.1 32).canRun 0 0 x.2.1 (wmem x.1) ∧ (offEnd x.1 32).vAddrBad 0 0 ((offEnd x.1 32).vAddr 0 0 (wmem x.1)) x.2.2 = some fMalformed ∧
    (offEnd x.1 (4096 * 3072)).vAddrBad 0 0 ((offEnd x.1 (4096 * 3072)).vAddr 0 0 (wmem x.1)) x.2.2 = some fBound ∧
    (offEnd x.1 (4096 * 3072)).canRun 0 0 x.2.1 (wmem x.1) := by
  unfold State.canRun; decide +kernel
/-- A store at a range that the segment holds (R273); the last word of a held V.LD stops it for good (R283). -/
theorem test_accessHeld : let h : List HRange := [⟨0, 60, 4⟩]
    (offEnd 18 0 h).canRun 0 0 .vSt (wmem 18) ∧ ((offEnd 18 0 h).vp 0 0 (wmem 18)).getLsbD 15 = true ∧
    ((offEnd 18 0 h).ctxAt 0 0).holds 0 ((offEnd 18 0 h).vAddr 0 0 (wmem 18) + 4 * 15) 4 = true ∧
    (offEnd 26 0 h).canRun 0 0 .vPst (wmem 26) ∧ ((offEnd 26 0 h).ctxAt 0 0).holds 0 ((offEnd 26 0 h).vAddr 0 0 (wmem 26)) 64 = true ∧
    (offEnd 17 0 h).canRun 0 0 .vLd (wmem 17) ∧
    (((offEnd 17 0 h).opened 0 0).ctx 0 0).holds 0 (sramAt 0 ((offEnd 17 0 h).vAddr 0 0 (wmem 17)) 2048 7) 8 = true ∧
    ((after (.vLd 0 0 (.uncorrectable 7 none) none) (offEnd 17 0 h)).ctx 0 0).st = .halted := by
  unfold State.canRun; decide +kernel
/-- An uncorrectable error of the 256th word of a V.LD stops the segment for a replay when the word is free, and halts it
when the word is held (R283, R308). -/
theorem test_vLd_uncorrectable : let so := (smem 17 2048).opened 0 0
    (so.ctx 0 0).holds 0 (sramAt 0 ((smem 17 2048).vAddr 0 0 (wmem 17)) 2048 255) 8 = false ∧ so.countsFails 0 0 (failCounters 0 0x08 none) ∧
    ((after (.vLd 0 0 (.uncorrectable 255 none) none) (smem 17 2048)).ctx 0 0).rep = .restoring := by
  unfold State.countsFails; decide +kernel

/-- V.COMPRESS with CNT to LC2 and V.EXPAND with Z, under VP1, which has lanes 0 and 511 active. -/
def wcomp : W64 := word 1 19 [(1, 34), (1, 19), (2, 16), (1, 15)]
def wexp : W64 := word 1 20 [(4, 40), (1, 19), (1, 18)]
/-- The context with VP1, and CPTR and EPTR at the last place that holds two words. -/
def xcomp : Ctx := { cur := { vp := [(1, BitVec.ofNat 512 (2 ^ 511 + 1))], cptr := 4096 * 3072 - 8, eptr := 4096 * 3072 - 8 } }
/-- Both run at the end of the share (R155, R156). -/
theorem test_vCompress_vExpand : (running [wcomp] regs3 xcomp).canRun 0 0 .vCompress wcomp ∧ quiet (running [wcomp] regs3 xcomp) 1 wcomp false ∧
    wcomp.getLsbD 14 = false ∧ wcomp.getLsbD 11 = false ∧
    (running [wcomp] regs3 xcomp).sandOk 0 0 xcomp.cur.cptr (4 * (activeLanes ((running [wcomp] regs3 xcomp).vp 0 0 wcomp)).length) = true ∧
    ((running [wcomp] regs3 xcomp).ctx 0 0).holds 0 xcomp.cur.cptr (4 * (activeLanes ((running [wcomp] regs3 xcomp).vp 0 0 wcomp)).length) = false ∧
    (running [wexp] regs3 xcomp).canRun 0 0 .vExpand wexp ∧ quiet (running [wexp] regs3 xcomp) 1 wexp false ∧
    (running [wexp] regs3 xcomp).sandOk 0 0 xcomp.cur.eptr (4 * (activeLanes ((running [wexp] regs3 xcomp).vp 0 0 wexp)).length) = true := by
  unfold State.canRun; decide +kernel
/-- V.COMPRESS stores lanes 0 and 511 of v1 in order, and the count 2 is on its way to LC2 (R155, R157). -/
theorem test_vCompress : (after (.vCompress 0 0 none) (running [wcomp] regs3 xcomp)).sandBytes 0 0 (4096 * 3072 - 8) 8 =
    leBytes 4 0x3FC00000 ++ leBytes 4 0 ∧ ((after (.vCompress 0 0 none) (running [wcomp] regs3 xcomp)).ctx 0 0).cmpPend = [⟨2, 2, false, 64, false⟩] := by
  decide +kernel
/-- A count that lands with ACC is added (R157). -/
def landing (lc : W32) : State := running [] {} { cmpPend := [⟨7, 3, true, 64, false⟩], cur := { lc := [(7, lc)] } }
theorem test_compressCountLands : (((landing 4).ctx 0 0).cmpPend = [⟨7, 3, true, 64, false⟩] ∧ (landing 4).holds? 0 0 = true) ∧
    ((after (.compressCountLands 0 0 true) (landing 4)).ctx 0 0).cur.lc = [(7, 7)] := by decide +kernel
/-- A sum of 2^32 is a malformed-instruction fault of the V.COMPRESS, and one of 2^32 - 1 lands (R157). -/
theorem test_compressCount_bound : ((after (.compressCountLands 0 0 true) (landing 0xFFFFFFFD)).ctx 0 0).st = .halted ∧
    ((after (.compressCountLands 0 0 true) (landing 0xFFFFFFFD)).ctx 0 0).fault = fMalformed ∧
    ((after (.compressCountLands 0 0 true) (landing 0xFFFFFFFC)).ctx 0 0).cur.lc = [(7, 0xFFFFFFFF)] := by decide +kernel

/-- A result whose check is still to come, sound and wrong; a held summary with an empty queue. -/
def checked (wrong : Bool) : State := running [] { vchk := [⟨0, 9, 64, wrong⟩] }
def sumHeld : State := running [] {} { sumHeld := [⟨1, 2, 0, false⟩] }
/-- The vector engine's events (R161, R171, R175). -/
theorem test_residueCheck : ((checked false).engine 0).vchk = [⟨0, 9, 64, false⟩] ∧ ((checked true).engine 0).vchk = [⟨0, 9, 64, true⟩] ∧
    ((checked true).reg (Reg.vecResfail 0)).toNat + 1 < 2 ^ 64 - 1 ∧ (sumHeld.ctx 0 0).sumHeld = [⟨1, 2, 0, false⟩] ∧ sumHeld.holds? 0 0 = true ∧
    State.reset.holds? 0 0 = false ∧ (running []).holds? 0 0 = true ∧ ((running []).ctx 0 0).sumHeld = [] ∧ (sumHeld.ctx 0 0).cur.sumq.length < 32 ∧
    ((after (.residueCheck 0 none) (checked true)).ctx 0 0).rep = .restoring ∧
    ((after (.residueCheck 0 (some ⟨511, none⟩)) (checked false)).ctx 0 0).rep = .restoring := by decide +kernel
/-- A failure beside another of the same cc can be counted: the checks of the residue, of parity, and of a comparison
(R171, R172, R175, R504). -/
theorem test_failsCounted : (checked true).countsFails 0 0 (failCounters 0 0x04 none) ∧
    (checked false).countsFails 0 0 (failCounters 0 0x04 (some ⟨0x05, leBytes 4 3 ++ leBytes 4 64⟩)) ∧
    (sv 6).canRun 0 0 .vMin (wv 6) ∧ ((sv 6).reg (Reg.vecInj 0)).getLsbD 0 = false ∧
    ((sv 6).opened 0 0).countsFails 0 0 (failCounters 0 0x05 none) := by
  unfold State.countsFails State.canRun; decide +kernel
/-- One record names two failures of a cc: the lesser class, and the greater as the second (R175, R504). -/
theorem test_bothFail : let t := after (.vMin 0 0 (some ⟨4, some ⟨0x04, leBytes 4 3 ++ leBytes 4 9⟩⟩)) (sv 6)
    ((Tab.get [] t.recBuf 0).map (fun r => (r.cls, r.second))) = [(4, 5)] ∧ (t.reg (Reg.vecParfail 0)).toNat = 1 ∧
    (t.reg (Reg.vecResfail 0)).toNat = 1 := by decide +kernel

/-! ## Reductions -/

/-- A reduction word on QA0 of v1 with START, and one without; states at them. -/
def wq (op : Nat) : W64 := word 2 op [(1, 38), (1, 34)]
def wq0 (op : Nat) : W64 := word 2 op [(1, 38), (1, 32)]
def sq (w : W64) : State := running [w] regs3 { qa := [(0, { Accum.start with })] }
abbrev quietQ (s : State) (w : W64) : Prop := s.injHit 0 2 (s.pOld 0 0 (wbits w 37 35)) false = none
/-- Every reduction issues, opened by START or open already (R164, R168). -/
theorem test_reductions : (sq (wq 0)).canRun 0 0 .qSum (wq 0) ∧ (sq (wq 1)).canRun 0 0 .qSumsq (wq 1) ∧
    (sq (wq 2)).canRun 0 0 .qMax (wq 2) ∧ (sq (wq 3)).canRun 0 0 .qMin (wq 3) ∧ (sq (wq 4)).canRun 0 0 .qArgmax (wq 4) ∧
    (sq (wq 5)).canRun 0 0 .qArgmin (wq 5) ∧ (sq (wq0 0)).canRun 0 0 .qSum (wq0 0) ∧
    (((sq (wq0 0)).ctx 0 0).acc 0).open_ = true ∧ ((sq (wq0 0)).ctx 0 0).accDup 0 = ((sq (wq0 0)).ctx 0 0).acc 0 ∧
    (wq 0).getLsbD 34 = true ∧ (wq 0).getLsbD 31 = false ∧ (wq 0).getLsbD 33 = false ∧ quietQ (sq (wq 0)) (wq 0) ∧
    quietQ (sq (wq0 0)) (wq0 0) ∧ (sq (wq0 0)).qReady 0 0 (wq0 0) ∧ (sq (wq 5)).qReady 0 0 (wq 5) := by
  unfold State.canRun State.qReady; decide +kernel
/-- Q.NFC of a used accumulator to a summary entry, and Q.SETIB of v1 (R167, R210). -/
def wnfc : W64 := word 2 6 [(1, 33), (2, 29), (0x1234, 13)]
def snfc : State := running [wnfc] {} { qa := [(0, { count := 5, used := true })] }
def wqib : W64 := word 2 7 [(1, 38)]
theorem test_qNfc_qSetib : snfc.canRun 0 0 .qNfc wnfc ∧ ((snfc.ctx 0 0).acc 0).used = true ∧
    (snfc.ctx 0 0).accDup 0 = (snfc.ctx 0 0).acc 0 ∧ wnfc.getLsbD 31 = false ∧ wbits wnfc 30 29 = 2 ∧
    (snfc.ctx 0 0).cur.sumq.length < 32 ∧ (snfc.ctx 0 0).sumHeld = [] ∧ (running [wqib] regs3).canRun 0 0 .qSetib wqib ∧
    ((after (.qNfc 0 0 0 none) snfc).ctx 0 0).cur.sumq = [⟨5, 0x1234, 0xA, true⟩] ∧
    ((after (.qSetib 0 0) (running [wqib] regs3)).ctx 0 0).cur.qib = 0x3FC000003FC00000 := by
  unfold State.canRun; decide +kernel
/-- A sum that finishes to lane 511 of v4 (R165). -/
def wfin : W64 := word 2 0 [(1, 38), (1, 33), (4, 23), (511, 14)]
theorem test_sumFinish : (sq wfin).canRun 0 0 .qSum wfin ∧ wfin.getLsbD 34 = false ∧ (((sq wfin).ctx 0 0).acc 0).open_ = true ∧
    ((sq wfin).ctx 0 0).accDup 0 = ((sq wfin).ctx 0 0).acc 0 ∧ wfin.getLsbD 31 = false ∧ wfin.getLsbD 33 = true ∧
    wfin.getLsbD 32 = false ∧ wbits wfin 30 29 = 0 ∧ quietQ (sq wfin) wfin := by
  unfold State.canRun; decide +kernel
/-- The maximum of v1 with START, finished to a summary entry in a queue that has 31, and the minimum of both halves with SEG
to lanes 0 and 1; an upset between the copies of such a reduction can be counted (R165 to R168, R173). -/
def wmaxS : W64 := word 2 2 [(1, 38), (1, 34), (1, 33), (2, 29), (0x77, 13)]
def smaxS : State := running [wmaxS] regs3 { cur := { sumq := List.replicate 31 ⟨1, 2, 0, false⟩ } }
def wminG : W64 := word 2 3 [(1, 38), (1, 34), (1, 33), (1, 31), (4, 23)]
theorem test_finish_full : smaxS.canRun 0 0 .qMax wmaxS ∧ smaxS.qReady 0 0 wmaxS ∧ wmaxS.getLsbD 33 = true ∧ quietQ smaxS wmaxS ∧
    (smaxS.ctx 0 0).sumHeld = [] ∧ ((after (.qMax 0 0 0 none) smaxS).ctx 0 0).cur.sumq.length = 32 ∧
    (sq wminG).canRun 0 0 .qMin wminG ∧ (sq wminG).qReady 0 0 wminG ∧ quietQ (sq wminG) wminG ∧
    ((sq wminG).opened 0 0).countsFails 0 0 (failCounters 0 0x06 none) ∧
    ((after (.qMin 0 0 0 (some ⟨0, none⟩)) (sq wminG)).ctx 0 0).rep = .restoring := by
  unfold State.canRun State.qReady State.countsFails; decide +kernel
/-- A finish that lands before the one that issued earlier (R161). -/
def smaxA : State := running [wmaxS] regs3 { cur := { sumq := [⟨7, 7, 9, true⟩] } }
theorem test_finish_ahead : smaxA.canRun 0 0 .qMax wmaxS ∧ smaxA.qReady 0 0 wmaxS ∧ quietQ smaxA wmaxS ∧
    ((after (.qMax 0 0 1 none) smaxA).ctx 0 0).cur.sumq.map (·.tag) = [0x77, 7] := by
  unfold State.canRun State.qReady; decide +kernel
/-- 1.5 in lanes 0 and 1 and zeros elsewhere sum to 3.0. -/
theorem test_sum_value : v4 (.qSum 0 0 0 none) (sq wfin) 511 = 0x40400000 := by decide +kernel

/-! ## Matrix instructions -/

/-- A byte string of n bytes from its fields: offset and value. -/
def bytesOf (n : Nat) (fs : List (Nat × Nat)) : Bytes := leBytes n (fs.foldl (fun x f => x + f.2 * 2 ^ (8 * f.1)) 0)
/-- A memory with byte strings at addresses. -/
def memOf (xs : List (Nat × Bytes)) : Mem := xs.foldl (fun m x => m.store x.1 x.2) []
/-- A load descriptor of one E4M3 weight at Sand offset 256, and a pass descriptor of one E4M3 row there, converted to FP32
at offset 1,024. -/
def loadDesc : Bytes := bytesOf 64 [(0, 256), (4, 1), (8, 1), (10, 1), (12, 2), (13, 2)]
def passDesc : Bytes := bytesOf 64 [(0, 256), (4, 1), (16, 1), (20, 2), (24, 0x3F800000), (28, 0x3F800000), (36, 1024), (40, 1024)]
/-- The block of that weight, 1.0 (code 0x38). -/
def block1 : WBlock := { fmtW := .e4m3, fmtA := .e4m3, krows := 1, ncols := 1, elems := [[0x38]], scales := [] }
def loaded1 : Loaded := ⟨block1, 0, ⟨0, 0⟩⟩
/-- An M word at descriptor 0, or with the operands given. -/
def wm (op : Nat) (fs : List (Nat × Nat) := []) : W64 := word 0 op fs
/-- The state at an M word, with a descriptor at Sand offset 0, the code 0x38 at 256, and the block loaded. -/
def sm (w : W64) (d : Bytes) (x : Ctx := {}) : State :=
  running [w] { regs3 with sand := memOf [(0, d), (256, [0x38])], shadow := some loaded1 } x
/-- The M instructions pass their checks (R202 to R204): M.FOLD between rows 0 and 8, the rest on one row. -/
theorem test_m_issue : (sm (wm 1) loadDesc).canRun 0 0 .mLoadw (wm 1) ∧ (sm (wm 1) loadDesc).sandOk 0 0 0 64 = true ∧
    loadDescOk ((sm (wm 1) loadDesc).mDesc 0 0 (wm 1)) = true ∧ (sm (wm 1) loadDesc).loadRangeBad 0 0 loadDesc = false ∧
    (sm (wm 2 [(1, 13)]) passDesc).canRun 0 0 .mPass (wm 2 [(1, 13)]) ∧ (sm (wm 3 [(1, 13)]) passDesc).canRun 0 0 .mPasst (wm 3 [(1, 13)]) ∧
    passDescOk passDesc false = true ∧ ((sm (wm 2) passDesc).engine 0).nextBlock = some loaded1 ∧ passFmt passDesc = .e4m3 ∧
    (∀ r, r < 1 → (sm (wm 2) passDesc).passRowBad 0 0 block1 false false passDesc r = none ∧
      (sm (wm 2) passDesc).passRowBad 0 0 block1 true false passDesc r = none) ∧
    (sm (wm 4 [(1, 39)]) []).canRun 0 0 .mFold (wm 4 [(1, 39)]) ∧ (sm (wm 4 [(1, 39)]) []).siltOk 0 0 0 3072 = true ∧
    (sm (wm 4 [(1, 39)]) []).siltRowsBad 0 0 8 1 = none ∧ foldDst (wm 4 [(1, 39)]) = 8 ∧ foldRows (wm 4 [(1, 39)]) = 1 ∧
    (sm (wm 5) passDesc).canRun 0 0 .mOut (wm 5) ∧ passDescOk passDesc true = true ∧
    (∀ r, r < 1 → (sm (wm 5) passDesc).siltOk 0 0 (3072 * r) 3072 = true ∧ (sm (wm 5) passDesc).outRowBad 0 0 passDesc r = none) ∧
    (sm (wm 6 [(1, 40)]) []).canRun 0 0 .mSetib (wm 6 [(1, 40)]) := by
  unfold State.canRun; decide +kernel
/-- A pass under a mask of one row, and one whose row count is LC0; a descriptor whose word 7 cannot be read (R203, R283). -/
theorem test_m_masked : (sm (wm 2 [(1, 13), (1, 11)]) passDesc).canRun 0 0 .mPass (wm 2 [(1, 13), (1, 11)]) ∧
    passMask (wm 2 [(1, 13), (1, 11)]) = true ∧ (sm (wm 2 [(1, 13), (1, 11)]) passDesc).sandOk 0 0 (dfld passDesc 8 4) 1 = true ∧
    (sm (wm 3 [(1, 13), (1, 10)]) passDesc { cur := { lc := [(0, 1)] } }).canRun 0 0 .mPasst (wm 3 [(1, 13), (1, 10)]) ∧
    passRlc (wm 3 [(1, 13), (1, 10)]) = true ∧
    (((sm (wm 5) passDesc).opened 0 0).ctx 0 0).holds 0 (sramAt 0 0 64 7) 8 = false ∧
    ((sm (wm 5) passDesc).opened 0 0).countsFails 0 0 (failCounters 0 0x08 none) ∧
    ((after (.mOut 0 0 (.uncorrectable 7 none)) (sm (wm 5) passDesc)).ctx 0 0).rep = .restoring := by
  unfold State.canRun State.countsFails; decide +kernel
/-- A corrected error of the descriptor is counted, and the instruction enters the pending slot (R201, R283). -/
theorem test_m_corrected : let s := (sm (wm 1) loadDesc).opened 0 0
    (s.bump (Reg.sramEcccor 0) 1).sandOk 0 0 0 64 = true ∧ (s.bump (Reg.sramEcccor 0) 1).loadRangeBad 0 0 loadDesc = false ∧
    ((after (.mLoadw 0 0 .corrected) (sm (wm 1) loadDesc)).ctx 0 0).mPend.isSome = true ∧
    ((after (.mLoadw 0 0 .corrected) (sm (wm 1) loadDesc)).reg (Reg.sramEcccor 0)).toNat = 1 := by decide +kernel
/-- M.SETIB takes lanes 0 and 1 of v1 (R204). -/
theorem test_mSetib : ((after (.mSetib 0 0) (sm (wm 6 [(1, 40)]) [])).ctx 0 0).cur.mib = 0x3FC000003FC00000 := by decide +kernel

/-- An M instruction in the pending slot, and the state that holds it. -/
def mop (k : MKind) (w : W64) (d : Bytes) (n : Nat) : MOp := ⟨k, 0, w, d, n, 64, false, 0, 0⟩
def pend (k : MKind) (w : W64) (d : Bytes) (n : Nat) : State := sm w d { mPend := some (mop k w d n) }
/-- Each kind can begin (R201). -/
theorem test_pendingMBegin : ((pend .loadw (wm 1) loadDesc 0).engine 0).mCanBegin (mop .loadw (wm 1) loadDesc 0) = true ∧
    ((pend .pass (wm 2 [(1, 13)]) passDesc 1).engine 0).mCanBegin (mop .pass (wm 2 [(1, 13)]) passDesc 1) = true ∧
    ((pend .pass (wm 2 [(1, 13)]) passDesc 1).engine 0).block = some loaded1 ∧ passMask (wm 2 [(1, 13)]) = false ∧
    ((pend .out (wm 5) passDesc 1).engine 0).mCanBegin (mop .out (wm 5) passDesc 1) = true ∧
    ((pend .fold (wm 4 [(1, 39)]) [] 1).engine 0).mCanBegin (mop .fold (wm 4 [(1, 39)]) [] 1) = true ∧
    ((pend .fold (wm 4 [(1, 39)]) [] 1).engine 0).silt.wf = true ∧ ((pend .fold (wm 4 [(1, 39)]) [] 1).engine 0).holder = some 0 ∧
    ((pend .fold (wm 4 [(1, 39)]) [] 1).ctx 0 0).mPend = some (mop .fold (wm 4 [(1, 39)]) [] 1) ∧
    (pend .fold (wm 4 [(1, 39)]) [] 1).holds? 0 0 = true ∧ (pend .fold (wm 4 [(1, 39)]) [] 1).stuck (.m 0 0) = false ∧
    foldSrc (wm 4 [(1, 39)]) + 1 ≤ foldDst (wm 4 [(1, 39)]) := by
  decide +kernel
/-- A pass that its mask leaves no row, one whose mask leaves its row, M.OUT with rows apart, a read error of the row, and a
unit whose token a full queue keeps (R118, R184, R201). -/
def pendMask (b : Byte) : State :=
  running [wm 2 [(1, 11)]] { sand := memOf [(0, passDesc), (256, [0x38]), (512, [b])], shadow := some loaded1 }
    { mPend := some (mop .pass (wm 2 [(1, 11)]) (passDesc.take 8 ++ leBytes 4 512 ++ passDesc.drop 12) 1) }
def stuckM : State := { pend .out (wm 5) passDesc 1 with eng := (pend .out (wm 5) passDesc 1).eng.map (fun e =>
  (e.1, { e.2 with ctx := e.2.ctx.map (fun k => (k.1, { k.2 with heldTok := [(0, [(7, .m 0 0)])] })) })) }
theorem test_pendingMBegin_cases : (pendMask 0).fedRows 0 (mop .pass (wm 2 [(1, 11)]) (passDesc.take 8 ++ leBytes 4 512 ++ passDesc.drop 12) 1) = [] ∧
    (pendMask 1).fedRows 0 (mop .pass (wm 2 [(1, 11)]) (passDesc.take 8 ++ leBytes 4 512 ++ passDesc.drop 12) 1) = [0] ∧
    (pendMask 1).passRowBad 0 0 block1 false false (passDesc.take 8 ++ leBytes 4 512 ++ passDesc.drop 12) 0 = none ∧
    ((pend .out (wm 5) passDesc 1).engine 0).sand.wf = true ∧ outRowBytes (outFmt passDesc) ≤ dfld passDesc 40 4 ∧
    ((pend .out (wm 5) passDesc 1).ctx 0 0).holds 1 (((pend .out (wm 5) passDesc 1).engine 0).mReads (mop .out (wm 5) passDesc 1) 3).2 12 = false ∧
    ((after (.pendingMBegin 0 (.uncorrectable 3 none)) (pend .out (wm 5) passDesc 1)).ctx 0 0).rep = .restoring ∧
    stuckM.stuck (.m 0 0) = true ∧ stuckM.holds? 0 0 = true ∧
    ((after (.pendingMBegin 0 .ok) stuckM).ctx 0 0).mPend = (stuckM.ctx 0 0).mPend := by decide +kernel
/-- The load that begins reads the block whose one weight is 0x38 (R110). -/
theorem test_load_reads : ((after (.pendingMBegin 0 .ok) (pend .loadw (wm 1) loadDesc 0)).engine 0).mLoad =
    some (mop .loadw (wm 1) loadDesc 0, loaded1) := by decide +kernel

/-- A load that has been read, and a finished pass with token 7 of class LOCAL. -/
def loading : State := running [] { mLoad := some (mop .loadw (wm 1) loadDesc 0, loaded1), mDone := [mop .pass (wm 2 [(7, 14)]) passDesc 1] }
/-- The events of the M unit (R112, R204). -/
theorem test_m_events : (loading.engine 0).mLoad = some (mop .loadw (wm 1) loadDesc 0, loaded1) ∧
    (loading.ctx 0 0).resident = true ∧ loading.countsFails 0 0 (failCounters 0 0x03 none) ∧ loading.holds? 0 0 = true ∧
    loading.stuck (.m 0 0) = false ∧ ((after (.loadCornerCompare 0 .ok true none) loading).ctx 0 0).rep = .restoring ∧
    takeDone 0 (loading.engine 0).mDone = some (mop .pass (wm 2 [(7, 14)]) passDesc 1, []) ∧
    ((after (.passTokenEntry 0) loading).ctx 0 0).tokens 0 = [7] := by
  unfold State.countsFails; decide +kernel
/-- A load whose context was unloaded before its comparison: its failure is counted alone (R112). -/
def orphan : State := { State.reset with eng := [(0, { mLoad := some (mop .loadw (wm 1) loadDesc 0, loaded1) })] }
theorem test_corner_orphan : (orphan.ctx 0 0).resident = false ∧
    ((after (.loadCornerCompare 0 .ok true none) orphan).reg (Reg.arrLoadfail 0)).toNat = 1 := by decide +kernel
/-- The corner comparison of a block of one weight passes (R112). -/
theorem test_corner : loaded1.blk.cornerOk = true := by decide +kernel

/-- One row of a pass, of the element 1.0, that leaves the drain with FIRST. -/
def flight1 : Flight := ⟨mop .pass (wm 2 [(1, 13)]) passDesc 1, block1, [⟨0, 0, 0, none, [0x38], [], none⟩]⟩
def draining : State := running [] { flights := [flight1] }
/-- The row's check passes, with 256 outputs of which output 0 is 1.0 (R123, R135). -/
theorem test_passRow : (passRow block1 false false [0x38] [] none).ok = true ∧ (passRow block1 false false [0x38] [] none).outs.length = 256 ∧
    (passRow block1 false false [0x38] [] none).outs.getD 0 0 = p96Encode (.fin false 1 0) ∧ passLast flight1.op.word = false ∧
    (draining.engine 0).flights = [flight1] ∧ (draining.engine 0).silt.wf = true ∧ draining.flag (Reg.arrInj 0) 0 = false ∧
    draining.stuck (.m 0 0) = false ∧ (draining.engine 0).sand.wf = true := by decide +kernel
/-- Two rows of one slot of two arrays, of a pass without FIRST: upsets of both give one record with both arrays and count 2
(R138); an uncorrectable error of Silt row 1 stops it as well. -/
def flight2 : Flight := ⟨mop .pass (wm 2) (passDesc.take 16 ++ [2] ++ passDesc.drop 17) 2, block1,
  [⟨0, 0, 0, none, [0x38], [], none⟩, ⟨1, 1, 0, none, [0x38], [], none⟩]⟩
def draining2 : State := running [] { flights := [flight2] }
theorem test_rowsFail : flight2.beside ⟨0, 0, 0, none, [0x38], [], none⟩ [⟨1, 1, 0, none, [0x38], [], none⟩] 3 = ([⟨1, 1, 0, none, [0x38], [], none⟩], []) ∧
    draining2.countsFails 0 0 (failCounters 0 0x02 none) ∧
    ((after (.arrayRowCheck 0 .ok 3 none) draining2).reg (Reg.arrChkfail 0)).toNat = 2 ∧
    (Tab.get [] (after (.arrayRowCheck 0 .ok 3 none) draining2).recBuf 0).map (fun r => (r.cls, r.detail)) =
      [(2, leBytes 4 3 ++ leBytes 4 0 ++ leBytes 4 0 ++ leBytes 4 2)] ∧
    (draining2.ctx 0 0).holds 1 (sramAt 1 0 3072 255) 12 = false ∧ draining2.countsFails 0 0 (failCounters 0 0x08 none) ∧
    ((after (.arrayRowCheck 0 (.uncorrectable 255 none) 0 none) draining2).ctx 0 0).rep = .restoring := by
  unfold State.countsFails; decide +kernel
/-- The row that passes beside a failing one of its slot is written (R137), and the failing one alone is counted. -/
theorem test_rowBeside : flight2.beside ⟨0, 0, 0, none, [0x38], [], none⟩ [⟨1, 1, 0, none, [0x38], [], none⟩] 1 =
      ([], [⟨1, 1, 0, none, [0x38], [], none⟩]) ∧ ((draining2.engine 0).silt.wf = true) ∧
    draining2.countsFails 0 0 (failCounters 0 0x02 none) ∧
    ((after (.arrayRowCheck 0 .ok 1 none) draining2).reg (Reg.arrChkfail 0)).toNat = 1 := by
  unfold State.countsFails; decide +kernel
/-- A reload of a block that meets an uncorrectable error of Sand stops its segment for a replay (R283, R416). -/
def reloadOf : State := running [] { mLoad := some (mop .loadw (wm 1) loadDesc 0, loaded1), reloading := true }
theorem test_reloadError : (reloadOf.ctx 0 0).holds 0 ((reloadOf.engine 0).mReads (mop .loadw (wm 1) loadDesc 0) 0).2 8 = false ∧
    reloadOf.countsFails 0 0 (failCounters 0 0x08 none) ∧
    ((after (.loadCornerCompare 0 (.uncorrectable 0 none) false none) reloadOf).ctx 0 0).rep = .restoring ∧
    ((after (.loadCornerCompare 0 .ok false none) reloadOf).engine 0).shadow = some loaded1 := by
  unfold State.countsFails; decide +kernel

/-! ## Control instructions -/

/-- A C word. -/
def wc (op : Nat) (fs : List (Nat × Nat) := []) : W64 := word 4 op fs
/-- A group of V.LI and C.NOP: its first word does not end it. -/
def wli0 : W64 := wli - 2 ^ 60
/-- The context's innermost loop ends at its group with `left` iterations, or elsewhere. -/
def looped (w : W64) (stop left : Nat) : State := running [w, wc 0] {} { cur := { loops := [⟨64, stop, left⟩] } }
/-- Where the PC goes: within a group, past it, back to a body, out of a loop (R179, R197, R198). -/
theorem test_advance : (running [wli0, wc 0]).canRun 0 0 .vLi wli0 ∧ wG wli0 = false ∧ wG wli = true ∧
    (looped wli 64 3).canRun 0 0 .vLi wli ∧ (looped (wc 0) 64 1).canRun 0 0 .cNop (wc 0) ∧ (looped (wc 0) 99 2).canRun 0 0 .cNop (wc 0) ∧
    ((after (.cNop 0 0) (looped (wc 0) 64 3)).ctx 0 0).cur.loops = [⟨64, 64, 2⟩] ∧
    ((after (.cNop 0 0) (looped (wc 0) 64 1)).ctx 0 0).cur.pc = 65 := by
  unfold State.canRun; decide +kernel

/-- C.LOOP of LC1 to END 65, with the count given. -/
def wloop : W64 := wc 1 [(1, 45), (65, 32)]
def sloop (n : W32) : State := running [wloop, wc 0] {} { cur := { lc := [(1, n)] } }
/-- C.WAIT on LOCAL token 7, whose identifier goes to LC2. -/
def wwait : W64 := wc 2 [(7, 32), (0xFFFF, 16), (1, 15), (2, 12)]
def swait : State := running [wwait] {} { queue := [(0, [7, 9])] }
/-- C.ARM of the last slot, C.SETLC of the last loop count, and C.STEP in both forms. -/
def warm : W64 := wc 3 [(31, 43), (0x2005, 27)]
def wsetlc : W64 := wc 4 [(7, 45), (0xFFFFFFFF, 0)]
def wstep : W64 := wc 9
def wstepV : W64 := wc 9 [(1, 47), (1, 40)]
theorem test_control_record : (sloop 3).canRun 0 0 .cLoop wloop ∧ (sloop 3).loopEndOk 0 0 65 (wbits wloop 44 32) = true ∧
    ((sloop 3).ctx 0 0).cur.loops = [] ∧ (sloop 0).canRun 0 0 .cLoop wloop ∧ (sloop 0).loopEndOk 0 0 65 (wbits wloop 44 32) = true ∧
    (running [warm]).canRun 0 0 .cArm warm ∧ (running [wsetlc]).canRun 0 0 .cSetlc wsetlc ∧ (running [wstep]).canRun 0 0 .cStep wstep ∧
    (running [wstepV] regs3).canRun 0 0 .cStep wstepV ∧ swait.canRun 0 0 .cWait wwait ∧ (swait.ctxAt 0 0).tokens (wbits wwait 47 44) = [7, 9] := by
  unfold State.canRun; decide +kernel
/-- C.WAIT pops the 7 and writes it to LC2; C.STEP adds 1; a loop with count 0 is skipped (R197, R218, R222). -/
theorem test_control_values : ((after (.cWait 0 0) swait).ctx 0 0).tokens 0 = [9] ∧ ((after (.cWait 0 0) swait).ctx 0 0).cur.lc = [(2, 7)] ∧
    ((after (.cStep 0 0) (running [wstep])).ctx 0 0).cur.stepNo = 1 ∧ ((after (.cLoop 0 0) (sloop 0)).ctx 0 0).cur.pc = 66 := by
  decide +kernel

/-- C.JUMP to the first and the last word that a jump may take; C.SELECT of entry 63; C.SWAPBANK; C.COMMIT and C.END. -/
def wjump (t : Nat) : W64 := wc 6 [(t, 0)]
def sselect : State := running [wc 5] { imemA := [(63, 64)] } { sel := some 63 }
def wswap : W64 := wc 8 [(64, 0)]
def sswap : State := running [wswap] {} { copyB := .ready }
def wcommit : W64 := wc 7 [(0x3FFFF, 30)]
def wend : W64 := wc 10 [(42, 0)]
theorem test_transfers_of_control : (running [wjump 64]).canRun 0 0 .cJump (wjump 64) ∧ (running [wjump 64]).targetOk 0 0 64 = true ∧
    (running [wjump 8191]).canRun 0 0 .cJump (wjump 8191) ∧ (running [wjump 8191]).targetOk 0 0 8191 = true ∧
    sselect.canRun 0 0 .cSelect (wc 5) ∧ (sselect.ctx 0 0).sel = some 63 ∧ (sselect.imemWord 0 0 63).toNat = 64 ∧
    sselect.targetOk 0 0 64 = true ∧ sswap.canRun 0 0 .cSwapbank wswap ∧ (sswap.ctx 0 0).cur.loops = [] ∧ (sswap.imemShare 0 0).2 = 8192 ∧
    (running [wcommit]).canRun 0 0 .cCommit wcommit ∧ ((running [wcommit]).ctx 0 0).provHeld = [] ∧
    ((running [wcommit]).ctxAt 0 0).provHeld = [] ∧ (running [wend]).canRun 0 0 .cEnd wend ∧ ((running [wend]).ctxAt 0 0).provHeld = [] := by
  unfold State.canRun; decide +kernel

/-! ## Data movement -/

/-- A state with registers. -/
def withRegs (s : State) (rs : List (Nat × W64)) : State := { s with regs := rs ++ s.regs }
/-- Partition 0, enabled, with engines, one granule of Loam and the first Tilth contexts. -/
def part0 : List (Nat × W64) := [(Reg.partCtl 0, 1), (Reg.partEng 0, 0xFFFFFFFFFFFF), (Reg.partMem 0, 0x400), (Reg.partTilth 0, 0x10000000), (Reg.partRing 0, 0x10000),
  (Reg.partWin 0, 0x17700060)]
/-- Loam offset 0 as a global address, and the slot of a 256-byte access of it by engine 0, context 0. -/
def loam0 : Nat := 2 * 2 ^ 44
def slotWord (write : Bool) : W32 := 0x80002060 ||| (if write then 0x8000 else 0)
/-- A transfer descriptor of one row of 256 bytes at local offset 4,096. -/
def xferDesc (ga : Nat) (fs : List (Nat × Nat) := []) : Bytes := bytesOf 64 ([(0, ga), (24, 4096), (28, 256), (36, 256), (40, 1)] ++ fs)
/-- A D word with the token given. -/
def wd (op tok : Nat) : W64 := word 3 op [(tok, 14)]
/-- The state at a D word, its descriptor at Sand offset 0. -/
def sd (w : W64) (d : Bytes) (write : Bool := false) : State :=
  { withRegs (running [w] { sand := memOf [(0, d), (4096, [1, 2, 3])] }) ((Reg.imemShare 0 0, 0x300) :: part0) with
    slots := [(chanLoam (loamMap 0 0), [slotWord write])], send := [(0, { sstate := 1, win := 64, credit := 1000 })] }
/-- What issue asks of a transfer beside its place in its group. -/
def entersOk (o : EngOp) (w : W64) (d : Bytes) (write : Bool) : Prop :=
  (sd w d write).canRun 0 0 o w ∧ ((sd w d write).opened 0 0).sandOk 0 0 (64 * wbits w 47 30) 64 = true ∧
  ((sd w d write).opened 0 0).sandBytes 0 0 (64 * wbits w 47 30) 64 = d ∧ xferDescOk o d = true ∧ w.getLsbD 11 = false ∧
  ((sd w d write).opened 0 0).dBad 0 0 o d (dfld d 43 1 % 2 == 1) (w.getLsbD 13) false (BitVec.ofNat 16 (wbits w 29 14)) 1 = none
/-- Every transfer passes the checks of issue (R212, R217, R280, R385). -/
theorem test_d_issue : entersOk .dGet (wd 0 5) (xferDesc loam0) false ∧ entersOk .dPut (wd 1 5) (xferDesc loam0) true ∧
    entersOk .dSend (wd 2 0x3005) (xferDesc 0) false ∧ entersOk .dGather (wd 3 5) (xferDesc loam0 [(52, 8192)]) false ∧
    entersOk .dIload (wd 4 5) (xferDesc loam0) false := by
  unfold entersOk State.canRun; decide +kernel

/-- An outstanding transfer of a descriptor. -/
def xfer (k : DKind) (d : Bytes) (tok : Tok) (row : Nat) : Xfer := { id := 3, kind := k, desc := d, tok := tok, rows := 1, pc := 64, bankB := false, row := row }
/-- A context with one, over some Loam. -/
def moving (f : Xfer) : State := { withRegs (running [] {} { xfers := [f] }) part0 with loam := memOf [(0, [7, 8, 9])], send := [(0, { sstate := 1, win := 64, credit := 1000 })] }
/-- A get of two pieces from Loam: 4,096 bytes. -/
def xget : Xfer := xfer .get (bytesOf 64 [(0, loam0), (24, 4096), (28, 4096), (40, 1)]) 5 0
/-- A Shale transfer. -/
def xshale (k : DKind) (row : Nat) : Xfer := { xfer k (xferDesc (4 * 2 ^ 44)) 0x5005 row with shale := true }
/-- What lands, completes and is handed off (R213, R215, R305, R308, R386). -/
theorem test_d_events : ((moving xget).ctx 0 0).xfer 3 = some xget ∧ xget.row < xget.rows ∧ gaTier (xGaddr xget.desc) = 2 ∧ xSilt xget.desc = false ∧
    ((moving xget).engine 0).sand.wf = true ∧ xget.off + ((moving xget).nextPiece 0 xget.desc (xRemote xget.desc 0) 0).2 < xRbytes xget.desc ∧
    (moving xget).countsFails 0 0 (failCounters 0 0x0A none) ∧ ((moving xget).ctx 0 0).repFault = none ∧
    (moving xget).holds? 0 0 = true ∧ (moving xget).stuck (.locked 0 0) = false ∧ (moving xget).ownEngine 0 (xGaddr xget.desc) = false ∧
    (moving (xfer .get (xferDesc loam0) 5 1)).holds? 0 0 = true ∧ tokClass 5 ≠ 1 ∧
    ((moving (xfer .send (xferDesc 0) 0x3005 0)).sendHalf 0).p96 = false ∧ ((moving (xfer .send (xferDesc 0) 0x3005 0)).localStream 0 0 (xferDesc 0) 1).length = 256 ∧
    ((moving (xfer .send (xferDesc 0) 0x3005 0)).ctx 0 0).nextChunk 0 ((moving (xfer .send (xferDesc 0) 0x3005 0)).sendHalf 0) =
      ((moving (xfer .send (xferDesc 0) 0x3005 0)).sendHalf 0).hchunk ∧ ((moving (xfer .send (xferDesc 0) 0x3005 0)).sendHalf 0).room 256 = true ∧
    ((moving (xshale .put 1)).ctx 0 0).xfer 3 = some (xshale .put 1) ∧ (moving (xshale .get 0)).countsFails 0 0 (failCounters 0 0x0C none) ∧
    ((moving (xfer .send (xferDesc 0) 0x3005 0)).sendHalf 0).sstate ≠ 3 ∧ (moving (xshale .put 0)).checksDue 0 0 = false ∧
    (moving (xshale .put 0)).stuck (.shale 0 0) = false := by
  unfold State.countsFails; decide +kernel
/-- The last piece of a D.PUT to Shale completes it for the context, and its SHALE token enters later (R215). -/
theorem test_shalePut : let t := after (.dChunkHandoff 0 0 3 .ok) (moving (xshale .put 0))
    (t.ctx 0 0).xfers = [] ∧ (t.ctx 0 0).shaleOut.map (·.id) = [3] ∧ (t.ctx 0 0).tokens 5 = [] ∧
    ((after (.shaleCompletion 0 0 3 .ok) t).ctx 0 0).tokens 5 = [0x5005] := by decide +kernel
/-- A half that is LOST takes no chunk, and one with no credit none (R386, R394). -/
theorem test_lostHalf : let s := { moving (xfer .send (xferDesc 0) 0x3005 0) with send := [(0, { sstate := 3, win := 64, credit := 1000 })] }
    (after (.dChunkHandoff 0 0 3 .ok) s).send = s.send ∧ ((after (.dChunkHandoff 0 0 3 .ok) s).ctx 0 0).xfers.length = 1 := by decide +kernel
/-- A provisional D.SEND is handed off while a vector check is due, an ordinary one is not (R174, R514). -/
theorem test_provisional : let f := xfer .send (xferDesc 0) 0x3005 0
    let g := fun (b : Bool) => after (.dChunkHandoff 0 0 3 .ok) ((moving { f with prov := b }).modEngine 0 (fun e => { e with vchk := [⟨0, 9, 64, false⟩] }))
    ((moving f).modEngine 0 (fun e => { e with vchk := [⟨0, 9, 64, false⟩] })).checksDue 0 0 = true ∧ (((moving f).modEngine 0 (fun e => { e with vchk := [⟨0, 9, 64, false⟩] })).ctx 0 0).st ≠ .halted ∧ ((g false).sendHalf 0).todo = [] ∧
    ((g true).sendHalf 0).todo.map (·.prov) = [true] ∧ ((g true).sendHalf 0).provs.map (·.whole) = [true] := by decide +kernel
/-- An uncorrectable sector of Loam: the segment stops, the record names stack 0, pseudo-channel 0, bank group 0 and bank 0, and
row 0 (R308). -/
theorem test_loamRecord : let t := after (.transferPieceLanding 0 0 3 (.uncorrectable 0 none) .ok) (moving xget)
    (Tab.get [] t.recBuf 0).map (fun r => (r.cls, r.detail)) = [(0x0A, List.replicate 16 0)] ∧ (t.ctx 0 0).rep = .restoring := by
  decide +kernel
/-- 256 bytes of Loam land, among them 7, 8, 9 (R213). -/
theorem test_piece : (after (.transferPieceLanding 0 0 3 .ok .ok) (moving (xfer .get (xferDesc loam0) 5 0))).sandBytes 0 0 4096 4 = [7, 8, 9, 0] := by decide +kernel

/-- A held token with a full queue, and with room. -/
def heldTok (n : Nat) : State := running [] {} { queue := [(6, List.replicate n 0x6001)], heldTok := [(6, [(0x6002, .tilth 0)])] }
/-- A group that waits for an empty queue. -/
def waiting : State := running [wc 2 [(0x3007, 32), (0xFFFF, 16)]] {} { xfers := [xfer .get (xferDesc loam0) 5 0] }
theorem test_held_and_watchdog : Tab.get [] ((heldTok 31).ctx 0 0).heldTok 6 = [(0x6002, .tilth 0)] ∧ Tab.get [] ((heldTok 32).ctx 0 0).heldTok 6 = [(0x6002, .tilth 0)] ∧
    waiting.counted 0 0 = true ∧ waiting.heldLimit 0 0 = 134217728 ∧
    ((after (.heldTokenEntry 0 0 6) (heldTok 31)).ctx 0 0).tokens 6 = List.replicate 31 0x6001 ++ [0x6002] ∧
    ((after (.heldTokenEntry 0 0 6) (heldTok 32)).ctx 0 0).tokens 6 = List.replicate 32 0x6001 ∧
    ((after (.waitExpired 0 0 false 134217728) waiting).ctx 0 0).st = .halted ∧
    ((after (.waitExpired 0 0 false 134217727) waiting).ctx 0 0).st = .running := by decide +kernel
/-- The tail word of a group that faults as it issues: nothing of the group issues (R180). -/
def tailBad : State := running [wv 0 - 2 ^ 60, wjump 10] regs3
theorem test_laterFault : tailBad.canIssue 0 0 = true ∧ (tailBad.ctx 0 0).gi = 0 ∧ tailBad.gate 0 0 = .go ∧
    EngOp.ofWord (tailBad.instrAt 0 0) = some .vAdd ∧ tailBad.firstRuns 0 0 = true ∧ tailBad.laterBad 0 0 = some (fMalformed, 4) ∧
    ((after (.vAdd 0 0) tailBad).ctx 0 0).st = .halted ∧ ((after (.vAdd 0 0) tailBad).engine 0).vreg = regs3.vreg := by decide +kernel
/-- A transfer of a shadow, a row of a D.GATHER beyond the partition's Loam, and a D.PUT that waits for a check (R527, R280, R174). -/
def shadowMoves : State := { moving xget with eng := (moving xget).eng.map (fun e => (e.1, { e.2 with ctx := e.2.ctx.map (fun k => (k.1, { k.2 with shadow := true })) })) }
def xgatherBad : Xfer := xfer .gather (xferDesc loam0 [(32, 2 ^ 30), (52, 8192)]) 5 0
def gatherBad : State := { moving xgatherBad with eng := (moving xgatherBad).eng.map (fun e => (e.1, { e.2 with sand := memOf [(8192, [1])] })) }
def xputW : Xfer := xfer .put (xferDesc loam0) 5 0
def putWaits : State := (moving xputW).modEngine 0 (fun e => { e with vchk := [⟨0, 9, 64, false⟩] })
theorem test_piece_cases : (shadowMoves.ctx 0 0).shadow = true ∧ shadowMoves.holds? 0 0 = true ∧ (shadowMoves.ctx 0 0).xfer 3 = some xget ∧
    gatherBad.pieceAt 0 0 xgatherBad 0 0 = .inl fBound ∧ gatherBad.holds? 0 0 = true ∧
    ((after (.transferPieceLanding 0 0 3 .ok .ok) gatherBad).ctx 0 0).st = .halted ∧
    putWaits.leaveHeld 0 0 xputW = true ∧ (putWaits.ctx 0 0).shadow = false ∧
    (moving xputW).landHeld 2 0 256 = false ∧ ((moving xputW).digestRow 0 0 xputW.desc 0 []).isSome = true := by decide +kernel
/-- A D.ILOAD's piece fills the instruction queue, which takes none when it holds 64 words (R193). -/
def xil : Xfer := xfer .iload (xferDesc loam0) 5 0
def fillIq (n : Nat) (st : Option StreamIn) : State :=
  { moving xil with eng := (moving xil).eng.map (fun e => (e.1, { e.2 with ctx := e.2.ctx.map (fun k =>
      (k.1, { k.2 with iq := List.replicate n 1, stream := st })) })) }
theorem test_iload_piece : ((fillIq 0 none).ctx 0 0).iq.length < 512 ∧ ((fillIq 512 none).ctx 0 0).iq.length = 512 ∧
    ((fillIq 0 none).ctx 0 0).ringStream = none ∧ (fillIq 0 none).ownEngine 0 (xGaddr xil.desc) = false ∧
    ((after (.transferPieceLanding 0 0 3 .ok .ok) (fillIq 0 none)).ctx 0 0).iq.take 4 = [7, 8, 9, 0] ∧
    ((after (.transferPieceLanding 0 0 3 .ok .ok) (fillIq 0 none)).ctx 0 0).iq.length = 256 ∧
    ((after (.transferPieceLanding 0 0 3 .ok .ok) (fillIq 0 (some { bankB := true, start := 0, count := 40, iload := true, got := 0, crc := 0 }))).ctx 0 0).iq = [] ∧
    ((after (.transferPieceLanding 0 0 3 .ok .ok) (fillIq 500 none)).ctx 0 0).iq.length = 512 := by decide +kernel
/-- A token of class LOCAL waits for its context; a control core that is held expires by its own limit, with its own address (R184,
R236, R418). -/
def absentLocal : State := { running [] {} { heldTok := [(0, [(7, .m 0 0)])] } with
  eng := [(0, { ctx := [(0, { st := .running, heldTok := [(0, [(7, .m 0 0)])] })] })] }
theorem test_held_absent : (absentLocal.ctx 0 0).shadow = false ∧ absentLocal.holds? 0 0 = false ∧
    ((after (.heldTokenEntry 0 0 0) absentLocal).ctx 0 0).tokens 0 = [] ∧ waiting.ccHeld 0 0 = false := by decide +kernel

/-! ## Streams and commits -/

/-- A stream of four zero words for copy B from word 64, whose seal holds the CRC-32C of 32 zero bytes, 0x8A9136AA. -/
def streamHead : Nat := 0xA5E1 * 2 ^ 48 + 2 ^ 47 + 4 * 2 ^ 33 + 64 * 2 ^ 20
def streamBytes4 : Bytes := leBytes 8 streamHead ++ List.replicate 32 0 ++ leBytes 8 (0x5EA1 * 2 ^ 48 + 0x8A9136AA)
def sealOf (crc : Nat) : Bytes := leBytes 8 (0x5EA1 * 2 ^ 48 + crc)
def ringStream4 : RingStream := ⟨0, 0, 48, []⟩
/-- The stream once its four words have entered the copy: their running check value. -/
def streamIn4 (iload : Bool) : StreamIn := ⟨true, 64, 4, iload, 4, 0x756EC955⟩
def streaming (iq : Bytes) (st : Option StreamIn) : State := running [] {} { ringStream := some ringStream4, stream := st, iq := iq }
/-- The header is accepted and its payload enters copy B; the seal is accepted, or waits for the words of its stream (R193, R194,
R252). -/
theorem test_streams : (streaming streamBytes4 none).streamFrom 0 0 = some none ∧
    wbits (BitVec.ofNat 64 (leNat (streamBytes4.take 8))) 63 48 = 0xA5E1 ∧ wbits (BitVec.ofNat 64 (leNat (streamBytes4.take 8))) 19 0 = 0 ∧
    ((streaming streamBytes4 none).ctx 0 0).copyB ≠ .active ∧ (streamIn4 false).badForm 48 (BitVec.ofNat 64 (leNat (sealOf 0x8A9136AA))) = false ∧
    ((streaming (sealOf 0x8A9136AA) (some (streamIn4 false))).ctx 0 0).sealDue (streamIn4 false) none = true ∧
    (streaming (sealOf 0x8A9136AA) (some (streamIn4 false))).sealFail 0 0 (streamIn4 false) 48 ((streaming (sealOf 0x8A9136AA) (some (streamIn4 false))).ctx 0 0).sealWord = 0 ∧
    ((after (.instructionStreamHeader 0 0) (streaming streamBytes4 none)).ctx 0 0).stream = some (streamIn4 false) ∧
    ((after (.instructionStreamHeader 0 0) (streaming streamBytes4 none)).ctx 0 0).iq = sealOf 0x8A9136AA ∧
    ((after (.streamSealLands 0 0 none) (streaming (sealOf 0x8A9136AA) (some (streamIn4 false)))).ctx 0 0).copyB = .ready ∧
    ((after (.streamSealLands 0 0 none) (streaming (sealOf 0x8A9136AB) (some (streamIn4 false)))).ctx 0 0).copyB = .empty := by decide +kernel
/-- A D.ILOAD of the stream, with what its queue holds. -/
def xil48 (row : Nat) : Xfer := xfer .iload (bytesOf 64 [(0, loam0), (24, 4096), (28, 48), (40, 1)]) 5 row
def iload (iq : Bytes) (st : Option StreamIn) (row : Nat := 1) (b : CopySt := .empty) (f : Ctx → Ctx := fun x => x) : State :=
  running [] {} (f { xfers := [xil48 row], iq := iq, stream := st, copyB := b })
/-- A stream with a mark that is wrong. -/
def badHead : Bytes := leBytes 8 (streamHead - 2 ^ 48)
/-- The stream has failed before, and the segment holds its first byte. -/
def heldLoad (x : Ctx) : Ctx := { x with hranges := [⟨2, 0, 1⟩], repFault := some ⟨9, some loam0⟩ }
/-- A D.ILOAD's header is accepted, malformed, or names the copy that is ACTIVE; its seal is right, wrong, or wrong a second time
on a held stream; a ring's stream is malformed (R194, R256, R512). -/
theorem test_streams_iload : (iload streamBytes4 none).streamFrom 0 0 = some (some (xil48 1)) ∧ (iload streamBytes4 none).holds? 0 0 = true ∧
    (let s := iload (sealOf 0x8A9136AA) (some (streamIn4 true))
     s.sealFail 0 0 (streamIn4 true) 48 (s.ctx 0 0).sealWord = 0 ∧ (s.ctx 0 0).sealDue (streamIn4 true) (some (xil48 1)) = true ∧
     s.stuck (.locked 0 0) = false ∧ ((after (.streamSealLands 0 0 none) s).ctx 0 0).tokens 0 = [5]) ∧
    wbits (BitVec.ofNat 64 (leNat (badHead.take 8))) 63 48 ≠ 0xA5E1 ∧
    ((after (.instructionStreamHeader 0 0) (iload badHead none 0)).ctx 0 0).fault = fMalformed ∧
    ((after (.instructionStreamHeader 0 0) (iload streamBytes4 none 1 .active)).ctx 0 0).fault = fActive ∧
    (let s := iload (sealOf 0x8A9136AB) (some (streamIn4 true))
     s.sealFail 0 0 (streamIn4 true) 48 (s.ctx 0 0).sealWord = 2 ∧ s.loadHeld 0 0 (xil48 1) = false ∧
     ((after (.streamSealLands 0 0 none) s).reg (Reg.cuffIlfail 0)).toNat = 1 ∧ ((after (.streamSealLands 0 0 none) s).ctx 0 0).rep = .restoring) ∧
    (let s := iload (sealOf 0x8A9136AB) (some (streamIn4 true)) 1 .empty heldLoad
     s.loadHeld 0 0 (xil48 1) = true ∧ ((after (.streamSealLands 0 0 none) s).ctx 0 0).st = .halted) ∧
    ((iload (sealOf 0) (some (streamIn4 true))).ctx 0 0).shadow = false ∧ (iload (sealOf 0) (some (streamIn4 true))).countsFails 0 0 [] ∧
    ((after (.instructionStreamHeader 0 0) (streaming badHead none)).ctx 0 0).ringStream = none := by
  unfold State.countsFails; decide +kernel
/-- A seal that has not come (R193). -/
theorem test_seal_waits : let s := iload [] (some { streamIn4 true with got := 3 }) 0
    (s.ctx 0 0).sealDue { streamIn4 true with got := 3 } (some (xil48 0)) = false := by decide +kernel

/-- A context at its commit, plain or C.END, with a held-range list of no entry at offset 0. -/
def committing (h : Option Nat) (e : Option W32) : State := running [] {} { commit := some ⟨h, e, 64⟩, run := 2 }
theorem test_commit : ((committing (some 0) none).ctx 0 0).commit = some ⟨some 0, none, 64⟩ ∧ (committing (some 0) none).commits 0 0 = true ∧
    (committing (some 0) none).logOn 0 = false ∧ (committing (some 0) none).audit = none ∧
    (committing (some 0) none).commitList 0 0 ⟨some 0, none, 64⟩ = .inr [] ∧ (committing none (some 42)).commits 0 0 = true ∧
    ((after (.segmentCommit 0 0 .ok .ok) (committing none (some 42))).ctx 0 0).st = .ended ∧
    ((after (.segmentCommit 0 0 .ok .ok) (committing (some 0) none)).ctx 0 0).run = 1 := by decide +kernel
/-- A commit that waits for a transfer, and one whose list lies beyond the share (R219, R271). -/
theorem test_commit_not : (running [] {} { commit := some ⟨none, none, 64⟩, xfers := [xget] }).commits 0 0 = false ∧
    (committing (some (4096 * 3072)) none).commits 0 0 = true ∧
    (committing (some (4096 * 3072)) none).commitList 0 0 ⟨some (4096 * 3072), none, 64⟩ = .inl fBound ∧
    ((after (.segmentCommit 0 0 .ok .ok) (committing (some (4096 * 3072)) none)).ctx 0 0).st = .halted := by decide +kernel

/-! ## The control core -/

/-- The control core at an instruction word at its pc 0, with x6 = 0x10000 and x7 = 7. -/
def core (w : Nat) (f : Ctx → Ctx := fun x => x) (e : Engine := {}) : State :=
  running [] { e with ccI := memOf [(0, leBytes 4 w)] } (f { cur := { x := [(6, 0x10000), (7, 7)] } })
/-- Words of RV32IM: addi x5, x6, -1; mul x5, x6, x7; lui, auipc x5, 0x12345; jal x1, +8; jalr x1, 0(x6); beq x7, x7, +8; fence;
lw x5, 0(x6); sw x7, 0(x6). -/
def iAddi : Nat := 0xFFF30293
def iMul : Nat := 0x027302B3
def iLui : Nat := 0x123452B7
def iAuipc : Nat := 0x12345297
def iJal : Nat := 0x008000EF
def iJalr : Nat := 0x000300E7
def iBeq : Nat := 0x00738463
def iFence : Nat := 0x0000000F
def iLw : Nat := 0x00032283
def iSw : Nat := 0x00732023
/-- They decode as RISC-V says, and the core runs (R227). -/
theorem test_cc_decode : (core iAddi).ccCan 0 0 = true ∧ (core iAddi).ccFetch 0 0 = some (.aluI .add 5 6 (BitVec.ofInt 32 (-1)), 4) ∧
    (core iMul).ccFetch 0 0 = some (.alu .mul 5 6 7, 4) ∧ (core iLui).ccFetch 0 0 = some (.lui 5 0x12345000, 4) ∧
    (core iAuipc).ccFetch 0 0 = some (.auipc 5 0x12345000, 4) ∧ (core iJal).ccFetch 0 0 = some (.jal 1 8, 4) ∧
    (core iJalr).ccFetch 0 0 = some (.jalr 1 6 0, 4) ∧ (core iBeq).ccFetch 0 0 = some (.branch 0 7 7 8, 4) ∧
    (core iFence).ccFetch 0 0 = some (.fence, 4) ∧ (core iLw).ccFetch 0 0 = some (.load 2 5 6 0, 4) ∧
    (core iSw).ccFetch 0 0 = some (.store 2 6 7 0, 4) ∧ (core iSw).ccData 0 0 0x10000 4 = some 0 ∧
    ((core iSw).ctx 0 0).journal.length < 1024 ∧ ((core iSw).engine 0).ccD.wf = true ∧
    (core iSw).countsFails 0 0 [Reg.ccLockfail 0] ∧
    (core iSw (fun x => { x with cur := { x.cur with ccpc := 32768 } })).ccFetch 0 0 = none ∧
    (core iSw (fun x => { x with cur := { x.cur with ccpc := 32768 } })).ccCan 0 0 = true ∧
    ((core iAddi).bump (Reg.ccEcccor 0) 1).ccFetch 0 0 = some (.aluI .add 5 6 (BitVec.ofInt 32 (-1)), 4) := by
  unfold State.countsFails; decide +kernel
/-- addi gives 0xFFFF in one cycle, mul 0x70000 in two; sw stores 7 (R232). -/
theorem test_cc_values : ((after (.ccInstruction 0 0 .none) (core iAddi)).ctx 0 0).cur.xreg 5 = 0xFFFF ∧
    ((after (.ccInstruction 0 0 .none) (core iMul)).ctx 0 0).cur.xreg 5 = 0x70000 ∧
    ((after (.ccInstruction 0 0 .none) (core iMul)).ctx 0 0).cur.cycle = 2 ∧
    Mem.bytes ((after (.ccInstruction 0 0 .none) (core iSw)).engine 0).ccD 0 4 = [7, 0, 0, 0] := by decide +kernel

/-- csrrs x5, 0xCC0, x0; csrrw x5, 0x80F, x6; csrrs x0, 0x123, x0; ebreak. -/
def iCsrr : Nat := 0xCC0022F3
def iCsrw : Nat := 0x80F312F3
def iCsrBad : Nat := 0x12302073
def iEbreak : Nat := 0x00100073
def armed : State := core iEbreak (fun x => { x with dbgArm := true })
theorem test_csr : (core iCsrr).ccFetch 0 0 = some (.csr 2 5 0 0xCC0, 4) ∧ (core iCsrr).csrRead 0 0 0xCC0 = some 0 ∧
    (core iCsrw).ccFetch 0 0 = some (.csr 1 5 6 0x80F, 4) ∧ (core iCsrBad).ccFetch 0 0 = some (.csr 2 0 0 0x123, 4) ∧
    (core iCsrBad).csrRead 0 0 0x123 = none ∧ (core iEbreak).ccFetch 0 0 = some (.ebreak, 4) ∧ armed.ccFetch 0 0 = some (.ebreak, 4) ∧
    (armed.ctx 0 0).dbgArm = true ∧ ((core iEbreak).ctx 0 0).dbgArm = false ∧ armed.ccCan 0 0 = true ∧
    ((after (.csrAccess 0 0 false) (core iCsrw)).ctx 0 0).cur.lc = [(7, 0x10000)] ∧
    ((after (.csrAccess 0 0 true) (core iCsrw)).ctx 0 0).cur.lc = [] ∧ ((after (.csrAccess 0 0 true) (core iCsrw)).ctx 0 0).cur.csr.lclost = true ∧
    ((after (.csrAccess 0 0 false) (core iCsrBad)).ctx 0 0).fault = fMalformed := by decide +kernel

/-- xsq.pop x5; xsel x7; xtok x8 with the CORE token 0x2005; xseq x9, x10 with entry 3 of a table of 4. -/
def iXsqPop : Nat := 0x0000028B
def iXsel : Nat := 0x0003900B
def iXtok : Nat := 0x0004200B
def iXseq : Nat := 0x00A4B00B
def popping (q : List SumEntry) : State := core iXsqPop (fun x => { x with cur := { x.cur with sumq := q } })
def tokens8 : State := core iXtok (fun x => { x with cur := { x.cur with x := [(8, 0x2005)] } })
/-- The operation op on entry 3; its table has four entries, and ROLL_ADM_q names the context. -/
def seqs (op : W32) : State :=
  withRegs (core iXseq (fun x => { x with cur := { x.cur with x := [(9, 3), (10, op)] } }))
    [(Reg.rollSeqt 0, 0x0200040000000000), (Reg.rollAdm 0, 0x10000)]
theorem test_extension : (popping [⟨7, 1, 2, true⟩]).ccFetch 0 0 = some (.xsqPop 5, 4) ∧ ((popping []).ctx 0 0).cur.sumq = [] ∧
    (core iXsel).ccFetch 0 0 = some (.xsel 7, 4) ∧ ((core iXsel).ctx 0 0).sel = none ∧ tokens8.ccFetch 0 0 = some (.xtok 8, 4) ∧
    (core iXsel (fun x => { x with sel := some 1 })).ccFetch 0 0 = some (.xsel 7, 4) ∧ (popping []).ccCan 0 0 = true ∧
    coreTok ((tokens8.ctx 0 0).cur.xreg 8) = some 0x2005 ∧ (tokens8.ctx 0 0).coreFull = false ∧
    (seqs 1).ccFetch 0 0 = some (.xseq 9 10, 4) ∧ seqKind 1 = some .admitSeq ∧ (seqs 1).admitBad 0 0 = false ∧
    seqKind 2 = some .capture ∧ seqKind 0xFF3 = some .retire ∧ seqKind 4 = some .release ∧
    (seqs 1).flag (Reg.rollSeqt 0) 57 = true ∧ (seqs 1).fld (Reg.rollSeqt 0) 56 40 = 4 := by decide +kernel
/-- A posted operation, and a popped summary (R239, R242). -/
theorem test_extension_values : ((after (.retire 0 0) (seqs 0xFF3)).ctx 0 0).seqOps = [⟨3, 0xFF3⟩] ∧
    ((after (.xsqPop 0 0) (popping [⟨7, 1, 2, true⟩])).ctx 0 0).cur.xreg 5 = 7 := by decide +kernel

/-- xcrc.b, xcrc.h, xcrc.w of x7; xcrc.sand x8; xrn.go x8. -/
def iXcrc (f : Nat) : Nat := 0x0003802B + f * 2 ^ 12
def iXcrcSand : Nat := 0x0004302B
def iXrnGo : Nat := 0x0004402B
/-- x8 holds the token 0x2005, and the configuration names the last 32 bytes of the share. -/
def lane_ (w : Nat) : State :=
  core w (fun x => { x with cur := { x.cur with
    x := [(8, 0x2005)], csr := { x.cur.csr with cuffSrc := 4096 * 3072 - 32, cuffLen := 32, rnDst := 4096 * 3072 - 32, rnCnt := 8 } } })
def feed1 : CuffFeed := ⟨256, 32, 0x2005⟩
def fill1 : RnFill := ⟨0, 0, 0, 0, 256, 4, false, 0, 0x2006, 0⟩
def finishing : State := running [] {} { cur := { feed := some feed1, fill := some fill1 } }
theorem test_checks_and_fills : (core (iXcrc 0)).ccFetch 0 0 = some (.xcrc 0 7, 4) ∧ (core (iXcrc 1)).ccFetch 0 0 = some (.xcrc 1 7, 4) ∧
    (core (iXcrc 2)).ccFetch 0 0 = some (.xcrc 2 7, 4) ∧ ((core (iXcrc 2)).ctx 0 0).cur.feed = none ∧
    (lane_ iXcrcSand).ccFetch 0 0 = some (.xcrcSand 8, 4) ∧ coreTok (((lane_ iXcrcSand).ctx 0 0).cur.xreg 8) = some 0x2005 ∧
    (lane_ iXcrcSand).sandOk 0 0 (4096 * 3072 - 32) 32 = true ∧ (lane_ iXrnGo).ccFetch 0 0 = some (.xrnGo 8, 4) ∧
    ((lane_ iXrnGo).ctx 0 0).cur.csr.fillOk = true ∧ ((lane_ iXrnGo).ctx 0 0).holds 0 (4096 * 3072 - 32) 32 = false ∧
    ((lane_ iXcrcSand).ctx 0 0).holds 0 (4096 * 3072 - 32) 32 = false ∧ finishing.watched 0 0 = true ∧
    finishing.stuck (.core 0 0) = false ∧ (finishing.ctx 0 0).holds 0 256 16 = false ∧
    (finishing.ctx 0 0).holds 0 (sramAt 0 256 32 3) 8 = false ∧ finishing.countsFails 0 0 (failCounters 0 0x08 none) ∧
    (finishing.ctx 0 0).cur.feed = some feed1 ∧ (finishing.ctx 0 0).cur.fill = some fill1 ∧ (finishing.engine 0).sand.wf = true := by
  unfold State.countsFails; decide +kernel
/-- A feed and a fill of what the segment holds are program faults (R236, R273); a fill by sequence entry of one block. -/
def laneHeld (w : Nat) : State :=
  core w (fun x => { x with hranges := [⟨0, 4096 * 3072 - 4, 4⟩], cur := { x.cur with
    x := [(8, 0x2005)], csr := { x.cur.csr with cuffSrc := 4096 * 3072 - 32, cuffLen := 32, rnDst := 4096 * 3072 - 32, rnCnt := 8 } } })
def fillSeq : RnFill := ⟨0, 0, 0, 0, 256, 1, true, 512, 0x2006, 0⟩
def finishingSeq : State := running [] { sand := memOf [(512, [7])] } { cur := { fill := some fillSeq } }
theorem test_feeds_held : ((after (.xcrcSand 0 0) (laneHeld iXcrcSand)).ctx 0 0).fault = fHeld ∧
    ((after (.xrnGo 0 0) (laneHeld iXrnGo)).ctx 0 0).fault = fHeld ∧ (laneHeld iXrnGo).ccFetch 0 0 = some (.xrnGo 8, 4) ∧
    ((laneHeld iXrnGo).ctx 0 0).holds 0 (4096 * 3072 - 32) 32 = true ∧ (laneHeld iXcrcSand).ccFetch 0 0 = some (.xcrcSand 8, 4) ∧
    (finishingSeq.ctx 0 0).cur.fill = some fillSeq ∧ finishingSeq.watched 0 0 = true ∧ (finishingSeq.engine 0).sand.wf = true ∧
    (finishingSeq.ctx 0 0).holds 0 256 16 = false ∧ finishingSeq.stuck (.core 0 0) = false := by decide +kernel
/-- Reading XCUFFFIN0 while a feed runs holds the core (R252). -/
theorem test_csr_held : let s := core (0xCC3 * 2 ^ 20 + 0x22F3) (fun x => { x with cur := { x.cur with feed := some feed1 } })
    s.ccFetch 0 0 = some (.csr 2 5 0 0xCC3, 4) ∧ runningCsr 0xCC3 = true ∧ ((after (.csrAccess 0 0 false) s).ctx 0 0).ccWait = 4 := by decide +kernel
/-- The feed of 32 zero bytes ends with CRC-32C 0x8A9136AA (R251 to R253); a fill with key 0 and counter 0 gives the first words of
Philox4x32-10 (R246). -/
theorem test_feed_value : ((after (.cuffSandFeedComplete 0 0 .ok) finishing).ctx 0 0).cur.csr.finished = 0x8A9136AA ∧
    ((after (.cuffSandFeedComplete 0 0 .ok) finishing).ctx 0 0).tokens 2 = [0x2005] ∧
    (after (.randomFillComplete 0 0 .ok) finishing).sandBytes 0 0 256 4 = leBytes 4 0x6627E8D5 := by decide +kernel

/-- A slot word of a mode; slots of channel 0 that write and read 32 and 64 bytes of its first bank group (R291, R293). -/
def slotOf (mode : Nat) (write : Bool) : W32 := BitVec.ofNat 32 (2 ^ 31 + 0x60 + mode * 2 ^ 13 + write.toNat * 2 ^ 15)
def slotsRW : List W32 :=
  [slotOf 2 true] ++ List.replicate 7 (slotOf 2 false) ++ [slotOf 2 false] ++ List.replicate 7 (slotOf 2 false) ++
  [slotOf 1 true] ++ List.replicate 15 (slotOf 1 false) ++ [slotOf 1 false]
/-- Partition 0 with epoch slot 1 CURRENT, a sequence table at Loam 0 whose entry 0 has the state given, and a request in slot 2. -/
def rolling (st : Nat) (refs : Nat) : State :=
  { withRegs (running []) ([(Reg.epsStat 1, BitVec.ofNat 64 (3 + 256 * refs)), (Reg.detCtl, 1), (Reg.rollHead 0, 5)] ++ part0) with
    slots := [(0, slotsRW)], loam := memOf [(16, [BitVec.ofNat 8 st, 1]), (128, [9])], reqs := [(0, [⟨5, 2⟩])] }
def opOf (n : W32) : SeqOp := ⟨0, n⟩
theorem test_seqOps : (rolling 0 0).slotsOk 0 0 0 2 0 32 false = true ∧ (rolling 0 0).slotsOk 0 0 0 2 0 32 true = true ∧
    (rolling 0 0).slotsOk 0 0 0 2 128 64 false = true ∧ (rolling 0 0).slotsOk 0 0 0 2 0 64 true = true ∧
    (rolling 0 0).seqEntry 0 0 = 0 ∧ (rolling 0 0).epochMeets 0 64 = false ∧ (rolling 0 0).currentSlot 0 = some 1 ∧
    (rolling 0 0).nextRequest 0 = some (⟨5, 2⟩, 128) ∧ (rolling 0 0).leOf 0 = some 0 ∧ (rolling 0 0).globalWf := by
  unfold State.globalWf; decide +kernel
/-- CAPTURE, ADMIT, RETIRE and RELEASE of that entry, and each where its state refuses it (R338 to R341). -/
theorem test_seqOp_values :
    ((rolling 0 0).releaseOp 0 0 (opOf 2)).map (fun v => (v.loamBytes 16 2, v.fld (Reg.epsStat 1) 27 8)) = some ([2, 1], 1) ∧
    ((rolling 0 0).releaseOp 0 0 (opOf 1)).map (fun v => (v.loamBytes 8 1, v.reg (Reg.rollHead 0), (Tab.get [] v.reqs 0).length)) = some ([9], 6, 0) ∧
    ((rolling 1 1).releaseOp 0 0 (opOf 0x23)).map (fun v => (v.loamBytes 16 3, v.fld (Reg.epsStat 1) 27 8)) = some ([3, 1, 2], 0) ∧
    ((rolling 2 1).releaseOp 0 0 (opOf 4)).map (fun v => (v.loamBytes 16 1, v.fld (Reg.epsStat 1) 27 8)) = some ([0], 0) ∧
    ((rolling 3 1).releaseOp 0 0 (opOf 4)).map (fun v => (v.loamBytes 16 1, v.fld (Reg.epsStat 1) 27 8)) = some ([0], 1) ∧
    [1, 2, 4].map (fun n => ((rolling 1 0).releaseOp 0 0 (opOf n)).map (fun v => (v.reg (Reg.rollOperr 0)).toNat)) = [some 1, some 1, some 1] ∧
    ((rolling 0 0).releaseOp 0 0 (opOf 0x23)).map (fun v => (v.reg (Reg.rollOperr 0)).toNat) = some 1 := by decide +kernel
/-- A commit with one digest for a log of 128 entries at Loam 0, which has room; and one whose entry finds no slot (R61 to R64). -/
def logging (slots : List W32) : State :=
  { withRegs (running [] {} { commit := some ⟨none, none, 64⟩, run := 2, cur := { stepNo := 5 }
                              digs := [{ ident := 7, bucket := 0, sum := 9, count := 1, nonfinite := false }] })
      ([(Reg.dglCtl 0, 1), (Reg.dglSize 0, 7), (Reg.dglHead 0, 128)] ++ [(Reg.dglTail 0, 128)] ++ part0) with slots := [(0, slots)] }
theorem test_digestLog : (logging slotsRW).logOn 0 = true ∧ (logging slotsRW).slotsOk 0 0 0 2 0 32 true = true ∧
    (logging slotsRW).epochMeets 0 32 = false ∧ (logging slotsRW).commits 0 0 = true ∧ (logging slotsRW).globalWf ∧
    ((logging slotsRW).digestLog 0 0).map (fun v => (v.reg (Reg.dglHead 0)).toNat) = some 129 ∧
    ((logging slotsRW).digestLog 0 0).map (fun v => v.loamBytes 0 32) = some (logEntry 5 true 0 { ident := 7, bucket := 0, sum := 9, count := 1, nonfinite := false }) ∧
    (logging []).digestLog 0 0 = none ∧ ((after (.segmentCommit 0 0 .ok .ok) (logging [])).ctx 0 0).fault = fSlot := by
  unfold State.globalWf; decide +kernel
/-- What a commit of a passing replay releases: a held completion, the non-finite count, and the record of a transient fault (R167,
R447, R519). -/
def releasing : State :=
  { running [] {} { commit := some ⟨none, none, 64⟩, run := 2, rep := .running, engFails := 1, hostPopped := [.ack 0 3], nfc := 4 } with
    rings := [(0, { fetched := [{ idx := 3, raw := [] }] })] }
theorem test_commit_releases : releasing.commits 0 0 = true ∧ (releasing.ctx 0 0).shadow = false ∧ (releasing.ctx 0 0).taken = [] ∧ releasing.audit = none ∧
    releasing.commitList 0 0 ⟨none, none, 64⟩ = .inr [] ∧ (Tab.get {} (after (.segmentCommit 0 0 .ok .ok) releasing).rings 0).fetched.map (·.status) = [some (0, 0)] ∧
    ((after (.segmentCommit 0 0 .ok .ok) releasing).reg (Reg.redNfcnt 0 0)).toNat = 4 ∧
    ((after (.segmentCommit 0 0 .ok .ok) releasing).reg Reg.rplTransient).toNat = 1 ∧
    (Tab.get [] (after (.segmentCommit 0 0 .ok .ok) releasing).recBuf blkReplay).map (fun r => (r.cls, r.run)) = [(0x17, 2)] := by decide +kernel

/-! ## Replay, migration and audit -/

/-- A context that restores after an array fault: a stored word to undo, a popped NET token, a completed transfer. -/
def restoring : State :=
  running [] {} { rep := .restoring, repFault := some ⟨0x02, none⟩, journal := [(0, 5)], popped := [(3, [0x3001])], queue := [(3, [0x3002])],
                  outDone := [0], saved := { pc := 64, stepNo := 9 }, cur := { stepNo := 12 } }
theorem test_restoration : (restoring.ctx 0 0).rep = .restoring ∧ (restoring.engine 0).mLoad = none ∧ restoring.unconfirmed 0 0 = false ∧
    (restoring.ctx 0 0).saved.block = none ∧ (restoring.ctx 0 0).run = 1 ∧
    ((after (.restorationComplete 0 0) restoring).ctx 0 0).tokens 3 = [0x3001, 0x3002] ∧
    ((after (.restorationComplete 0 0) restoring).ctx 0 0).cur.stepNo = 9 ∧ (restoring.ctx 0 0).xfers = [] ∧
    (restoring.ctx 0 0).repFault = some ⟨0x02, none⟩ ∧ restoring.audit = none ∧ (restoring.ctx 0 0).shadow = false ∧
    (restoring.ctx 0 0).engFails = 0 ∧ ((after (.restorationComplete 0 0) restoring).ctx 0 0).engFails = 1 := by decide +kernel
/-- A fault of the class given, of the addresses given, in context 0 with that history; the spares with these registers. -/
def restoringAt (cls : Nat) (x : Ctx) (rs : List (Nat × W64) := []) (addr : Option Nat := none) : State :=
  withRegs (running [] {} { x with rep := .restoring, repFault := some ⟨cls, addr⟩ }) rs
/-- A second run that fails takes the die's spare, or leaves the engine suspect where there is none (R519). -/
theorem test_second_failure : (restoringAt 2 { engFails := 1 }).spareFor 0 = some 24 ∧
    ((after (.restorationComplete 0 0) (restoringAt 2 { engFails := 1 })).engine 0).migrate = some 24 ∧
    (restoringAt 2 { engFails := 1 } [(Reg.spareSet, 0)]).spareFor 0 = none ∧
    (restoringAt 2 { engFails := 1 } [(Reg.spareSet, 0)]).fld (Reg.engHealth 0) 5 3 = 0 ∧
    (after (.restorationComplete 0 0) (restoringAt 2 { engFails := 1 } [(Reg.spareSet, 0)])).fld (Reg.engHealth 0) 2 0 = 2 := by decide +kernel
/-- A failure on the spare as well ends the context and clears the engine that it left, which is a spare again (R513, R522). -/
theorem test_failure_on_spare : ((restoringAt 2 { engFails := 1, migFrom := some 1 }).ctx 0 0).migFrom = some 1 ∧
    ((restoringAt 2 { engFails := 1, migFrom := some 1 }).reg Reg.rplUnrecov).toNat + 1 < 2 ^ 64 - 1 ∧
    ((after (.restorationComplete 0 0) (restoringAt 2 { engFails := 1, migFrom := some 1 })).ctx 0 0).st = .halted ∧
    (after (.restorationComplete 0 0) (restoringAt 2 { engFails := 1, migFrom := some 1 })).fld (Reg.engHealth 1) 2 0 = 1 ∧
    (after (.restorationComplete 0 0) (restoringAt 2 { engFails := 1, migFrom := some 1 } [(Reg.engHealth 1, 2)])).fld (Reg.engHealth 1) 2 0 = 3
    := by decide +kernel
/-- A memory fault at one address for the third time marks the row for repair; for the fourth it ends the context (R512). -/
theorem test_same_address : 2 * 2 ^ 44 / 2 ^ 44 = 2 ∧
    (after (.restorationComplete 0 0) (restoringAt 10 { sameAddr := 2 } [] (some (2 * 2 ^ 44)))).repair =
      [(restoringAt 10 {}).hbmRow 0] ∧
    ((after (.restorationComplete 0 0) (restoringAt 10 { sameAddr := 3 } [] (some (2 * 2 ^ 44)))).ctx 0 0).st = .halted ∧
    ((after (.restorationComplete 0 0) (restoringAt 10 { sameAddr := 1, savedX := [] })).ctx 0 0).rep = .waiting := by decide +kernel
/-- Its first group issues. -/
def rerun : State := running [] {} { rep := .waiting, run := 2 }
theorem test_replayFirstIssue : (rerun.ctx 0 0).rep = .waiting ∧ rerun.holds? 0 0 = true ∧ (rerun.engine 0).migrate = none ∧
    (rerun.reg Reg.rplRuns).toNat + 1 < 2 ^ 64 - 1 ∧ ((after (.replayFirstIssue 0 0) rerun).reg Reg.rplRuns) = 1 ∧
    (rerun.ctx 0 0).dbgHalt = false ∧ (rerun.engine 0).reloading = false := by decide +kernel
/-- A stalled partition with nothing left to wait for; an engine that migrates to spare 24. -/
def stalled0 : State := running [] {} { stalled := true, stalls := true }
def migrating : State := running [] { migrate := some 24 } { stalled := true }
/-- A partition of one context that stalls, and the shadow of it on spare 24. -/
def stalledShadow : State :=
  { State.reset with audit := some { le := 0, p := 0, c := 0, spare := 24 }
                     eng := [(0, { ctx := [(0, { st := .ready, stalled := true, stalls := true })] }),
                             (24, { ctx := [(0, { st := .ready, stalled := true, shadow := true })] })] }
theorem test_stall_and_migration : stalled0.residents 0 = [(0, 0)] ∧ (stalled0.ctx 0 0).rep = .idle ∧ (stalled0.engine 0).migrate = none ∧
    (stalled0.ctx 0 0).going = false ∧ (migrating.engine 0).migrate = some 24 ∧ migrating.leOf 0 = some 0 ∧
    (∀ c, c < 4 → ((migrating.engine 0).at c).still = true) ∧
    stalledShadow.residents 0 = [(0, 0)] ∧ (stalledShadow.ctx 24 0).shadow = true ∧
    ((after (.partitionStallEnd 0) stalledShadow).ctx 24 0).stalled = false ∧
    ((after (.partitionStallEnd 0) stalled0).ctx 0 0).stalled = false ∧
    (after (.migrationReentry 0) migrating).fld (Reg.leMap 0) 5 0 = 24 := by decide +kernel

/-- Engine 0 is probed, at rung r. -/
def probed (r : Nat) : State := withRegs (running [] { probeRung := r }) [(Reg.engHealth 0, 3)]
/-- Audits on, in the first place of engine 0 or in the last; one whose original has committed. -/
def audits : State := withRegs (running []) [(Reg.auditCtl, 3)]
def auditRun0 : AuditRun := { le := 0, p := 0, c := 0, spare := 24, begun := true, orig := some ([], 77, 5), shade := some ([], 77) }
def auditing : State := { audits with audit := some auditRun0 }
theorem test_probe_and_audit : (probed 0).fld (Reg.engHealth 0) 2 0 = 3 ∧ (probed 2).fld (Reg.engHealth 0) 2 0 = 3 ∧
    ((probed 3).engine 0).probeRung + 1 = 4 ∧ audits.spareList = [24, 25, 50, 51] ∧ audits.flag Reg.auditCtl 0 = true ∧ audits.audit = none ∧
    audits.auditFrom (audits.fld Reg.auditStat 7 2) = some (0, 0, 0) ∧ auditing.audit = some auditRun0 ∧
    (auditing.reg Reg.auditRuns).toNat + 1 < 2 ^ 64 - 1 ∧ auditing.flag Reg.auditStat 10 = false ∧
    (probed 0).gaunt.restarting = false ∧ (Tab.get [] auditing.recBuf blkReplay).length < 8 ∧ (auditing.reg Reg.auditMismatch).toNat + 1 < 2 ^ 64 - 1 ∧
    (after (.engineProbe 0 false) (probed 3)).fld (Reg.engHealth 0) 2 0 = 4 ∧
    (after (.auditCompare 0) auditing).reg Reg.auditRuns = 1 ∧
    (after (.auditCompare 1) auditing).reg Reg.auditMismatch = 1 := by decide +kernel
/-- The accumulators are compared too; a second difference of the engine makes it suspect or, without contexts, probed (R529). -/
def auditBad0 (e : Engine) : State :=
  { audits with auditBad := [0], eng := [(0, e)]
                audit := some { auditRun0 with orig := some ([⟨1, 0, 5, 1, false⟩], 77, 5), shade := some ([⟨1, 0, 6, 1, false⟩], 77) } }
theorem test_audit_twice : digsAgree [⟨1, 0, 5, 1, false⟩] [⟨1, 0, 6, 1, false⟩] = false ∧
    (0 : Nat) ∉ auditing.auditBad ∧ (after (.auditCompare 1) auditing).auditBad = [0] ∧
    (auditBad0 {}).fld (Reg.engHealth 0) 2 0 ≠ 4 ∧ (auditBad0 {}).flag Reg.spareSet 0 = false ∧
    (after (.auditCompare 0) (auditBad0 {})).fld (Reg.engHealth 0) 2 0 = 3 ∧
    (after (.auditCompare 0) (auditBad0 { ctx := [(0, { st := .ready })] })).fld (Reg.engHealth 0) 2 0 = 2 ∧
    ((after (.auditCompare 0) (auditBad0 { ctx := [(0, { st := .ready })] })).engine 0).migrate = some 24 := by decide +kernel
/-- The shadow of that audit stands at its commit; a restart keeps a probe waiting (R528, R29). -/
def shadowAt : State :=
  { auditing with eng := [(24, { holder := some 0, ctx := [(0, { st := .running, shadow := true, audit := 9, commit := some ⟨none, none, 64⟩ })] })] }
theorem test_shadow : (shadowAt.ctx 24 0).shadow = true ∧ (shadowAt.ctx 24 0).commit.isSome = true ∧ shadowAt.commits 24 0 = true ∧
    ((after (.segmentCommit 24 0 .ok .ok) shadowAt).audit.map (·.shade)) = some (some ([], 9)) ∧
    (shadowAt.dropAudit 0 0).ctx 24 0 = {} ∧ (shadowAt.dropAudit 0 0).audit = none ∧
    ({ probed 0 with gaunt := { restarting := true } }).gaunt.restarting = true := by decide +kernel

/-! ## Periods, slices and partitions -/

/-- A boundary with a debug halt requested; a partition that resets; a CXL sweep of which n pages are left. -/
def boundary : State := running [] {} { dbgReq := true }
def resetting0 : State := { running [] with parts := [(0, { clearing := some .reset })] }
def sweeping (n : Nat) : State := { State.reset with rot := [(0, ⟨0, 0, 8, 8 - n⟩)], keys := [(0, [1, 2]), (1, [3, 4])] }
theorem test_periods : boundary.rot = [] ∧ boundary.flag Reg.engsetRst 53 = false ∧ (boundary.reg Reg.loamCor).toNat + 1 < 2 ^ 64 - 1 ∧
    (boundary.reg Reg.clayCor).toNat + 1 < 2 ^ 64 - 1 ∧ (resetting0.partx 0).clearing = some .reset ∧ resetting0.residents 0 = [(0, 0)] ∧
    (sweeping 1).rot.find? (fun kv => kv.1 == 0) = some (0, ⟨0, 0, 8, 7⟩) ∧ (Rot.left ⟨0, 0, 8, 8⟩) = 0 ∧ (Rot.left ⟨0, 0, 8, 7⟩) = 1 ∧
    (boundary.debugStops.ctx 0 0).dbgHalt = true ∧ (boundary.scrubbed .corrected true 0).reg Reg.clayCor = 1 ∧
    ((withRegs (sweeping 8) [(Reg.shaleMap 0, 5)]).shaleAt 4096 = .cxl true 4096) := by decide +kernel
/-- The first CXL page of a partition whose Shale granule 1 is its first (R477). -/
theorem test_cxlPage : (withRegs (sweeping 8) [(Reg.shaleMap 0, 0x2005), (Reg.shaleMap 1, 5)]).shaleAt
    ((withRegs (sweeping 8) [(Reg.shaleMap 0, 0x2005), (Reg.shaleMap 1, 5)]).cxlPage 0 0) = .cxl true 0 := by decide +kernel
/-- A debug halt that ends at the boundary, by a RESUME and by a STEP of 12 cc (R496). -/
def going (n : Nat) : State := running [] {} { dbgHalt := true, dbgGo := some n }
/-- Partition 0 owns Clay and its keys, and its rotation serves channel sectors. -/
def sweepClay : State := { running [] with rot := [(0, ⟨0, 4, 0, 0⟩)], keys := [(0, [1, 2]), (1, [3, 4])] }
theorem test_boundary_more : ((going 0).debugStops.ctx 0 0).dbgHalt = false ∧
    ((going 12).debugStops.ctx 0 0).dbgSteps = 12 ∧ (boundary.debugStops.ctx 0 0).dbgPhase = 0 ∧ ((resetting0.periodStops 0).ctx 0 0).going = true ∧ sweepClay.keyless 0 = false ∧
    sweepClay.clayGen.wf = true ∧ sweepClay.rot = [(0, ⟨0, 4, 0, 0⟩)] ∧
    (∀ j, j < 8 → (boundary.partx j).clearing = none) := by decide +kernel
/-- No context stalls and no engine migrates there. -/
theorem test_boundary_all : ∀ p, p < 52 → ∀ c, c < 4 → (boundary.ctx p c).stalls = false ∧ (boundary.engine p).migrate = none := by
  decide +kernel

/-- Slicing with period 1 ms, and a trigger of slice 0 of engine 0 at 100 µs for context 1; context 0 runs. -/
def sliced : State := withRegs
  { State.reset with eng := [(0, { holder := some 0, ctx := [(0, { st := .running }), (1, { st := .ready })] })] }
  [(Reg.sliceCfg, 1 + 2 * 1000), (Reg.sliceEnt 0 0, 1 + 2 + 2 ^ 5 * 100)]
/-- The switch to it has been triggered. -/
def switch0 : Switch := ⟨0, 100000, 100000, 0, false⟩
def switching : State := { sliced with eng := [(0, { sliced.engine 0 with switch := some switch0 })] }
def entering : State := { State.reset with eng := [(0, { ctx := [(3, { st := .ready })] })] }
theorem test_slices : sliced.slicing = true ∧ sliced.slicePeriod = 1000000 ∧ sliced.sched.a = 0 ∧ sliced.sched.d = 0 ∧
    (sliced.at_ 100000).sliceDue 0 0 100000 = true ∧ (sliced.at_ 99999).sliceDue 0 0 99999 = false ∧
    (switching.engine 0).switch = some switch0 ∧ switching.runsOut 0 switch0 = false ∧ (switching.engine 0).holder = some 0 ∧
    seIdle (switching.sliceEnt 0 0) = false ∧ seCtx (switching.sliceEnt 0 0) = 1 ∧ (switching.ctx 0 1).st = .ready ∧
    (entering.engine 0).switch = none ∧ entering.slicing = false ∧ (entering.engine 0).holder = none ∧ (entering.ctx 0 3).st = .ready ∧
    entering.resetting 0 = false ∧ (entering.engine 0).idleUnits = true ∧ (entering.ctx 0 3).cur.block = none ∧
    switching.replayKeeps 0 = false ∧ switching.sliceRuns 0 0 = true ∧
    ((after (.sliceTrigger 0 100000) sliced).engine 0).switch = some switch0 ∧
    ((after (.switchDeadline 0) switching).engine 0).holder = none ∧ ((after (.contextEntry 0 3 5) entering).ctx 0 3).st = .running := by
  decide +kernel

/-- A switch that has stopped, whose context enters; one that the slice's IDLE ends; a replay puts a deadline off. -/
def stopped : State := { sliced with eng := [(0, { holder := none, switch := some { switch0 with stopped := true }
                                                   ctx := [(0, { st := .waiting }), (1, { st := .ready })] })] }
def replaying : State := { sliced with eng := [(0, { holder := some 0, switch := some switch0
                                                     ctx := [(0, { st := .running, rep := .waiting }), (1, { st := .ready })] })] }
def freeNext : State := { sliced with eng := [(0, { holder := some 0, switch := some switch0, ctx := [(0, { st := .running })] })] }
theorem test_slice_cases : (stopped.engine 0).switch = some { switch0 with stopped := true } ∧ seCtx (stopped.sliceEnt 0 0) = 1 ∧
    (stopped.ctx 0 1).going = false ∧ stopped.resetting 0 = false ∧ (stopped.engine 0).idleUnits = true ∧
    ((after (.contextEntry 0 1 100000) stopped).engine 0).holder = some 1 ∧ ((after (.contextEntry 0 1 100000) stopped).engine 0).slice = some 0 ∧
    replaying.replayKeeps 0 = true ∧ ((after (.switchDeadline 0) replaying).engine 0).holder = some 0 ∧
    freeNext.sliceRuns 0 0 = false ∧ ((after (.switchDeadline 0) freeNext).engine 0).switch = none ∧
    ((after (.switchDeadline 0) freeNext).engine 0).slice = some 0 := by decide +kernel

/-- A context whose recorded block is not the resident one enters, and the load of the block begins (R415). -/
def entering2 : State :=
  { State.reset with eng := [(0, { ctx := [(3, { st := .ready, cur := { block := some ⟨4096, 2⟩ } })] })] }
theorem test_entry_reloads : (entering2.ctx 0 3).st = .ready ∧ (entering2.ctx 0 3).going = false ∧ entering2.resetting 0 = false ∧
    (entering2.engine 0).idleUnits = true ∧ (entering2.engine 0).switch = none ∧ entering2.slicing = false ∧
    (entering2.engine 0).holder = none ∧ (entering2.ctx 0 3).cur.block = some ⟨4096, 2⟩ ∧ (entering2.ctx 0 3).mPend = none ∧
    (entering2.engine 0).blockIs 3 ⟨4096, 2⟩ = false ∧ ((after (.contextEntry 0 3 5) entering2).engine 0).reloading = true := by
  decide +kernel
/-- The host link is up and the start has ended. -/
def up (rs : List (Nat × W64) := []) : State :=
  withRegs { State.reset with boot := { hostDown := false } } ((Reg.bootStat, 8) :: rs)
/-- A clearing of partition 0, which owns granules 1 to 2 of Loam and holds a descriptor of ring 0. -/
def clearing (k : ClearKind) : State :=
  { up [(Reg.partCtl 0, 5), (Reg.partMem 0, 0x801), (Reg.partRing 0, 0x1000), (Reg.partTilth 0, 0x100000)] with
    parts := [(0, { clearing := some k })], loam := memOf [(2 ^ 30 - 1, [1, 2]), (3 * 2 ^ 30 - 1, [3, 4])]
    eng := [(0, { ctx := [(0, { st := .ready })] })], send := [(0, { sstate := 1 })], rings := [(0, { fetched := [{ idx := 0, raw := [] }] })] }
theorem test_partitions : (up.takesWrite (Reg.partCtl 7) 4 1) ∧ up.partOn 7 = false ∧
    ((up [(Reg.partCtl 0, 1)]).takesWrite (Reg.partCtl 0) 4 0) ∧ (up [(Reg.partCtl 0, 1)]).partOn 0 = true ∧
    ((up [(Reg.partCtl 0, 1)]).takesWrite (Reg.partCtl 0) 4 3) ∧ ((clearing .enable).partx 0).clearing = some .enable ∧
    ((clearing .reset).partx 0).clearing = some .reset ∧ (clearing .reset).residents 0 = [(0, 0)] ∧ ((clearing .reset).ctx 0 0).xfers = [] ∧
    ((clearing .reset).engine 0).mLoad = none ∧ ((clearing .reset).engine 0).flights = [] := by
  unfold State.takesWrite; decide +kernel
/-- The zeroed granules read 0 and the bytes beside them stand; the reset frees its context (R425, R479). -/
theorem test_zeroing : (after (.loamZeroingComplete 0) (clearing .enable)).loamBytes (2 ^ 30 - 1) 2 = [1, 0] ∧
    (after (.loamZeroingComplete 0) (clearing .enable)).loamBytes (3 * 2 ^ 30 - 1) 2 = [0, 4] ∧
    (after (.partitionResetComplete 0) (clearing .reset)).ctx 0 0 = {} ∧
    ({ clearing .enable with regs := (clearing .enable).regs.set (Reg.epsStat 2) 2 }).epState 2 = 2 ∧
    (after (.loamZeroingComplete 0) { clearing .enable with regs := (clearing .enable).regs.set (Reg.epsStat 2) 2 }).epState 2 = 0 := by
  decide +kernel

/-! ## Setup registers -/

/-- A wide register (R592) and a narrow one; the write of a plain register, and one that is refused. -/
theorem test_register_access : up.boot.hostDown = false ∧
    (∃ r ∈ regAt (Reg.epsId 0), r.row.wide = true ∧ r.byte = 0) ∧ (∃ r ∈ regAt (Reg.epsId 0 + 4), r.row.wide = true ∧ r.byte = 4) ∧
    (∃ r ∈ regAt (Reg.hvpCfg), r.row.wide = false ∧ r.byte = 0) ∧ windowOf Reg.hvpCfg = none ∧
    up.pathRefused .host Reg.hvpCfg (gauntletRegs.contains Reg.hvpCfg) = false ∧ up.takesWrite (Reg.tokwd 51 3) 4 0x50003 ∧
    (∃ r ∈ regAt Reg.auditCtl, up.regRefused false r 1 = true) ∧ windowOf Reg.auditCtl = none ∧
    (after (.registerWrite (.func 0) (BitVec.ofNat 26 (Reg.tokwd 51 3)) 4 0x50003) up).reg (Reg.tokwd 51 3) = 0x50003 := by
  unfold State.takesWrite; decide +kernel
/-- The MSI-X tables of PF0 and of an enabled VF, which reads its last dword back (R427). -/
def vfUp : State := { up with parts := [(7, { vf := true })] }
theorem test_msix : (vfUp.partx 7).vf = true ∧ up.msixPend = [] ∧ up.pathRefused .host (0x1E000 + 4 * 2047) false = false ∧
    (after (.halfReadLatch 8 1020) (after (.registerWrite (.func 8) 1020 4 0xFFFFFFFF) vfUp)).out = [.readData 8 1] ∧
    (after (.registerWrite (.func 8) 1020 4 1) up).msixTab = [] ∧ (up [(Reg.engHealth 51, 5)]).fld (Reg.engHealth 51) 2 0 = 5 := by decide +kernel
/-- The latch of R592. -/
def latched : State := { up [(Reg.epsId 0, 0x1122334455667788)] with latch := [(Reg.epsId 0, 7)] }
theorem test_half_reads : (after (.halfReadLatch 0 (BitVec.ofNat 26 (Reg.epsId 0))) latched).out = [.readData 0 0x55667788] ∧
    (after (.halfReadLatch 0 (BitVec.ofNat 26 (Reg.epsId 0))) latched).latch = [(Reg.epsId 0, 0x11223344)] ∧
    (after (.halfReadLatch 0 (BitVec.ofNat 26 (Reg.epsId 0 + 4))) latched).out = [.readData 0 7] := by decide +kernel

/-- What the write path refuses: a write before READY, one of another size or to the middle of a register, and writes of the
mailbox and the MSI-X table that are out of shape; and what it ignores (R21, R543, R590, R591, R596). -/
def starting : State := { up with regs := up.regs.set Reg.bootStat 4 }
theorem test_write_path : starting.pathRefused .host Reg.hvpCfg (gauntletRegs.contains Reg.hvpCfg) = true ∧
    (∃ r ∈ regAt (Reg.sliceBase + 4), r.byte = 4 ∧ r.row.size = 8) ∧ regAt 0x1CFF8 = none ∧ regAt 0xC1000 = none ∧
    (after (.registerWrite (.func 0) (BitVec.ofNat 26 Reg.hvpCfg) 4 1) starting).reg Reg.hvpCfg = 0 ∧
    (Tab.get [] (after (.registerWrite (.func 0) (BitVec.ofNat 26 Reg.hvpCfg) 4 1) starting).recBuf blkSetup).length = 1 ∧
    (Tab.get [] (after (.registerWrite (.func 0) (BitVec.ofNat 26 Reg.hvpCfg) 8 1) up).recBuf blkSetup).length = 1 ∧
    (after (.registerWrite (.func 0) 0x1CFF8 4 1) up).recBuf = [] ∧
    (after (.registerWrite (.func 0) 0xC1FFC 8 1) up).gaunt.mbxReq = [] ∧
    (after (.registerWrite (.func 0) 0xC1FF9 4 1) up).gaunt.mbxReq = [(0xFF9, 1)] ∧
    (Tab.get [] (after (.registerWrite (.func 0) 0xC2002 4 1) up).recBuf blkSetup).length = 1 ∧
    (after (.registerWrite (.func 0) 0xC2000 4 1) up).recBuf = [] ∧
    (Tab.get [] (after (.registerWrite (.func 0) 0x1E002 4 1) up).recBuf blkSetup).length = 1 ∧
    starting.fld Reg.bootStat 3 0 < 7 ∧
    (after (.registerWrite (.func 8) 1020 4 1) { starting with parts := [(7, { vf := true })] }).msixTab = [] := by decide +kernel

theorem test_det_and_selftest : up.takesWrite Reg.detCtl 4 (false.toNat + 2 * false.toNat) ∧ up.takesWrite Reg.detCtl 4 (up.strict.toNat + 2) ∧
    up.takesWrite Reg.npstCtl 4 (1 + 2 * true.toNat) ∧ (up [(Reg.npstStat, 1)]).takesWrite Reg.npstCtl 4 4 ∧
    (up [(Reg.npstStat, 1)]).fld Reg.npstCtl 1 1 = 0 ∧ (up [(Reg.npstStat, 1)]).flag Reg.npstStat 0 = true ∧
    (up [(Reg.npstStat, 1)]).libStaged = none ∧ up.takesWrite (Reg.vecInj 51) 8 5 ∧ up.takesWrite (Reg.arrInj 51) 8 0x20001 ∧
    (after (.detCtlStrictWrite false false) up).strict = false ∧ (after (.npstStart true false) up).npstEng = 0xFFFFFFFFFFFFF ∧
    (after (.selfTestEnd false []) (up [(Reg.npstStat, 1)])).fld Reg.npstStat 3 0 = 2 ∧
    (after (.selfTestEnd false [⟨3, 7, 0⟩]) { up [(Reg.npstStat, 1)] with npstEng := 8 }).fld Reg.npstStat 3 0 = 6 := by
  unfold State.takesWrite; decide +kernel

/-- A slot-table swap, a switch-table swap and a reset of engine 3 that are due. -/
def slotSwap : State := { up [(Reg.slotCtl, 2)] with slots := [(1024, [0x80000100])] }
def swSwap : State := up [(Reg.swCtl, 2)]
def engset3 : State := { up [(Reg.engsetRst, 2 ^ 53 + 8)] with engSet := 8, eng := [(3, { vreg := [(1, 7)] })] }
def onFor8 : State := { up [(Reg.engsetRst, 8)] with boot := { hostDown := false, powered := true } }
theorem test_swaps_and_engset : up.takesWrite Reg.slotCtl 4 1 ∧ slotSwap.flag Reg.slotCtl 1 = true ∧
    up.takesWrite Reg.swCtl 4 (1 + 8 * (5 : BitVec 3).toNat) ∧ swSwap.flag Reg.swCtl 1 = true ∧ swSwap.swapTime ≤ (2 ^ 40 : W64).toNat ∧
    (up [(Reg.engsetRst, 8)]).takesWrite Reg.engsetRst 8 ((8 : BitVec 52).toNat + 2 ^ 52) ∧ up.audit = none ∧
    engset3.flag Reg.engsetRst 53 = true ∧ (after .slotTableSwap slotSwap).slotCopy = 1 - slotSwap.slotCopy ∧
    ((after (.engsetResetComplete 0) engset3).engine 3) = {} ∧
    onFor8.boot.powered = true ∧ onFor8.gaunt.restarting = false ∧ onFor8.pathRefused .gauntlet Reg.engsetRst false = false ∧
    onFor8.engsetRefused ((8 : BitVec 52).toNat + 2 ^ 52) = false ∧ (after (.engsetReset .gauntlet 8) onFor8).engSet = 8 ∧
    (after (.engsetResetComplete 8) engset3).flag Reg.engsetRst 54 = true ∧
    ((after (.engsetResetComplete 0) { engset3 with eng := [(3, { kept := some ([], []) })] }).engine 3).kept = some ([], []) := by
  unfold State.takesWrite; decide +kernel
theorem test_engset_all : (∀ p, ((up [(Reg.engsetRst, 8)]).engine p).migrate = none) ∧ ∀ p c, (engset3.ctx p c).resident = false := by
  refine ⟨fun _ => rfl, fun p c => ?_⟩
  by_cases h : p = 3
  · subst h; rfl
  · have : engset3.engine p = {} := by simp [engset3, State.engine, Tab.get, Ne.symm h]
    unfold State.ctx; rw [this]; rfl

/-! ## Host rings -/

/-- A command's descriptor that has started. -/
def cmdAt (idx : Nat) (fs : List (Nat × Nat)) : Desc := { idx := idx, raw := bytesOf 64 fs, started := true }
/-- Ring 0 of partition 0, enabled with all permissions and 64 entries, a host window of 1 TiB, and commands that have
started. -/
def ring0 (ds : List Desc) : Ring := { cfg := 0x37, cqb := 0x10000, fetched := ds, tail := 9 }
def hosted (ds : List Desc) (rs : List (Nat × W64) := []) : State :=
  { up (rs ++ (Reg.hdmaLim 0, 0xFFFFFFF007) :: part0) with rings := [(0, ring0 ds)] }
def cmd0 (fs : List (Nat × Nat)) : State := hosted [cmdAt 0 fs]
theorem test_doorbells : (hosted []).doorbellRing 0 0 = some 0 ∧ ((hosted []).ring 0).on = true ∧ ((hosted []).ring 0).size = 64 ∧
    consumed 64 3 2 2 = some 1 ∧ consumed 64 3 2 4 = none ∧ consumed 64 0 64 0 = some 64 ∧
    (let u := { hosted [] with rings := [(0, { ring0 [] with cqtail := 3, unread := 2 })] }
     (u.ring 0).cqtail = 3 ∧ ((after (.completionDoorbell 0 0 true 2) u).ring 0).unread = 1 ∧
     ((after (.completionDoorbell 0 0 true 4) u).ring 0).err = true) ∧
    ((after (.submissionDoorbell 0 0 true 63) (hosted [])).ring 0).tail = 63 ∧
    ((after (.submissionDoorbell 0 0 false 63) (hosted [])).ring 0).tail = 9 ∧ (hosted []).doorbellRing 0 4104 = none ∧
    ((after (.submissionDoorbell 0 0 true 64) (hosted [])).ring 0).err = true := by decide +kernel
/-- An event ring with two entries of 64 written; a ring that may be enabled, or disabled. -/
def evUp : State := { up [(Reg.evrCfg 8, 13), (Reg.evrStat 8, 3)] with ev := [(8, { used := 2 })] }
def ringOff : State := { hosted [] with rings := [(0, { sqb := 0x1000, cqb := 0x2000 })] }
theorem test_ring_enables : evUp.doorbellEvent 0 4104 = some 8 ∧ evUp.flag (Reg.evrCfg 8) 0 = true ∧ evUp.fld (Reg.evrCfg 8) 5 1 = 6 ∧
    consumed 64 3 2 3 = some 2 ∧ ringOff.takesWrite Reg.ringCfg 8 0x31 ∧ (hosted []).takesWrite Reg.ringCfg 8 0x30 ∧
    (up [(Reg.hdmaLim 255, 0xFFFFFFF047)]).takesWrite (Reg.evrCfg 8) 4 13 ∧
    ((after (.ringEnable 0x31) ringOff).ring 0).phase = true ∧ ((after (.ringDisable 0x30) (hosted [])).ring 0).on = false ∧
    (Tab.get {} (after (.eventRingDoorbell 0 4104 true 3) evUp).ev 8).used = 0 ∧
    (after (.eventRingEnable 8 13) (up [(Reg.hdmaLim 255, 0xFFFFFFF047)])).reg (Reg.evrStat 8) = 0x10000 := by
  unfold State.takesWrite; decide +kernel

/-- A NOP fetched and not started, one whose reserved byte 8 is set, and one that has completed. -/
def nop0 : Desc := { idx := 0, raw := bytesOf 64 [(0, 1)] }
def nop8 : Desc := { idx := 0, raw := bytesOf 64 [(0, 1), (8, 1)] }
def nopDone : Desc := { cmdAt 0 [(0, 1), (4, 77)] with ran := true, status := some (0, 0) }
/-- A ring whose interrupt count of one is reached, its vector 5 unmasked. -/
def interrupting : State :=
  { up with rings := [(9, { cfg := 0x20537, since := 1 })], msixTab := [(23, 0)] }
theorem test_ring_order : (hosted []).ringWindow 0 false (64 * ((hosted []).ring 0).head) 64 = true ∧
    ((hosted [nop0]).ring 0).startable = some nop0 ∧ ((hosted [nop0]).ring 0).headerFails nop0 = none ∧
    ((hosted [nop8]).ring 0).startable = some nop8 ∧ ((hosted [nop8]).ring 0).headerFails nop8 = some (1, 8) ∧
    (cmd0 [(0, 1)]).cmd 0 0x01 = some (cmdAt 0 [(0, 1)]) ∧ (hosted [nopDone]).ringWindow 0 true 0x10000 16 = true ∧
    interrupting.ringPart 9 = none ∧ interrupting.msixMasked 0 5 = false ∧ bits 0x20537 24 17 = 1 ∧
    ((after (.descriptorFetch 0 (.got nop0.raw false)) (hosted [])).ring 0).fetched = [nop0] ∧
    (after (.completionWrite 0 true) (hosted [nopDone])).out = [.hostWrite 0x10000 [77, 0, 0, 0, 0, 0, 0, 0, 0, 0, 0, 0, 0, 0, 0, 0] none] ∧
    (after (.msixInterrupt 9 false) interrupting).out = [.msix 0 5] := by decide +kernel
/-- A sealed partition's ring takes its descriptors inside the IDE stream of its function; a read that fails stops a ring. -/
def sealedRing (ds : List Desc) : State := { hosted ds with regs := (hosted ds).regs.set (Reg.partCtl 0) 9 }
/-- The ring of the sequencers, with the work given. -/
def sequenced (ds : List Desc) : State := { hosted [] with rings := [(4096, { cfg := 0x37, fetched := ds })] }
theorem test_ring_reads : (sealedRing []).ringPart 0 = some 0 ∧ (sealedRing []).sealedPart 0 = true ∧
    ((after (.descriptorFetch 0 (.got nop0.raw false)) (sealedRing [])).ring 0).err = true ∧
    ((after (.descriptorFetch 0 (.got nop0.raw true)) (sealedRing [])).ring 0).fetched = [nop0] ∧
    ((after (.descriptorFetch 0 (.failed 0)) (hosted [])).ring 0).stop = true ∧
    ((sequenced []).ring 4096).on = true ∧ (sequenced []).ringPart 4096 = none ∧ (sequenced []).ringWindow 4096 false 0 64 = true ∧
    ((after (.descriptorFetch 4096 (.got (bytesOf 64 [(0, 8)]) false)) (sequenced [])).ring 4096).fetched.length = 1 ∧
    ((after (.completionWrite 4096 true) (sequenced [nopDone])).ring 4096).fetched = [] := by decide +kernel

/-- COPY from the host into Loam address 100 and from there to the host; a stream-in slot of the host on channel 0. -/
def copyIn : State := { cmd0 [(0, 2), (8, 0x5000), (16, loam0 + 100), (24, 4)] with slots := [(0, [0x803D8060])] }
def copyOut : State := { cmd0 [(0, 2), (8, 0x5000), (16, loam0 + 100), (24, 4), (32, 1)] with loam := memOf [(100, [1, 2, 3, 4])] }
/-- TOKEN for context 0 of logical engine 0, which runs; STREAM of three words; a frame of 60 bytes; a receive buffer. -/
def withCtx0 (s : State) : State := { s with eng := [(0, { ctx := [(0, { st := .running })] })] }
def tokenCmd : State := withCtx0 (cmd0 [(0, 3), (10, 0x4123)])
def streamCmd : State := withCtx0 (cmd0 [(0, 4), (16, 0x5000), (24, 24)])
def frameCmd : State :=
  hosted [cmdAt 0 [(0, 0x0F), (8, 0x13), (10, 60), (16, 0x5000)]] [(Reg.hvpCfg, 1), (Reg.moduleId, 0x20005)]
def bufCmd : State := cmd0 [(0, 0x10), (16, 0x5000), (24, 4196)]
theorem test_host_data : copyIn.copyFails 0 (cmdAt 0 [(0, 2), (8, 0x5000), (16, loam0 + 100), (24, 4)]) = none ∧
    copyOut.copyFails 0 (cmdAt 0 [(0, 2), (8, 0x5000), (16, loam0 + 100), (24, 4), (32, 1)]) = none ∧ copyIn.loam.wf = true ∧
    tokenCmd.target 0 0 = some (0, 0) ∧ (tokenCmd.ctx 0 0).hostRoom = true ∧ tokClass (0x4123 : Tok) = 4 ∧
    streamCmd.ringWindow 0 false 0x5000 24 = true ∧ streamCmd.flag (Reg.imemShare 0 0) 9 = false ∧ (streamCmd.ctx 0 0).stream = none ∧
    copyIn.epochMeets 100 4 = false ∧ (streamCmd.ctx 0 0).ringStream = none ∧ udpPort (List.range 60 |>.map (BitVec.ofNat 8)) = none ∧
    frameCmd.idValid = true ∧ frameCmd.hvpQueued = 0 ∧ bufCmd.ringWindow 0 true 0x5000 4196 = true ∧
    (after (.copy 0 (.got [9, 8, 7, 6] false) .ok) copyIn).loamBytes 99 6 = [0, 9, 8, 7, 6, 0] ∧
    (after (.copy 0 (.failed 0) .ok) copyOut).out = [.hostWrite 0x5000 [1, 2, 3, 4] none] ∧
    ((after (.copy 0 (.failed 4096) .ok) copyIn).ring 0).fetched.map (·.status) = [some (0x12, 0x6000)] ∧
    (streamCmd.ringPart 0).map streamCmd.sealedPart = some false ∧
    ((after (.stream 0 (.got (List.replicate 24 7) false)) streamCmd).ctx 0 0).iq.length = 24 ∧
    ((after (.token 0) tokenCmd).ctx 0 0).tokens 4 = [0x4123] ∧
    ((after (.frameTx 0 (.got (List.range 60 |>.map (BitVec.ofNat 8)) false)) frameCmd).egQueue 7 20).map (·.take 14) =
      [[0, 1, 2, 3, 4, 5, 0x02, 0xA7, 0x20, 0, 0, 5, 12, 13]] ∧ (after (.frameRx 0) bufCmd).hvpRx.length = 1 := by decide +kernel

/-! ### Context images -/

/-- The body of an image for a context with 8 vector registers, one unit of each memory and of Silt, whose code block 0 holds
the block table (entry 0 at word 64) and one more word: CRC-32C of those 16 bytes is 0x1AE83816. -/
def imgBody : Bytes :=
  bytesOf 256 [(0, 0x31494C58), (4, 256), (6, 1), (7, 1), (8, 17196650753), (24, 4), (28, 256), (32, 472), (40, 4096), (44, 3072),
    (48, 8), (49, 1), (50, 1), (51, 1), (60, 0x3FFFF), (72, 1), (74, 1)] ++
  bytesOf 32 [(0, 1), (4, 384), (12, 32)] ++ bytesOf 32 [(0, 2), (4, 416), (12, 8)] ++ bytesOf 32 [(0, 5), (4, 424)] ++ bytesOf 32 [(0, 7), (4, 424)] ++
  bytesOf 8 [(0, 0xA5E1 * 2 ^ 48 + 2 * 2 ^ 33)] ++ bytesOf 16 [(0, 64)] ++ bytesOf 8 [(0, 0x5EA1 * 2 ^ 48 + 0x1AE83816)] ++ bytesOf 8 []
def image : Bytes := imgBody ++ digestBytes (Config.sha384 imgBody)
def loadFields : List (Nat × Nat) := [(0, 5), (16, 0x5000), (24, 472), (32, 0x6000)]
def loadCmd : State := cmd0 loadFields
theorem test_load : loadCmd.cmd 0 0x05 = some (cmdAt 0 loadFields) ∧ loadCmd.ringWindow 0 false 0x5000 472 = true ∧
    loadCmd.ringWindow 0 false 0x6000 64 = true ∧ loadCmd.flag Reg.npstStat 0 = false ∧ loadCmd.loadCase 0 0 = none ∧
    loadCmd.ringPart 0 = some 0 ∧ loadCmd.physOf 0 = some 0 ∧
    loadCmd.imageFails 0 [] (bytesOf 64 loadFields) 472 = some 0x01 := by decide +kernel
/-- The image passes check 0x01 whatever its digest is: the trailer is the digest of the bytes before it (R266). -/
theorem test_image_file : xliFileOk image 472 = true := by
  have n : imgBody.length = 472 - 48 := by decide +kernel
  have h : image.take (472 - 48) = imgBody := by unfold image; rw [← n, List.take_left]
  have d : image.drop (472 - 48) = digestBytes (Config.sha384 imgBody) := by unfold image; rw [← n, List.drop_left]
  unfold xliFileOk
  rw [h, d, beq_self_eq_true, Bool.and_true]
  decide +kernel
/-- It passes the other checks, so the load completes. -/
theorem test_image_loads : ∃ t, loadCmd.loadCtx 0 (cmdAt 0 loadFields) image [] = .inl t := by
  have h : loadCmd.imageFails 0 image (bytesOf 64 loadFields) 472 = none := by
    unfold State.imageFails; rw [test_image_file]; decide +kernel
  have l : (loadCmd.loadCtx 0 (cmdAt 0 loadFields) image []).isLeft = true := by
    have e : loadCmd.ringPart 0 = some 0 ∧ loadCmd.physOf (dfld (cmdAt 0 loadFields).raw 8 1 % 64) = some 0 := by decide +kernel
    unfold State.loadCtx
    simp only [e.1, e.2]
    have h' : loadCmd.imageFails 0 image (cmdAt 0 loadFields).raw (dfld (cmdAt 0 loadFields).raw 24 8) = none := h
    rw [h']
    decide +kernel
  exact ⟨_, (Sum.inl_getLeft _ l).symm⟩

/-- An unload of context 0, a SETUP of SLICE_BASE, and table loads of one entry. -/
def unloadCmd : State := withCtx0 (cmd0 [(0, 6)])
def setupCmd (off : Nat) : State := cmd0 [(0, 7), (8, off), (12, 1), (16, 77)]
def slotFields : List (Nat × Nat) := [(0, 8), (16, 0x5000), (24, 1)]
def swFields : List (Nat × Nat) := [(0, 9), (8, 1), (16, 0x5000), (24, 1)]
def tilthFields : List (Nat × Nat) := [(0, 10), (8, 255), (12, 3), (16, 1), (32, 1)]
def route16 : Bytes := bytesOf 16 [(0, 0)]
theorem test_table_loads : unloadCmd.target 0 0 = some (0, 0) ∧ (unloadCmd.ctx 0 0).xfers = [] ∧ (unloadCmd.engine 0).mLoad = none ∧
    (∃ r ∈ regAt Reg.sliceBase, r.byte = 0 ∧ r.row.size = 8) ∧ windowOf Reg.sliceBase = none ∧
    (setupCmd Reg.sliceBase).pathRefused .setup Reg.sliceBase (gauntletRegs.contains Reg.sliceBase) = false ∧
    (cmd0 slotFields).cmd 0 8 = some (cmdAt 0 slotFields) ∧ (cmd0 slotFields).ringWindow 0 false 0x5000 4 = true ∧
    (let u := { cmd0 slotFields with slots := [(1024, [0x80008060])] }
     u.firstBadSlot 1 0 0 (refreshEnd 0) 0 [0x80008060] = none ∧ u.firstBadSlot 1 0 0 (refreshEnd 0) 0 [0x8000805F] = some 0) ∧
    (cmd0 slotFields).slotCopy = 0 ∧ (cmd0 swFields).routeOk route16 = true ∧ (cmd0 swFields).ringWindow 0 false 0x5000 16 = true ∧
    (cmd0 tilthFields).cmd 0 10 = some (cmdAt 0 tilthFields) ∧ (recvOf 1).rstate = 1 ∧ (recvOf 1).kind = 0 ∧
    ((cmd0 tilthFields).recvHalf 255).rstate = 0 ∧ ((cmd0 tilthFields).sendHalf 255).sstate = 0 ∧
    (cmd0 tilthFields).fld (Reg.partTilth 0) 40 20 = 256 ∧
    (after (.ctxUnload 0) unloadCmd).ctx 0 0 = {} ∧ (after (.setup 0) (setupCmd Reg.sliceBase)).reg Reg.sliceBase = 77 ∧
    (after (.slotLoad 0 (.got [0x60, 0x80, 0, 0x80] false)) (cmd0 slotFields)).slotTable 1 0 = [0x80008060] ∧
    ((after (.tilthLoad 0) (cmd0 tilthFields)).sendHalf 255).sstate = 1 := by decide +kernel

/-! ### Rollouts and epochs -/

/-- A request with number 65 for a list of 64 records at Loam 4,096; a batch of 5 requests; an epoch of two records for slot 3
with key slot 16; a READY slot. -/
def reqFields : List (Nat × Nat) := [(0, 11), (8, 65), (16, 7)]
def reqCmd : State := hosted [cmdAt 0 reqFields] [(Reg.rollReq 0, 6 * 2 ^ 40 + 4096)]
def batchD : Desc := cmdAt 0 [(0, 12), (8, 5)]
def batchCmd : State := withCtx0 (hosted [batchD])
def batchRan : State := withCtx0 (hosted [{ batchD with ran := true }])
def epochFields : List (Nat × Nat) := [(0, 13), (8, 3), (9, 16), (16, 9), (24, 8), (36, 2)]
def epochCmd : State := { cmd0 epochFields with keys := [(16, [5])], gcmTag := [(16, ⟨8, 9, 0⟩)] }
def switchFields : List (Nat × Nat) := [(0, 14), (8, 3)]
def epochReady : State := hosted [cmdAt 0 switchFields] [(Reg.epsStat 3, 2), (Reg.detCtl, 0)]
theorem test_rollouts : reqCmd.cmd 0 11 = some (cmdAt 0 reqFields) ∧ reqCmd.fld (Reg.rollReq 0) 44 40 = 6 ∧
    reqCmd.fld (Reg.rollReq 0) 39 12 * 4096 + 64 * (65 % 64) = 4160 ∧ reqCmd.reg (Reg.rollHead 0) ≤ 65 ∧ Tab.get [] reqCmd.reqs 0 = [] ∧
    reqCmd.ownsLoam 0 4160 64 = true ∧ batchCmd.cmd 0 12 = some batchD ∧ batchCmd.admitter 0 = some (0, 0) ∧
    (batchRan.ring 0).fetched.find? (fun d => d.ran && d.status.isNone && d.op == 0x0C) = some { batchD with ran := true } ∧
    batchRan.admitter 0 = some (0, 0) ∧ (batchRan.ctx 0 0).hostRoom = true ∧ epochCmd.cmd 0 13 = some (cmdAt 0 epochFields) ∧
    epochCmd.epState 3 = 0 ∧ epochCmd.ownsLoam 0 0 131072 = true ∧ epochReady.strict = false ∧ epochReady.epState 3 = 2 ∧
    epochReady.currentSlot 0 = none ∧ (after (.request 0) reqCmd).loamBytes 4160 17 = leBytes 8 65 ++ leBytes 9 7 ∧
    ((after (.admitBatchTokenEntry 0) batchRan).ctx 0 0).tokens 4 = [0x4005] ∧ (after (.epochLoad 0) epochCmd).epState 3 = 1 ∧
    (after (.epochSwitch 0) epochReady).epState 3 = 3 := by decide +kernel
/-- Zero expected records; a switch to the CURRENT slot; to a slot of none; a CURRENT slot with entries and one with none (R360). -/
def epochEmpty : State := { epochCmd with rings := [(0, ring0 [cmdAt 0 ((epochFields.take 5))])] }
def epochOther (st : Nat) (old : W64) : State := { epochReady with regs := (epochReady.regs.set (Reg.epsStat 3) (BitVec.ofNat 64 st)).set (Reg.epsStat 1) old }
theorem test_epoch_cases : epochEmpty.cmd 0 13 = some (cmdAt 0 (epochFields.take 5)) ∧ (after (.epochLoad 0) epochEmpty).epState 3 = 2 ∧
    (epochOther 3 0).epState 3 = 3 ∧ (epochOther 0 0).epState 3 = 0 ∧ (epochOther 2 3).currentSlot 0 = some 1 ∧
    (after (.epochSwitch 0) (epochOther 2 3)).epState 1 = 0 ∧ (after (.epochSwitch 0) (epochOther 2 0x103)).epState 1 = 4 ∧
    ((after (.epochSwitch 0) (epochOther 0 0)).ring 0).fetched.map (·.status) = [some (3, 9)] ∧
    ((after (.epochSwitch 0) { epochReady with regs := epochReady.regs.set Reg.detCtl 1 }).ring 0).fetched.map (·.status) = [some (0x0B, 0)] := by
  decide +kernel
/-- Reads of an image that fail, table loads that are bad, and the same loads by the sequencers (R296, R375, R442, R446, R571). -/
theorem test_load_failures :
    ((after (.ctxLoad 0 (.failed 8) (.failed 0)) loadCmd).ring 0).fetched.map (·.status) = [some (0x12, 0x5008)] ∧
    ((after (.ctxLoad 0 (.got [] false) (.got [] false)) loadCmd).ring 0).fetched.map (·.status) = [some (0x10, 1)] ∧
    ((after (.slotLoad 0 (.got [0x5F, 0x80, 0, 0x80] false)) (cmd0 slotFields)).ring 0).fetched.map (·.status) = [some (8, 0)] ∧
    (cmd0 swFields).swEntryBad 1 0 route16 = false ∧ (cmd0 swFields).swEntryBad 1 0 (List.replicate 16 255) = true ∧
    (sequenced [cmdAt 0 tilthFields]).cmd 4096 0x0A = some (cmdAt 0 tilthFields) ∧
    (sequenced [cmdAt 0 slotFields]).cmd 4096 0x08 = some (cmdAt 0 slotFields) ∧
    ((after (.tilthLoad 4096) (sequenced [cmdAt 0 tilthFields])).sendHalf 255).sstate = 1 ∧
    (List.range 8).find? (fun q => (sequenced []).ownsLoam q 9 1) = some 0 := by decide +kernel

/-! ## Power, clocks and starts -/

/-- A powered module at a stage of its start, with an empty store. -/
def atStage (k : Nat) (rs : List (Nat × W64) := []) : State :=
  withRegs { State.reset with boot := { powered := true, hostDown := false }, store := {}, emmc := [] } ((Reg.bootStat, BitVec.ofNat 64 k) :: rs)
theorem test_module_resets : (atStage 9).boot.powered = true ∧ State.reset.boot.powered = false ∧
    (after .modRst { atStage 9 [(Reg.tokwd 0 0, 5)] with loam := memOf [(1, [1])] }).loam = [] ∧
    (after .modRst (atStage 9 [(Reg.tokwd 0 0, 5)])).reg (Reg.tokwd 0 0) = resetReg State.reset.fuse (Reg.tokwd 0 0) ∧
    (after (.thermalTrip 3) (atStage 9)).store.trip = some (3, 0) ∧ (after .inputPowerLoss (atStage 9)).store.losses = [0] ∧
    (after .powerGood { State.reset with emmc := [] }).out = [.power true] ∧
    (after .powerGood { State.reset with emmc := [] }).gaunt.udsOpen = false := by decide +kernel

/-- A reading of 2,000 W at 48 V, every sensor at 60 °C, 20 J of hold-up energy (R557). -/
def sample60 : Sample := ⟨20000, 4800, 41000, 60, 60, 60, 60, 60, 300, 400, 2000⟩
/-- The clock one step above the floor of what a limit of CRUNG = 2 asks for; a batch in progress with OFF_REQUEST. -/
def stepping : State := { atStage 7 [(Reg.rplPolicy, 4)] with crungBy := [0, 1] }
def batching : State := { atStage 7 with mgmt := { batch := some ⟨4096, [], { log := [], hist := [], losses := [7] }, true⟩, off := true } }
theorem test_telemetry_and_store : stepping.stage = 7 ∧ stepping.crungBy.length = 2 ∧ stepping.gaunt.restarting = false ∧ stepping.fld Reg.rplPolicy 3 1 = 2 ∧ stepping.clockK = 0 ∧ stepping.targetK = 2 ∧
    0 < stepping.fuse.kmax ∧ (atStage 7).gauntletUp = true ∧ (atStage 7).mgmt.batch = none ∧ batchPasses 2000 (min 65536 4096) = true ∧
    (atStage 7 [(Reg.holdupStat, 2000)]).fld Reg.holdupStat 15 0 = 2000 ∧ batching.mgmt.batch ≠ none ∧
    (atStage 7).flag Reg.holdupStat 16 = false ∧ (atStage 7).store.saved = none ∧ Rail.vcore0 ∉ (atStage 7).boot.railsOff ∧
    (after (.telemetrySample sample60 5) (atStage 7)).fld Reg.telPwr 31 0 = 4800 * 65536 + 20000 ∧
    (after .bonnetStep stepping).clockK = 1 ∧ (after .storeBatchComplete batching).out = [.i3cSafe] ∧
    (after .savedSettingsWrite { atStage 7 with boot := { powered := true, full := true } }).store.saved.isSome = true := by decide +kernel

/-- Example 18-1: at 1.50 GHz the load asks for 3,360 W, and under the 2,600 W cap the highest clock is 1.125 GHz, k = 15. -/
theorem test_example_18_1 : capK Fuses.modelled { sample60 with pin := 33600, iin := 70000 } 1500 = 15 ∧
    capHolds Fuses.modelled { sample60 with pin := 33600, iin := 70000 } 1500 14 = false := by decide +kernel
/-- The widths of a port whose lanes 1 to 3, 1 alone, or all train, with the narrower mode and without it (R366, R368). -/
theorem test_linkWidths : linkWidths 0 true true 0xE = ⟨2, 0, true⟩ ∧ linkWidths 0 true true 2 = ⟨1, 0, true⟩ ∧ linkWidths 0 false false 0xE = ⟨0, 0, false⟩ ∧
    linkWidths 0 false false 0xF = ⟨3, 0, false⟩ ∧ linkWidths 1 true false 0xD = ⟨1, 2, true⟩ ∧ linkWidths 1 false true 0xD = ⟨0, 2, false⟩ ∧
    linkWidths 2 true true 1 = ⟨1, 0, false⟩ ∧ linkWidths 3 true true 0xF = ⟨0, 0, false⟩ := by decide +kernel

/-- Activities that all succeed; an image that verifies; a link that comes up. -/
def allOk : StageOutcome := ⟨true, true, true, true, true, true, true, true, [], 0, [], [], [], (0, 0), none, none, 5000⟩
def image1 : FwImage := ⟨1, 2, 3, true, true, 0, 0, 0, false, 1, 1⟩
def bootable : State := { atStage 1 with store := { slotA := some image1 } }
def imageless : State := { atStage 1 with store := {} }
def linkUp : LinkState := ⟨15, false, false⟩
def recovering : State := { atStage 1 with boot := { powered := true, recovery := true } }
theorem test_starts : (atStage 0).stage = 0 ∧ bootable.stage = 1 ∧ bootable.store.slotA = some image1 ∧ bootable.svn ≤ image1.svn ∧
    imageless.store.slotA = none ∧ imageless.store.slotB = none ∧ (atStage 2).boot.lostRefs = [] ∧ ((atStage 4).startEngines 0).inService = 48 ∧
    ((atStage 4).startEngines 0x1FFFFF).inService < 40 ∧ (atStage 4).portsLive = true ∧ (atStage 4).fld (Reg.linkStat 15) 9 0 ≠ 487 ∧
    (atStage 4).portUp 15 = false ∧ (atStage 4).fld (Reg.portCfg 15) 1 0 ≠ 3 ∧ recovering.boot.recovery = true ∧
    recovering.svn ≤ image1.svn ∧
    (after (.stageAdvance allOk) bootable).lib = ⟨1, 1, 3⟩ ∧ (after (.stageAdvance allOk) (atStage 4)).stage = 5 ∧
    (after (.stageAdvance { allOk with hbmOk := false }) (atStage 4)).fld Reg.bootStat 15 8 = 4 ∧
    (after (.linkChange 15 linkUp) (atStage 4)).reg (Reg.linkStat 15) = 1511 ∧
    (after (.recoveryImage image1) recovering).store.slotA = some image1 ∧
    (after (.recoveryImageTimeout true) recovering).stage = 15 := by decide +kernel

/-! ## Links -/

/-- VF1's interface with a TDI state; partition 0 sealed or not. -/
def vf1 (t : Tdi) (rs : List (Nat × W64) := []) : State :=
  { atStage 9 rs with parts := [(0, { vf := true, tdi := t })] }
/-- A running interface with a ring and an event ring enabled, at a host link reset. -/
def linked : State := { vf1 .run [(Reg.evrCfg 0, 13)] with rings := [(0, ring0 [nop0])] }
def lost (c : RefClk) : State := { atStage 9 with boot := { powered := true, hostDown := false, lostRefs := [c] } }
def slewing : State := { atStage 9 with boot := { powered := true, slewing := [.core] } }
/-- A transfer of Shale offset 0, which the device of port 0 backs. -/
def shaleXfer : Xfer := { kind := .get, desc := xferDesc (4 * 2 ^ 44), id := 0, tok := 0, pc := 0, shale := true, rows := 1, bankB := false }
def shaling : State :=
  withRegs { State.reset with eng := [(0, { ctx := [(0, { st := .running, xfers := [shaleXfer] })] })] } ((Reg.shaleMap 0, 1) :: part0)
theorem test_links : (vf1 .unlocked).gauntletUp = true ∧ ((vf1 .unlocked).partx 0).vf = true ∧ ((vf1 .unlocked).partx 0).tdi = .unlocked ∧
    (vf1 .run [(Reg.partCtl 0, 9)]).sealedPart 0 = true ∧ (vf1 .run).sealedPart 0 = false ∧ (vf1 .run).ideOn = [] ∧
    ((shaling.ctx 0 0).xfers ++ (shaling.ctx 0 0).shaleOut).filterMap (fun x => shaling.atCxl 0 0 x false) = [0] ∧
    ((after .hostLinkReset linked).partx 0).tdi = .error ∧ ((after .hostLinkReset linked).ring 0).on = false ∧
    (after (.ideKeySetActivate 9 false) (vf1 .run)).ideOn = [18] ∧ (after .perstRelease (vf1 .run)).boot.hostDown = false ∧
    (after (.refclkLoss .core) (atStage 9)).reg Reg.refclkStat = 33 ∧ (after (.refclkReturn .core) (lost .core)).boot.slewing = [.core] ∧
    (after (.slewBackComplete .core) slewing).boot.slewing = [] ∧ ((after (.cxlLinkFailure false) shaling).ctx 0 0).rep = .restoring := by
  decide +kernel
/-- What an empty store holds after a reset, and the logs, of which only what batches have written stands. -/
theorem test_reset_store : (atStage 9).found .fwA = .image none ∧ (atStage 9).found .saved = .saved none ∧
    (after .modRst { atStage 9 with logs := { log := [], hist := [], losses := [5] } }).store.losses = [5] ∧ (after .modRst (atStage 9)).store.losses = [] ∧
    (after .modRst (atStage 9 [(Reg.engHealth 24, 4)])).flag Reg.spareSet 24 = true ∧
    (after .modRst (atStage 9 [(Reg.refclkStat, 1)])).reg Reg.refclkStat = resetReg State.reset.fuse Reg.refclkStat := by decide +kernel
/-- A restart during which the clock steps down alone, and a rung that nothing asks for any more (R525, R576). -/
def stepDown : State := { atStage 7 with gaunt := { restarting := true }, bonnet := { overCap := true } }
def rungFree : State := atStage 7 [(Reg.rplPolicy, 4)]
theorem test_bonnet_cases : (atStage 7).clockK = 0 ∧ 0 < (atStage 7).fuse.kmax ∧ (after .bonnetStep stepDown).clockK = 1 ∧
    rungFree.crungBy.length < rungFree.fld Reg.rplPolicy 3 1 ∧ (after .bonnetStep rungFree).fld Reg.rplPolicy 3 1 = 1 := by decide +kernel
/-- A batch that writes all that waits makes the logs good; one that falls short does not; the settings wait 24 h after a drift, and
do not wait after a training in full (R550, R559). -/
theorem test_batches : (after .storeBatchComplete batching).logs = { log := [], hist := [], losses := [7] } ∧
    (after .storeBatchComplete { batching with mgmt := { batch := some ⟨4096, [], { log := [], hist := [], losses := [7] }, false⟩ } }).logs = (atStage 7).logs ∧
    ((after (.storeBatchWrite 4096) (atStage 7 [(Reg.holdupStat, 2000)])).mgmt.batch.map (·.whole)) = some true ∧
    (after .savedSettingsWrite { atStage 7 with boot := { powered := true, moved := true }, store := { saved := some ⟨1, true, 2, 0, []⟩ } }).boot.moved
      = true ∧
    (after .savedSettingsWrite { atStage 7 with boot := { powered := true, moved := true }, time := 86400000000000
                                                store := { saved := some ⟨1, true, 2, 0, []⟩ } }).boot.moved = false := by decide +kernel
/-- The rails: an engine of die 0 issues nothing without its core rail, no port is up without the SerDes rail, and the host link is
down without the P die's (R578). -/
def railed : State := { running [] with boot := { powered := true, hostDown := false }, regs := [(Reg.linkStat 0, 1)] }
theorem test_rails : Rail.vpdie ∉ railed.boot.railsOff ∧ railed.canIssue 0 0 = true ∧ railed.portUp 0 = true ∧
    (after (.overVoltageShutdown .vcore0) railed).canIssue 0 0 = false ∧ (after (.overVoltageShutdown .vcore1) railed).canIssue 0 0 = true ∧
    (after (.overVoltageShutdown .vserdes) railed).portUp 0 = false ∧ (after (.overVoltageShutdown .vpdie) railed).boot.hostDown = true ∧
    (after (.overVoltageShutdown .v3p3) railed).boot.railsOff = [.v3p3] := by decide +kernel
/-- Starts that wait, and starts that fail: the clock still steps, the self-test of stage 6 takes engines out, a restart holds. -/
theorem test_start_cases : (after (.stageAdvance { allOk with tempOk := false }) (atStage 0)).fld Reg.bootStat 15 8 = 7 ∧
    (atStage 2).clockK = (atStage 2).targetK ∧ (after (.stageAdvance allOk) (atStage 2)).stage = 3 ∧
    ({ atStage 2 with bonnet := { cap := 3 } }).clockK ≠ ({ atStage 2 with bonnet := { cap := 3 } }).targetK ∧
    (after (.stageAdvance { allOk with pDieOk := false }) (atStage 3)).fld Reg.bootStat 15 8 = 3 ∧
    (after (.stageAdvance allOk) (atStage 6)).stage = 7 ∧ (((atStage 6).startEngines 0).startTest [⟨3, 7, 0⟩]).inService = 48 ∧
    (after (.stageAdvance { allOk with tempOk := false }) recovering).fld Reg.bootStat 15 8 = 7 ∧
    (after (.stageAdvance allOk) recovering).stage = 1 ∧ recovering.fuse.trusts image1 = true := by decide +kernel
/-- A ordered start: GO, a plan of one port, which is down or up, and an image that waits for activation (R553, R571). -/
def planPort (tolerant : Bool) : Plan := ⟨5, [], [(15, 0)], [], 0, tolerant⟩
def order1 (ps : List Payload) : GoOrder := ⟨5, 0, ps, [], none⟩
def ordered (up_ : Bool) (ps : List Payload := []) : State :=
  { atStage 8 [(Reg.linkStat 15, if up_ then 1 else 0), (Reg.nbr 15, 0x01820000)] with mgmt := { go := some (order1 ps) } }
def brings (p : Option Plan) (f : Option FwImage := none) : StageOutcome := { allOk with plan := p, fw := f }
theorem test_planned_start : (ordered true).goPlan (brings (some (planPort false))) = some (planPort false) ∧
    (ordered true).planFirmware (brings none) = none ∧ (ordered true).goPlan (brings none) = none ∧
    (after (.stageAdvance (brings (some (planPort true)))) (ordered false)).stage = 9 ∧
    (after (.stageAdvance (brings (some (planPort false)))) (ordered false)).stage = 8 ∧
    (after (.stageAdvance (brings (some (planPort false)))) (ordered false)).out.length = 1 := by decide +kernel
/-- The firmware that the chains have brought, under fused keys that trust it. -/
theorem test_planned_firmware : (ordered true [⟨.firmware, [], []⟩]).goes .firmware = true ∧
    (ordered true [⟨.firmware, [], []⟩]).planFirmware (brings none (some image1)) = some image1 ∧
    (after (.stageAdvance (brings none (some image1))) (ordered true [⟨.firmware, [], []⟩])).gaunt.restarting = true := by decide +kernel
/-- The link stays down while its reference or its rail is lost; a link reset keeps the sequencers' ring; a request that has left for
the device counts among those that a failed link loses (R443, R578, R581). -/
def shaleGone : State :=
  { shaling with eng := [(0, { ctx := [(0, { st := .running, shaleOut := [shaleXfer] })] })] }
theorem test_link_cases : (after .perstRelease (lost .pcie)).boot.hostDown = true ∧ (after .perstRelease (atStage 9)).boot.hostDown = false ∧
    ((after .hostLinkReset (sequenced [nop0])).ring 4096).fetched = [nop0] ∧
    ((shaleGone.ctx 0 0).xfers ++ (shaleGone.ctx 0 0).shaleOut).filterMap (fun x => shaleGone.atCxl 0 0 x false) = [0] ∧
    (shaleGone.ctx 0 0).repFault = none ∧ (shaleGone.ctx 0 0).going = false ∧ (shaleGone.ctx 0 0).shadow = false ∧
    ((after (.cxlLinkFailure false) shaleGone).ctx 0 0).repFault = some ⟨0x0C, some (4 * 2 ^ 44)⟩ := by decide +kernel

/-! ## Gauntlet -/

/-- The mailbox BUSY with a request of a code. -/
def asked (code : Nat) (rs : List (Nat × W64) := []) : State :=
  { atStage 9 (rs ++ [(Reg.mbxStat, 1)]) with gaunt := { mbxReq := memOf [(0, leBytes 2 code ++ leBytes 2 96), (36, [7, 8])] } }
def setKey7 : SetKey := ⟨7, 1, none⟩
def unwraps : State := { asked 3 with setKeys := [setKey7] }
def staged : State := { asked 5 with gaunt := { (asked 5).gaunt with staged := some image1 } }
def activating : State := { staged with gaunt := { staged.gaunt with restarting := true, newImage := true } }
/-- A planned start's image that is activated; an engine whose retirement waits for the end of the restart (R29, R571). -/
def carrying : State := { atStage 8 with gaunt := { restarting := true, newImage := true, loam := some image1 } }
def retiring : State := { atStage 9 with gaunt := { restarting := true }, eng := [(7, { retireDue := true })] }
theorem test_retire_due : retiring.gaunt.restarting = true ∧ (retiring.engine 7).retireDue = true ∧
    (after .fwActivationComplete retiring).fld (Reg.engHealth 7) 2 0 = 4 ∧
    ((after .fwActivationComplete retiring).engine 7).retireDue = false := by decide +kernel
theorem test_no_retire : ∀ p, (activating.engine p).retireDue = false := fun _ => rfl
theorem test_mailbox : (asked 1).gauntletUp = true ∧ (asked 1).flag Reg.mbxStat 0 = true ∧
    (∀ k, k < 7 → leNat (Mem.bytes (asked k).gaunt.mbxReq 0 2) = k) ∧ (asked 2).sealedPart 7 = false ∧ (asked 2).windowPart 255 = none ∧
    unwraps.keyInUse 16 = false ∧ unwraps.setKeys.find? (fun k => k.setid == 7 && k.serves unwraps 0) = some setKey7 ∧
    Fuses.modelled.trusts image1 = true ∧ Fuses.modelled.trusts { image1 with keyE := 1 } = false ∧ image1.svn < { asked 4 with svn := 1 }.svn ∧
    leNat (Mem.bytes (asked 4).gaunt.mbxReq 2 2) = 96 ∧ (asked 2 [(Reg.partCtl 7, 8)]).sealedPart 7 = true ∧ (asked 6 [(Reg.partCtl 0, 1)]).partOn 0 = true ∧
    ((asked 6 [(Reg.partCtl 0, 1)]).startRotation 0).isSome = true ∧ (asked 4).svn ≤ image1.svn ∧ staged.gaunt.staged = some image1 ∧
    activating.gaunt.lockFail = false ∧ carrying.gaunt.loam = some image1 ∧
    (after .fwActivationComplete carrying).boot.running = some image1 ∧ (after .fwActivationComplete carrying).flag Reg.mbxStat 0 = false ∧
    (after (.mbxWindow 255 0x1234567 0x2000000 true false 7 false true) (asked 2)).reg (Reg.hdmaLim 255) = 0x200003B ∧
    (after (.mbxWindow 255 0x1234567 0x2000000 true false 7 false true) (asked 2)).reg (Reg.hdmaBase 255) = 0x1234000 ∧
    (after (.fwStage 0 96 (some image1)) (asked 4)).store.slotB = some image1 ∧
    (after (.fwStage 4096 64 none) (asked 4)).gaunt.pieces = [(4096, 7), (4097, 8)] ∧
    (after (.fwStage 0 96 (some { image1 with keyE := 1 })) (asked 4)).fld Reg.mbxStat 15 8 = 3 ∧ (after .fwActivate staged).gaunt.restarting = true ∧
    (after .fwActivationComplete activating).boot.running = some image1 ∧
    (after .gauntletLockstepRestart (atStage 9)).gaunt.lockFail = true := by decide +kernel

/-- Sources: the I3C port outside a session and in session 5, and VF1's DOE mailbox in session 5. -/
def i3c0 : SpdmSrc := ⟨.i3c, none, []⟩
def i3c5 : SpdmSrc := ⟨.i3c, some 5, []⟩
def doe5 : SpdmSrc := ⟨.doe 1, some 5, []⟩
def sess5 (t : Transport) : Session := { tr := t, up := true, pq := true, auth := true }
/-- A negotiation that has reached a step; session 5 of a transport. -/
def spdmAt (k : Nat) : State := { atStage 9 with gaunt := { conns := [(.i3c, { step := k })] } }
def inSess (t : Transport) (x : Session) (rs : List (Nat × W64) := []) : State :=
  { vf1 .locked rs with gaunt := { sess := [(5, x), (6, sess5 t)], signed := [(i3c5, 9)] } }
theorem test_spdm : (spdmAt 1).reaches i3c0 = true ∧ (spdmAt 1).negotiation .i3c = 1 ∧ (spdmAt 2).negotiation .i3c = 2 ∧
    (spdmAt 3).negotiated i3c0 = true ∧ (spdmAt 3).sessionRoom .i3c = true ∧ (spdmAt 3).gaunt.restarting = false ∧
    (inSess .i3c (sess5 .i3c)).reaches i3c5 = true ∧ (inSess .i3c (sess5 .i3c)).session i3c5 = some (sess5 .i3c) ∧
    (inSess .i3c { tr := .i3c }).gaunt.sess.find? (fun e => e.1 == 5) = some (5, { tr := .i3c }) ∧
    (inSess .i3c (sess5 .i3c)).gaunt.signed.find? (fun e => e.1 == i3c5) = some (i3c5, 9) ∧
    (after (.negotiateAlgorithms i3c0 true) (spdmAt 2)).negotiation .i3c = 3 ∧
    (after (.keyExchange i3c0 (List.replicate 96 0)) (spdmAt 3)).gaunt.sess.length = 1 ∧
    ({ spdmAt 3 with gaunt := { (spdmAt 3).gaunt with restarting := true } }).reaches i3c0 = true ∧
    (inSess .i3c { tr := .i3c }).sessionOf i3c5 = some (5, { tr := .i3c }) ∧ (spdmAt 3).opens i3c0 [7] = true := by decide +kernel
/-- Every request of a session has a record that opens as it; the record changes nothing else of what the request meets. -/
theorem witness_opens (s : State) (m : SpdmSrc) (b : Bytes) : ∃ w, s.opens { m with wire := w } b = true := by
  cases h : s.sessionOf m with
  | none => exact ⟨[], by simp [State.opens, State.sessionOf] at h ⊢; rw [h]⟩
  | some e =>
    refine ⟨e.2.request e.1 b, ?_⟩
    have : s.sessionOf { m with wire := e.2.request e.1 b } = some e := h
    simp [State.opens, this]
theorem witness_opens_place (s : State) (m : SpdmSrc) (w : Bytes) : s.session { m with wire := w } = s.session m ∧
    s.sessionOf { m with wire := w } = s.sessionOf m ∧ s.tenant { m with wire := w } = s.tenant m ∧
    s.operator { m with wire := w } = s.operator m ∧ s.management { m with wire := w } = s.management m ∧
    s.reaches { m with wire := w } = s.reaches m ∧ SpdmSrc.place { m with wire := w } = SpdmSrc.place m := ⟨rfl, rfl, rfl, rfl, rfl, rfl, rfl⟩

/-- A tenant of partition 0 and the operator, whose partitions are enabled; a sealed partition 0. -/
def tenant0 : State := { inSess (.doe 1) (sess5 (.doe 1)) [(Reg.partCtl 0, 1)] with setKeys := [setKey7] }
def sealed0 : State := inSess (.doe 1) (sess5 (.doe 1)) [(Reg.partCtl 0, 9)]
def operated (rs : List (Nat × W64)) : State := { inSess .i3c (sess5 .i3c) rs with setKeys := [setKey7], store := { owner := some ⟨1, 2, 3⟩ } }
def unowned : State := inSess .i3c (sess5 .i3c)
theorem test_tenants : tenant0.reaches doe5 = true ∧ tenant0.tenant doe5 = some 0 ∧ (tenant0.partx 0).tdi = .locked ∧
    tenant0.partOn 0 = true ∧ tenant0.resetting 0 = false ∧ tenant0.residents 0 = [] ∧ sealed0.tenant doe5 = some 0 ∧
    sealed0.sealedPart 0 = true ∧ (sealed0.partx 0).clearing = none ∧ tenant0.windowTaken 255 0 = false ∧
    (operated [(Reg.partCtl 0, 9)]).operator i3c5 = true ∧ (operated [(Reg.partCtl 0, 9)]).sealedPart 0 = true ∧
    (operated [(Reg.partCtl 7, 1)]).mayServe i3c5 7 = true ∧ (operated [(Reg.partCtl 7, 1)]).keyInUse 16 = false ∧
    (operated [(Reg.partCtl 7, 1)]).setKeys.find? (fun k => k.setid == 7 && k.serves (operated [(Reg.partCtl 7, 1)]) 7) = some setKey7 ∧
    unowned.tenant i3c5 = none ∧ unowned.reaches i3c5 = true ∧
    ((operated [(Reg.partCtl 7, 1)]).startRotation 7).isSome = true ∧ tenant0.mayServe doe5 0 = true ∧ unowned.management i3c5 = true ∧
    unowned.store.owner = none ∧ (operated []).store.owner ≠ none ∧
    MgmtSet.ok ⟨[2323, 4433, 514, 623], none, 10, 1⟩ = true ∧ MgmtSet.ok ⟨[2323, 4433, 514, 623], none, 9, 0⟩ = false ∧
    (let u := operated [(Reg.engHealth 0, 4)]; u.operator i3c5 = true ∧ u.fld (Reg.engHealth 0) 2 0 = 4 ∧
      ∀ c, c < 4 → (u.ctx 0 c).resident = false) ∧
    (let u := inSess .i3c { sess5 .i3c with auth := false }; u.operator i3c5 = false ∧ u.session i3c5 ≠ none) ∧ ((operated []).setKeys.filter (fun k => k.setid != 7)).length < 16 := by
  decide +kernel

/-! ## Wrapped keys -/

/-- A step of unwrapping undone: what it gives from what came before. -/
def wrapStep (k : BitVec 256) (s : Bytes × List Bytes) (t : Nat) : Bytes × List Bytes :=
  let i := (t - 1) % 4
  let b := leBytes 16 (aesEnc k (BitVec.ofNat 128 (leNat (s.1 ++ (s.2[i]?).getD [])))).toNat
  (b.take 7 ++ ((b.drop 7).take 1).map (fun x => x ^^^ BitVec.ofNat 8 t), s.2.set i (b.drop 8))

/-- A check register of 8 bytes beside four blocks of 8 bytes. -/
def WrapForm (s : Bytes × List Bytes) : Prop := s.1.length = 8 ∧ s.2.length = 4 ∧ ∀ b ∈ s.2, b.length = 8

theorem wrapStep_form {k : BitVec 256} {s : Bytes × List Bytes} (t : Nat) (h : WrapForm s) : WrapForm (wrapStep k s t) := by
  obtain ⟨-, h2, h3⟩ := h
  refine ⟨by simp [wrapStep, length_leBytes], by simp [wrapStep, h2], fun b hb => ?_⟩
  rcases List.mem_or_eq_of_mem_set hb with hb | rfl
  · exact h3 b hb
  · simp [length_leBytes]

theorem unwrapStep_wrapStep {k : BitVec 256} {s : Bytes × List Bytes} (t : Nat) (h : WrapForm s) :
    unwrapStep k (wrapStep k s t) t = s := by
  obtain ⟨a, bs⟩ := s
  obtain ⟨h1, h2, h3⟩ := h
  simp only at h1 h2 h3
  have hi : (t - 1) % 4 < bs.length := by omega
  have hb : (bs[(t - 1) % 4]).length = 8 := h3 _ (List.getElem_mem hi)
  simp only [unwrapStep, wrapStep, List.getElem?_eq_getElem hi, Option.getD_some]
  generalize hB : leBytes 16 (aesEnc k (BitVec.ofNat 128 (leNat (a ++ bs[(t - 1) % 4])))).toNat = B
  have hBl : B.length = 16 := by rw [← hB, length_leBytes]
  have hA : (B.take 7 ++ ((B.drop 7).take 1).map (fun x => x ^^^ BitVec.ofNat 8 t)).take 7 ++
      ((B.take 7 ++ ((B.drop 7).take 1).map (fun x => x ^^^ BitVec.ofNat 8 t)).drop 7).map (fun x => x ^^^ BitVec.ofNat 8 t)
        = B.take 8 := by
    rw [List.take_append_of_le_length (by simp; omega), List.drop_append_of_le_length (by simp; omega)]
    simp only [List.take_take, List.drop_take, List.map_append, List.map_map]
    rw [show B.take 8 = B.take 7 ++ (B.drop 7).take 1 from by rw [← List.take_append_drop 7 (B.take 8)]; simp [List.take_take, List.drop_take]]
    simp [Function.comp_def, BitVec.xor_assoc]
  simp only [hA, List.getElem?_set_self hi, Option.getD_some, List.take_append_drop]
  rw [← hB, leNat_leBytes, Nat.mod_eq_of_lt (by simpa using (aesEnc _ _).isLt), BitVec.ofNat_toNat, BitVec.setWidth_eq,
    aesDec_aesEnc, BitVec.toNat_ofNat, Nat.mod_eq_of_lt]
  · rw [show (16 : Nat) = (a ++ bs[(t - 1) % 4]).length from by simp [h1, hb], leBytes_leNat]
    simp [h1]
  · exact Nat.lt_of_lt_of_le (leNat_lt _) (by simp [h1, hb])

/-- Unwrapping undoes the wrap steps from the last to the first. -/
theorem unwrap_wraps {k : BitVec 256} (ts : List Nat) {s : Bytes × List Bytes} (h : WrapForm s) :
    ts.reverse.foldl (unwrapStep k) (ts.foldl (wrapStep k) s) = s := by
  induction ts generalizing s with
  | nil => rfl
  | cons t ts ih => simp [ih (wrapStep_form t h), unwrapStep_wrapStep t h]

theorem wraps_form {k : BitVec 256} (ts : List Nat) {s : Bytes × List Bytes} (h : WrapForm s) : WrapForm (ts.foldl (wrapStep k) s) := by
  induction ts generalizing s with
  | nil => exact h
  | cons t ts ih => exact ih (wrapStep_form t h)

/-- The key of zeros wrapped under a key. -/
def wrapped (k : BitVec 256) : Bytes :=
  let r := ((List.range 24).map (fun j => j + 1)).foldl (wrapStep k) (List.replicate 8 0xA6, List.replicate 4 (List.replicate 8 0))
  r.1 ++ r.2.flatten

/-- What unwrapping makes of a check register and four blocks written one after the other. -/
theorem keyUnwrap_flat {k : BitVec 256} {r : Bytes × List Bytes} {bs : List Bytes} (hf : WrapForm r)
    (h : ((List.range 24).map (fun j => 24 - j)).foldl (unwrapStep k) r = (List.replicate 8 0xA6, bs)) :
    (r.1 ++ r.2.flatten).length = 40 ∧ keyUnwrap k (r.1 ++ r.2.flatten) = some bs.flatten := by
  obtain ⟨a, ws⟩ := r
  obtain ⟨h1, h2, h3⟩ := hf
  obtain ⟨x, ws, rfl⟩ := List.exists_cons_of_length_eq_add_one h2
  obtain ⟨y, ws, rfl⟩ := List.exists_cons_of_length_eq_add_one (Nat.succ.inj h2)
  obtain ⟨z, ws, rfl⟩ := List.exists_cons_of_length_eq_add_one (Nat.succ.inj (Nat.succ.inj h2))
  obtain ⟨w, ws, rfl⟩ := List.exists_cons_of_length_eq_add_one (Nat.succ.inj (Nat.succ.inj (Nat.succ.inj h2)))
  obtain rfl := List.eq_nil_of_length_eq_zero (Nat.succ.inj (Nat.succ.inj (Nat.succ.inj (Nat.succ.inj h2))))
  simp only [List.mem_cons, List.not_mem_nil, or_false, forall_eq_or_imp, forall_eq] at h3 h1
  obtain ⟨hx, hy, hz, hw⟩ := h3
  have hl : (a ++ [x, y, z, w].flatten).length = 40 := by simp [h1, hx, hy, hz, hw]
  have ha : (a ++ [x, y, z, w].flatten).take 8 = a := List.take_left' h1
  have hbl : (List.range 4).map (fun i => ((a ++ [x, y, z, w].flatten).drop (8 + 8 * i)).take 8) = [x, y, z, w] := by
    simp [List.range, List.range.loop, List.drop_append, List.take_append, List.drop_of_length_le, List.take_of_length_le, h1, hx, hy, hz, hw]
  refine ⟨hl, ?_⟩
  rw [List.foldl_map] at h
  simp only [keyUnwrap, hl, ha, hbl, h, ne_eq, not_true_eq_false, if_false, if_true]

/-- A wrapped key of 40 bytes unwraps under the key that wrapped it: the hypotheses about wrapped keys can be met. -/
theorem witness_keyUnwrap (k : BitVec 256) : (wrapped k).length = 40 ∧ keyUnwrap k (wrapped k) = some (List.replicate 32 0) := by
  have h0 : WrapForm (List.replicate 8 0xA6, List.replicate 4 (List.replicate 8 0)) := by
    refine ⟨rfl, rfl, fun b hb => ?_⟩
    rw [List.eq_of_mem_replicate hb]; rfl
  have hu := unwrap_wraps (k := k) ((List.range 24).map (fun j => j + 1)) h0
  rw [show ((List.range 24).map (fun j => j + 1)).reverse = (List.range 24).map (fun j => 24 - j) by decide] at hu
  exact keyUnwrap_flat (wraps_form _ h0) hu

/-- A key record whose content key unwraps with a set key, and a wrapped set key that SET_JOIN takes. -/
theorem witness_unwraps (sk : BitVec 256) : contentKey sk (List.replicate 24 0 ++ wrapped (keyOf (hkdf (leBytes 32 sk.toNat) (List.replicate 16 0) 32)))
    = some (List.replicate 32 0) := by
  have h : (List.replicate 24 (0 : Byte)).length = 24 := rfl
  rw [contentKey, List.drop_left' h]
  exact (witness_keyUnwrap _).2

theorem witness_setSecret (s : State) (setid : W64) : ∃ w, s.setSecret setid (List.replicate 96 0) (List.replicate 1568 0) w = some (List.replicate 32 0) := by
  refine ⟨wrapped (keyOf (hkdf (Config.ecdh (s.aliasSeed false) (List.replicate 96 0) ++ Config.kemDecaps s.kemSeed (List.replicate 1568 0))
    (ascii "OLIWICK-SET" ++ leBytes 8 setid.toNat ++ leBytes 8 s.fuse.serial.toNat) 32)), ?_⟩
  rw [State.setSecret, if_neg (by simp only [List.length_replicate]; decide)]
  exact (witness_keyUnwrap _).2

/-- A FINISH whose code verifies has 48 bytes; an empty code does not verify. -/
theorem witness_finishMac (x : Session) : x.finishMac.length = 48 ∧ ([] : Bytes) ≠ x.finishMac := by
  have h : x.finishMac.length = 48 := by simp [Session.finishMac, hmac384, sha384, digestBytes]
  exact ⟨h, fun e => by rw [← e] at h; simp at h⟩

/-! ## Operator debug -/

/-- Context 0 of engine 0 halted by debug; with its partition sealed; a step of three cc under way. -/
def halted (rs : List (Nat × W64) := []) : State :=
  { atStage 9 rs with
    eng := [(0, { ctx := [(0, { st := .running, dbgHalt := true })] })], loam := memOf [(5, [1, 2])], mgmt := { dbgSeq := some 4 } }
def owned : State := { halted with store := { owner := some ⟨1, 2, 3⟩ } }
def steppingCtx : State := { atStage 9 with eng := [(0, { ctx := [(0, { st := .running, dbgSteps := 3 })] })] }
theorem test_debug : halted.boot.powered = true ∧ (halted.ctx 0 0).resident = true ∧ (halted.ctx 0 0).dbgHalt = true ∧
    halted.sealedPart 0 = false ∧ (halted [(Reg.partCtl 0, 9)]).sealedPart 0 = true ∧ (steppingCtx.ctx 0 0).dbgSteps = 3 ∧
    halted.debugData 8 4 3 = some [(0, none), (1, none), (2, none)] ∧ halted.debugData 13 0 1 = none ∧ halted.debugData 8 4 4097 = none ∧
    (halted [(Reg.partCtl 0, 9)]).debugData 3 0 1 = some [(0xFF, some 0)] ∧
    (halted [(Reg.partCtl 0, 9), (Reg.dglSize 0, 1)]).debugData 11 0 1 = some [(0, some 0)] ∧ owned.store.owner.isSome = true ∧
    ((after (.debugHalt .jtag (.part 0)) (halted [(Reg.partCtl 0, 9)])).partx 0).debug = 1 ∧
    ((after (.debugStep .jtag 0 0 6000 0) halted).ctx 0 0).dbgGo = some 6000 ∧
    (after (.debugWrite (.mgmt 5 true)) owned).out = [.debugRefused] ∧ (after (.debugWrite (.mgmt 4 true)) owned).out = [] := by
  decide +kernel
/-- A resume that is due later in the present period enters at once, one whose cc has passed waits; requests count on sealed
partitions; a step leaves its phase; a read over a sealed and an open part; and nothing is taken in a restart (R496 to R499). -/
def phased : State :=
  { atStage 9 [(Reg.partCtl 0, 9)] with eng := [(0, { ctx := [(0, { st := .running, dbgHalt := true, dbgPhase := 100, ccHalt := true })] })] }
def sealedLoam : State := halted [(Reg.partCtl 0, 9), (Reg.partMem 0, 0x400)]
theorem test_debug_cases : ((after (.debugResume .jtag (.ctx 0 0) 99) phased).ctx 0 0).dbgHalt = false ∧
    ((after (.debugResume .jtag (.ctx 0 0) 99) phased).ctx 0 0).ccHalt = false ∧
    ((after (.debugResume .jtag (.ctx 0 0) 100) phased).ctx 0 0).dbgGo = some 0 ∧
    ((after (.debugResume .jtag (.ctx 0 0) 100) phased).ctx 0 0).dbgHalt = true ∧
    ((after (.debugResume .jtag (.ctx 0 0) 0) phased).partx 0).debug = 1 ∧
    ((after (.debugStep .jtag 0 0 6000 0) phased).ctx 0 0).dbgSteps = 6000 ∧ ((after (.debugStep .jtag 0 0 0 0) phased).out) = [.debugRefused] ∧
    ((after (.debugStepEnd 0 0) steppingCtx).ctx 0 0).dbgPhase = 3 ∧
    sealedLoam.debugData 8 4 1 = some [(0, some 0)] ∧ sealedLoam.debugData 8 (2 ^ 30 - 1) 2 = some [(0, some 0), (0, none)] ∧
    ((after (.debugReadData .jtag 8 (2 ^ 30 - 1) 2) sealedLoam).partx 0).debug = 1 ∧
    { halted with gaunt := { restarting := true } }.gauntletUp = false ∧ halted.gauntletUp = true := by decide +kernel

/-! ## The network and Tilth -/

/-- Module 5 with port 15 up at full width, and a half at context 3 that sends to the module or to another. -/
def net (rs : List (Nat × W64) := []) : State := atStage 9 (rs ++ [(Reg.moduleId, 0x20005), (Reg.linkStat 15, 7)])
def half (sst dmod path : Nat) : SendHalf := { sstate := sst, dmod := dmod, path := path, dctx := 7, npsn := 0xFFFFFF, win := 8 }
def sending (h : SendHalf) : State := { net with send := [(3, h)] }
/-- Routes for module 9: its paths 0 and 1 leave by port 15, path 2 by port 14. -/
def routed (h : SendHalf) (rs : List (Nat × W64) := []) : State :=
  { net (rs ++ [(Reg.linkStat 14, 7)]) with
    send := [(3, h)], swtab := [(swKey net.swCopy 1 0 (9 / 8), bytesOf 16 [(0, 0x2F), (4, 0x2F), (8, 0x2E)])] }
def pkt1 : Pkt := { typ := 1, eoc := true, eot := true, chunk := 4, tok := 0x3001, data := [1, 2, 3], src := 0 }
/-- A frame that module 9 sends to module 5. -/
def frame95 : Bytes :=
  (net [(Reg.moduleId, 0x20009)]).tilthFrame 0 5 (tilthHeader 1 2 3 9 0 5 4 7 1 0 0 0) [1, 2, 3]
def framed : State := { net with egq := [(32 * 30 + 20, [frame95])], swtab := [(swKey net.swCopy 2 30 0, [20])], regs := (Reg.hvpCfg, 1) :: net.regs }
/-- A PTP frame over Ethernet, and one with UDP port 319 over IPv4. -/
def framePtp : Bytes := List.replicate 12 0 ++ [0x88, 0xF7] ++ List.replicate 44 0
def framePtp4 : Bytes := List.replicate 12 0 ++ [8, 0, 0x45] ++ List.replicate 8 0 ++ [17] ++ List.replicate 12 0 ++ [1, 0x3F] ++ List.replicate 44 1
theorem test_frames : (net.reg (Reg.rxDrop 15)).toNat + 1 < 2 ^ 64 - 1 ∧ beNum frame95 (etherAt frame95) 2 = 0x86DD ∧
    udpPort frame95 = some (net.fld Reg.tilthCfg 15 0, 14) ∧ ptpAt frame95 = none ∧ net.idValid = true ∧
    (∃ a ∈ parseTilth frame95 14, a.crcOk = true ∧ a.data = [1, 2, 3] ∧ a.dctx = 7 ∧ a.smod = 9) ∧
    parseTilth (frame95.take 62) 14 = none ∧ beNum frame95 46 8 = net.ownId ∧ (net [(Reg.moduleId, 0x20006)]).ownId ≠ 5 ∧
    beNum (frame95.set 21 1) 21 1 ≤ 1 ∧ beNum framePtp (etherAt framePtp) 2 ≠ 0x88CC ∧ ptpAt framePtp = some 14 ∧ ptpAt framePtp4 = some 42 ∧
    beNum framePtp 14 1 % 16 = 0 ∧ beNum framePtp4 42 1 % 16 = 1 ∧ (net.at_ 0).time = 0 ∧
    framed.egQueue 30 20 = [frame95] ∧ framed.egQueue 30 ownSrc = [] ∧ (framed.at_ 0).mayStart 15 false = true ∧
    framed.flag Reg.hvpCfg 0 = true ∧ ((framed.at_ 0).recentStarts 15 false).any (fun z => z.2 && framed.slotAt 15 false z.1 == 0) = false ∧
    dfld (Tab.get [] framed.swtab (swKey framed.swCopy 2 30 (framed.slotAt 15 false 0 % 1024))) 0 1 % 32 = 20 ∧
    (net.egQueue 30 0 = [] ∧ ({ net with egq := [(32 * 30 + ownSrc, [framePtp])] }).egQueue 30 ownSrc = [framePtp]) ∧
    net.egressUp 14 0 = false ∧
    (after (.calendarSlot 15 false 0) framed).out.length = 1 := by decide +kernel
/-- The check value that the CRC of IEEE 802.3 gives the text 123456789. -/
theorem test_fcs : (~~~ (((ascii "123456789").foldl (crcByte polyFcs) 0xFFFFFFFF).setWidth 32) : W32) = 0xCBF43926 := by decide +kernel
theorem test_sending : (sending { half 1 5 0 with todo := [pkt1] }).sendHalf 3 = { half 1 5 0 with todo := [pkt1] } ∧
    pwValid ((routed (half 1 9 0)).route 9 0) = true ∧ (routed (half 1 9 0)).egressUp 15 0 = true ∧ (routed (half 1 9 0)).idValid = true ∧
    pwPort ((routed (half 1 9 0)).route 9 0) = 15 ∧ pwSub ((routed (half 1 9 0)).route 9 0) = 0 ∧
    ((routed (half 1 9 2)).send.map (·.1)).Nodup ∧
    ((after (.packetRelease 3) (sending { half 1 5 0 with todo := [pkt1] })).sendHalf 3).npsn = 0 ∧
    ((after (.packetRelease 3) (routed { half 1 9 0 with todo := [pkt1] })).egQueue 30 16).length = 1 ∧
    ((after (.retransmitTimeout 3) (sending { half 2 5 2 with retries := 8, unacked := [pkt1] })).sendHalf 3).sstate = 3 ∧
    (routed (half 1 9 1) [(Reg.linkStat 15, 0)]).egressUp 15 0 = false ∧ (routed (half 1 9 1)).egressUp 14 0 = true ∧
    pwPort ((routed (half 1 9 0)).route 9 2) = 14 ∧
    ((after (.egressDown 15 false) (routed (half 1 9 1) [(Reg.linkStat 15, 0)])).sendHalf 3).path = 2 ∧
    ((after (.retransmitTimeout 3) (routed { half 2 9 0 with retries := 8, unacked := [pkt1] })).sendHalf 3).path = 1 ∧
    ((after (.rateIncrease 3) (sending { half 1 9 0 with rate := 63 })).sendHalf 3).rate = 63 := by decide +kernel
/-- An ACK of PSN 0xFFFFFF with CE, or a NAK, and the transfer that waits for its CONFIRM. -/
def ackPkt (nak : Bool) : RxPkt := ⟨2, false, false, false, true, nak, 9, 0, 7, 3, 0, 0xFFFFFE, 0, 12, [], true, false⟩
def acked (nak : Bool) : State :=
  { routed { half 1 9 0 with rate := 9, infl := 2, unacked := [{ pkt1 with psn := 0xFFFFFE }, { pkt1 with psn := 0xFFFFFF }] } with
    ackIn := [ackPkt nak] }
def confirming : State := sending { half 1 9 0 with provs := [⟨0x3801, 0, 0, none, 0, true⟩] }
theorem test_acks : (acked true).ackIn = [ackPkt true] ∧ ((acked true).sendHalf 3).sstate = 1 ∧ pwValid ((acked true).route 9 0) = true ∧
    ((after .tilthAckReceive (acked false)).sendHalf 3).unacked = [{ pkt1 with psn := 0xFFFFFF }] ∧
    ((after .tilthAckReceive (acked false)).sendHalf 3).rate = 4 ∧ (after .tilthAckReceive (acked true)).reg Reg.tilthRetx = 1 ∧
    (confirming.sendHalf 3).provs = [⟨0x3801, 0, 0, none, 0, true⟩] ∧
    ((after (.confirmSend 3) confirming).sendHalf 3).todo.map (·.tok) = [1] := by decide +kernel

/-- A packet for context 7 under a PSN, and a receive half of a kind that expects PSN 0, its target context 0 of engine 0. -/
def rxPkt (typ psn : Nat) (ok : Bool := true) : RxPkt :=
  ⟨typ, false, true, true, false, false, 9, 1, 4, 7, psn, 0, 0x3801, 0, [1, 2, 3], ok, true⟩
def rhalf (kind : Nat) : RecvHalf := { rstate := 1, kind := kind, pmod := 9, pctx := 4 }
/-- A receive descriptor at Sand 0: four slots from 65,536 for one sender, RD = 3, WR = 5; and a place in Loam. -/
def rdesc : Bytes := bytesOf 64 [(0, 4096), (4, 4), (16, loam0 + 2 ^ 47 * 5), (32, 1), (40, 3), (48, 5)]
def chunk1 : RxChunk := ⟨0, [7, 8, 9], false, 0x3801, false, 0⟩
/-- Write slots of logical engine 62, Tilth's, on the Loam channels of a place (R296). -/
def writeSlot (le : Nat) (offs : List Nat) : Tab (List W32) :=
  offs.map (fun a => (chanLoam (loamMap 0 a), [0x80008060 + BitVec.ofNat 32 (le * 65536)]))
def receiving (h : RecvHalf) (ks : List RxPkt := []) : State :=
  { net part0 with
    eng := [(0, { sand := memOf [(2 ^ 20, rdesc)], ctx := [(0, { st := .running })] })], recv := [(7, { h with target := 2 ^ 22 })]
    tilthIn := [(1, ks)], slots := writeSlot 62 [65536] }
/-- The same queue, the slot of whose next chunk is held by the context's segment. -/
def heldQueue : State :=
  { receiving (rhalf 0) with eng := [(0, { sand := memOf [(2 ^ 20, rdesc)], ctx := [(0, { st := .running, hranges := [⟨0, 69632, 8⟩] })] })] }
theorem test_reception : Tab.get [] (receiving (rhalf 0) [rxPkt 1 0]).tilthIn 1 = [rxPkt 1 0] ∧ (rxPkt 1 0).crcOk = true ∧
    ((receiving (rhalf 0)).recvHalf 7).rstate = 1 ∧ (receiving (rhalf 0)).recvTarget ((receiving (rhalf 0)).recvHalf 7) = some (0, 0, 2 ^ 20) ∧
    (receiving (rhalf 0)).sandBytes 0 0 (2 ^ 20) 64 = rdesc ∧ rdSenders rdesc = 1 ∧ rdSize rdesc = 4 ∧ rdRd rdesc = 3 ∧ rdWr rdesc = 5 ∧
    ((receiving (rhalf 0)).engine 0).sand.wf = true ∧ rdBase rdesc + rdSize rdesc * 65536 ≤ 2 ^ 20 ∧
    (receiving (rhalf 0)).stuck (.tilth 7) = false ∧ ((receiving (rhalf 0)).ctx 0 0).holds 0 (4096 + 65536) 3 = false ∧
    (heldQueue.ctx 0 0).holds 0 (4096 + 65536) 3 = true ∧ (receiving (rhalf 1)).epochMeets 65536 3 = false ∧
    (receiving (rhalf 1)).gaBad 0 (dfld rdesc 16 8) = none ∧ (receiving (rhalf 1)).gaRangeOk 0 2 65536 3 = true ∧
    gaTier (dfld rdesc 16 8) = 2 ∧ gaOff (dfld rdesc 16 8) = 0 := by decide +kernel
theorem test_received : ((after (.tilthDataReceive 1) (receiving (rhalf 0) [rxPkt 1 0])).recvHalf 7).done = [⟨0, [1, 2, 3], true, 0x3801, false, 0⟩] ∧
    (after (.tilthDataReceive 1) (receiving (rhalf 0) [rxPkt 1 0xFFFFFF])).reg Reg.tilthDup = 1 ∧
    ((after (.tilthDataReceive 1) (receiving (rhalf 0) [rxPkt 1 1])).recvHalf 7).nak = true ∧
    (after (.tilthDataReceive 1) (receiving (rhalf 0) [rxPkt 1 0 false])).reg (Reg.cuffRxfail 1) = 1 ∧
    (after (.chunkPlacement 7 .ok) (receiving { rhalf 0 with done := [chunk1] })).sandBytes 0 0 (4096 + 65536) 3 = [7, 8, 9] ∧
    (after (.chunkPlacement 7 .ok) (receiving { rhalf 0 with done := [chunk1] })).sandBytes 0 0 (2 ^ 20 + 48) 1 = [6] ∧
    (after (.chunkPlacement 7 .ok) (receiving { rhalf 1 with done := [chunk1], placed := 1 })).loamBytes 65536 3 = [7, 8, 9] ∧
    ((after (.tilthConfirmReceive 1) (receiving (rhalf 0) [rxPkt 3 0])).ctx 0 0).tokens 6 = [0x6001] ∧
    ((after (.tilthRetractReceive 1) (receiving (rhalf 1) [rxPkt 4 0])).ctx 0 0).rep = .restoring ∧
    ((after (.ackSend 7) (receiving { rhalf 4 with ackpend := true, pmod := 5, nak := true })).ackIn).map (·.grant) = [3] := by
  decide +kernel

/-- The last 16 bytes of a chunk, of a D.GET of a row that goes on in the next chunk of the half's receive queue. -/
def xrxq : Xfer := { xfer .get (bytesOf 64 [(24, 8192), (28, 65552), (40, 1), (43, 1), (48, 7)]) 5 0 with rxq := true, off := 65520 }
def getting : State :=
  { withRegs (running [] { sand := memOf [(2 ^ 20, rdesc), (4096 + 3 * 65536 + 65520, [7, 8, 9])] } { xfers := [xrxq] }) part0 with
    recv := [(7, { rhalf 0 with target := 2 ^ 22 })] }
theorem test_rxq_piece : (getting.ctx 0 0).xfer 3 = some xrxq ∧ getting.rxqPiece 0 0 xrxq = some (4096 + 3 * 65536 + 65520, 16) ∧
    (getting.digestRow 0 0 xrxq.desc 0 []).isSome = true ∧ getting.holds? 0 0 = true ∧ getting.stuck (.locked 0 0) = false ∧
    xrxq.off + 16 < xRbytes xrxq.desc ∧
    (after (.transferPieceLanding 0 0 3 .ok .ok) getting).sandBytes 0 0 (8192 + 65520) 3 = [7, 8, 9] := by
  decide +kernel

/-- Entry 2 of the reduction table: FP32 sums of two senders from context 16, one chunk of four bytes, out by context 3. -/
def pd2 : Bytes := bytesOf 68 [(4, 2), (8, 16), (12, 1), (16, 4), (28, 1), (30, 0x3005), (64, 3)]
/-- Operand chunks 1.0, which came second, and 2.0. -/
def op1 (stamp x : Nat) : RxChunk := ⟨stamp, leBytes 4 x, true, 0, false, 0⟩
def reducing (f : Fold) (det : W64) : State :=
  { sending { half 1 9 0 with credit := 5 } with
    regs := (Reg.detCtl, det) :: net.regs, swtab := [(swKey net.swCopy 4 0 2, pd2)], folds := [(2, f)]
    recv := [(16, { rhalf 3 with done := [op1 8 0x3F800000] }), (17, { rhalf 3 with done := [op1 7 0x40000000] })] }
theorem test_reduction : (reducing {} 1).pdEntry 2 = pd2 ∧ dfld pd2 4 4 = 2 ∧ dfld pd2 8 4 = 16 ∧ dfld pd2 0 1 = 0 ∧ dfld pd2 12 4 = 1 ∧
    dfld pd2 16 4 = 4 ∧ pdOuts pd2 = [3] ∧ (reducing {} 1).outsRoom pd2 4 = true ∧ (reducing {} 1).strict = true ∧ (reducing {} 0).strict = false ∧
    foldChunk 0 (leBytes 4 0x3F800000) (leBytes 4 0x40000000) = leBytes 4 0x40400000 ∧
    ((after (.reductionFold 2 false) (reducing {} 0)).sendHalf 3).todo.map (·.data) = [leBytes 4 0x40400000] ∧
    (Tab.get {} (after (.reductionFold 2 true) (reducing {} 1)).folds 2).missed = true ∧
    ((after (.reductionFold 2 true) (reducing ⟨0, true⟩ 1)).recvHalf 17).done = [] := by decide +kernel

/-- A record of bundle 8, epoch 9: index 1, the last of two, 16 bytes long. -/
def record1 : Bytes := bytesOf 80 [(0, 8), (8, 9), (16, 1), (24, 16)]
def relay0 (fwd keep : Bool) : RelayRec := ⟨record1, fwd, keep⟩
/-- Chain 0 into epoch slot 2 from context 7, out by context 3, keeping records 1 and 2; slot 2 loads its two records. -/
def relaying (buf : List RelayRec) (ver : Nat) : State :=
  { net [(Reg.relayA 0, BitVec.ofNat 64 (1 + 2 * 4 + 7 * 2 ^ 8 + 3 * 2 ^ 28)), (Reg.relayB 0, BitVec.ofNat 64 (1 + 3 * 2 ^ 32)),
      (Reg.epsStat 2, 1), (Reg.epsId 2, 9), (Reg.epsProg 2, BitVec.ofNat 64 (ver + 2 * 2 ^ 32)), (Reg.partWin 0, 0x17700060)] with
    recv := [(7, { rhalf 4 with done := [⟨0, record1, true, 0, false, 0⟩] })], send := [(3, { half 1 9 0 with credit := 5 })]
    relay := [(0, buf)], slots := writeSlot 63 [65536], eps := [(2, { bundle := 8, key := 16, dest := 65536 })], keys := [(16, [1])] }
theorem test_relays : (relaying [] 0).flag (Reg.relayA 0) 0 = true ∧ (relaying [] 0).flag (Reg.relayA 0) 1 = false ∧
    (relaying [] 0).fld (Reg.relayA 0) 27 8 = 7 ∧ (relaying [] 0).fld (Reg.relayA 0) 47 28 = 3 ∧ (relaying [] 0).fld (Reg.relayA 0) 3 2 = 2 ∧
    ((relaying [] 0).recvHalf 7).kind = 4 ∧ ((relaying [] 0).sendHalf 3).room 80 = true ∧ (relaying [] 0).epState 2 = 1 ∧
    dfld record1 0 8 = 8 ∧ dfld record1 8 8 = 9 ∧ dfld record1 16 8 = 1 ∧ dfld record1 24 4 = 16 ∧
    (relaying [] 1).fld (Reg.epsProg 2) 63 32 = 2 ∧ (relaying [] 1).fld (Reg.epsProg 2) 31 0 = 1 ∧ (relaying [] 1).loam.wf = true ∧
    (after (.relayRecordComplete 0) (relaying [] 0)).relayBuf 0 = [relay0 true true] ∧
    (after (.relayForward 0) (relaying [relay0 true true, relay0 true false] 0)).relayBuf 0 = [relay0 false true, relay0 true false] ∧
    (relaying [] 0).loamHolders ((relaying [] 0).fld (Reg.epsStat 2) 5 3) 65536 16 = [] ∧
    ({ relaying [] 0 with eng := [(0, { ctx := [(0, { st := .running, hranges := [⟨2, 65536, 8⟩] })] })] }).loamHolders 0 65536 16 = [(0, 0)] ∧
    (relaying [] 0).epochMeets 2097152 16 = false ∧ (relaying [] 0).relayBuf 0 = [] ∧ ((relaying [] 0).recvHalf 7).target % 8 = 0 ∧
    (after (.bundleChunkVerify 0 true) (relaying [relay0 true true] 1)).flag (Reg.epsStat 2) 28 = true := by decide +kernel

/-! ## Management and planned starts -/

/-- A record of partition 1 waits; one is kept, or 4,096 are. -/
def errRec1 : ErrRec := { cls := 0x0A, part := some 1 }
def reporting (n : Nat) : State :=
  { net with recBuf := [(3, [errRec1])], mgmt := { seq := 77, unacked := List.replicate n (5, [1]) } }
def nbr9 : Neighbour := ⟨9, true, 4, true, 0x123456789⟩
/-- A frame of the module's own waits at egress 15.0; the sub-port has received a Delay_Req. -/
def waitingOwn : State := { net with egq := [(32 * 30 + ownSrc, [[0]])] }
def answering : State := { net with ptp := [(30, { reqRx := some (List.replicate 44 0, 3) })] }
theorem test_management : net.gauntletUp = true ∧ (reporting 1).nextRecord = some (3, errRec1, []) ∧
    (reporting 1).flag Reg.errCfg 1 = false ∧ ((reporting 1).reg Reg.errLost).toNat + 1 < 2 ^ 64 - 1 ∧
    (reporting 1).mgmt.unacked.find? (fun e => e.1 == 5) = some (5, [1]) ∧ net.portUp 15 = true ∧ net.portsLive = true ∧ net.stage = 9 ∧
    net.egressUp 15 0 = true ∧ net.egressUp 14 1 = false ∧ net.egQueue 30 ownSrc = [] ∧ (net.at_ 5).mayStart 15 false = true ∧ net.mayStart 14 false = false ∧
    (waitingOwn.egQueue 30 ownSrc ≠ [] ∧ waitingOwn.mayStart 15 false = true) ∧ net.ptpMessage 30 .followUp = none ∧
    (net.ptpMessage 30 .sync).isSome = true ∧ (answering.ptpMessage 30 .delayResp).isSome = true ∧
    (Tab.get {} (after (.ptpMessageTransmit 15 false .sync 5) net).ptp 30).seq = 1 ∧ (Tab.get {} (after (.ptpMessageTransmit 15 false .sync 5) net).ptp 30).syncTx = some (0, 5) ∧
    (net [(Reg.nbr 15, 2 ^ 23)]).flag (Reg.nbr 15) 23 = true ∧
    (after .errorRecordSend (reporting 1)).mgmt.seq = 78 ∧ (after (.collectorAck 5) (reporting 1)).mgmt.unacked = [] ∧
    (after (.lldpReceive 15 nbr9) net).fld (Reg.nbr 15) 63 32 = 0x23456789 ∧ (after (.lldpTransmit 15) net).out.length = 1 := by
  decide +kernel
theorem test_full_log : (reporting 4096).nextRecord = some (3, errRec1, []) ∧ 4096 ≤ (reporting 4096).mgmt.unacked.length := by
  refine ⟨by decide +kernel, ?_⟩
  show 4096 ≤ (List.replicate 4096 _).length
  exact Nat.le_of_eq List.length_replicate.symm

/-- A plan that places modules 4 to 6 in one group of eight and expects a neighbour at port 15. -/
def plan1 (tol : Bool) : Plan := ⟨42, [(100, 4), (101, 5), (102, 6)], [(15, 9)], [], 3, tol⟩
/-- A planned start of module `id` that awaits its answer; a module without a place; one in PLAN. -/
def planned (id : Nat) (m : Mgmt := {}) (tol : Bool := false) : State :=
  { atStage 7 [(Reg.moduleId, BitVec.ofNat 64 (0x20000 + id))] with store := { mrec := { mgr := true }, plan := some (plan1 tol) }, mgmt := m }
def unplaced : State := withRegs { atStage 7 with store := { mrec := { mgr := true } } } [(Reg.bootStat, 0x87)]
/-- GO for plan 42. -/
def order42 : GoOrder := ⟨42, 1, [⟨.firmware, [], []⟩], [], none⟩
def planning (tol : Bool) : State :=
  { planned 5 { go := some order42 } tol with regs := (Reg.bootStat, 8) :: (planned 5).regs, send := [(0xFFF00, half 1 9 0), (2, half 1 9 0)] }
theorem test_planned : (planned 4).awaitsGo = true ∧ (planned 4).leads = true ∧ (planned 5).leads = false ∧
    (planned 5).deputy = some (planned 5).ownId ∧ (planned 6).deputy = some 5 ∧ (planned 6).ownId = 6 ∧ (planned 4).group_ = [4, 5, 6] ∧
    (planned 4).flag Reg.bootStat 7 = false ∧ unplaced.awaitsGo = true ∧ unplaced.flag Reg.bootStat 7 = true ∧ unplaced.idValid = false ∧
    (planning true).goPlan allOk = some (plan1 true) ∧ (planning true).planFirmware allOk = none ∧ (planning true).gaunt.loam = none ∧
    (planning true).gaunt.restarting = false ∧ (planning true).boot.powered = true ∧ (planning true).planFirmware { allOk with fw := some image1 } = some image1 ∧ (planning true).stage = 8 ∧ (planning false).portShort (plan1 false) = true ∧
    (atStage 4).gauntletUp = true ∧
    (after (.join (.member 6)) (planned 4)).mgmt.joined = [6] ∧
    (after (.register none) (planned 5 { joined := [6] })).out = [.mgmt (.register [5, 6] (some 4))] ∧
    (after (.register none) unplaced).out = [.mgmt (.register [] none)] ∧
    (after (.go { order42 with assign := some 9 } 0) { unplaced with mgmt := { registered := true } }).ownId = 9 ∧
    (after (.stageAdvance allOk) (planning true)).stage = 9 ∧ (after (.hold [5]) (planned 4 { registered := true })).mgmt.held = some [5] := by decide +kernel

/-! ## More of the network -/

/-- A frame of module 9 for module 6 passes through module 5: its route leaves by port 14, whose queue for port 15 has room. -/
def frame96 : Bytes :=
  (net [(Reg.moduleId, 0x20009)]).tilthFrame 0 6 (tilthHeader 1 2 3 9 0 6 4 7 1 0 0 0) [1, 2, 3]
def passing (q : List Bytes) (ecn : W64) : State :=
  { net [(Reg.linkStat 14, 7), (Reg.ecnCfg, ecn)] with
    egq := [(32 * 28 + 15, q)]
    swtab := [(swKey net.swCopy 0 0 6, bytesOf 16 [(0, 0x2E), (4, 0x2E), (8, 0x2E)]), (swKey net.swCopy 3 15 14, bytesOf 4 [(0, 300)])] }
/-- The same frame with the ECT(0) code, and the frame as module 5 hands it on. -/
def frame96e : Bytes := frame96.take 15 ++ [0x20] ++ frame96.drop 16
theorem test_transit : pwValid ((passing [] 0).route 6 0) = true ∧ pwPort ((passing [] 0).route 6 0) = 14 ∧ (passing [] 0).ownId = 5 ∧
    (∃ a ∈ parseTilth frame96 14, a.path = 0) ∧ beNum frame96 46 8 = 6 ∧ 1 < beNum frame96 21 1 ∧ frame96.length ≤ 300 ∧
    ((after (.frameReceive 15 false true frame96) (passing [] 0)).egQueue 28 15).map (fun f => (f.length, beNum f 21 1, f.drop 22 == frame96.drop 22))
      = [(frame96.length, beNum frame96 21 1 - 1, true)] ∧
    (after (.frameReceive 15 false true frame96) (passing [List.replicate 250 0] 0)).reg (Reg.swDrop 15) = 1 := by decide +kernel
/-- A marked one: over 0 × 256 bytes of the queue an ECT frame becomes CE and counts (R378). -/
theorem test_mark : beNum frame96e 14 4 / 2 ^ 20 % 4 = 2 ∧ (passing [] 0x10000).flag Reg.ecnCfg 16 = true ∧
    ((after (.frameReceive 15 false true frame96e) (passing [] 0x10000)).egQueue 28 15).map (fun f => beNum f 14 4 / 2 ^ 20 % 4) = [3] ∧
    (after (.frameReceive 15 false true frame96e) (passing [] 0x10000)).reg (Reg.ecnMark 14) = 1 := by decide +kernel
/-- A Tilth frame that waits at a miscabled port goes nowhere; a Sync and a Delay_Req are stamped; an ACK that frees a packet opens
a half in RETRY (R392, R403, R553). -/
def miscabled : State := { framed with regs := (Reg.nbr 15, 0x2000000) :: framed.regs }
def retrying : State := { acked false with send := [(3, { (acked false).sendHalf 3 with sstate := 2, retries := 5 })] }
theorem test_frames_more : miscabled.isTilth frame95 = true ∧ miscabled.fld (Reg.nbr 15) 25 24 = 2 ∧ miscabled.egQueue 30 ownSrc = [] ∧
    (after (.calendarSlot 15 false 0) miscabled).out = [] ∧ (after (.calendarSlot 15 false 0) miscabled).egQueue 30 20 = [] ∧
    (Tab.get {} (after (.frameReceive 15 false true framePtp) net).ptp 30).syncRx.isSome = true ∧
    (Tab.get {} (after (.frameReceive 15 false true framePtp4) net).ptp 30).reqRx.isSome = true ∧
    (retrying.sendHalf 3).sstate = 2 ∧ ((after .tilthAckReceive retrying).sendHalf 3).sstate = 1 ∧
    ((after .tilthAckReceive retrying).sendHalf 3).retries = 0 ∧ confirming.checksDue 0 0 = false ∧
    (confirming.ctx 0 0).rep ≠ .restoring := by decide +kernel

/-- A queue that halves 7 and 8 share: eight slots from 65,536 at Sand 0; a chunk of half 8 came first. -/
def rdesc2 : Bytes := bytesOf 64 [(0, 4096), (4, 8), (32, 2), (36, 0), (28, 7), (40, 3), (48, 5)]
def chunkEnd (stamp : Nat) : RxChunk := ⟨stamp, [7, 8, 9], true, 0x3801, false, 0⟩
def sharing (det : W64) (e : Exch) (a b : List RxChunk) (o : Bytes := rdesc2) (kind : Nat := 0) : State :=
  { net (part0 ++ [(Reg.detCtl, det)]) with
    eng := [(0, { sand := memOf [(2 ^ 20, o)], ctx := [(0, { st := .running })] })], exch := [(7, e)], slots := writeSlot 62 [0]
    recv := [(7, { rhalf kind with target := 2 ^ 22, done := a }), (8, { rhalf kind with target := 2 ^ 22, done := b })] }
theorem test_shared_queue : rdSenders rdesc2 = 2 ∧ rdFirst rdesc2 = 7 ∧ rdSize rdesc2 = 8 ∧
    (sharing 1 {} [chunkEnd 4] [chunkEnd 2]).strict = true ∧ (sharing 1 {} [chunkEnd 4] [chunkEnd 2]).stuck (.tilth 8) = false ∧
    ((after (.chunkPlacement 8 .ok) (sharing 1 {} [chunkEnd 4] [chunkEnd 2])).recvHalf 8).done = [chunkEnd 2] ∧
    ((after (.chunkPlacement 7 .ok) (sharing 1 {} [chunkEnd 4] [chunkEnd 2])).recvHalf 7).done = [] ∧
    Tab.get {} (after (.chunkPlacement 7 .ok) (sharing 1 {} [chunkEnd 4] [chunkEnd 2])).exch 7 = { begun := true, turn := 1 } ∧
    ((after (.chunkPlacement 7 .ok) (sharing 1 {} [chunkEnd 4] [chunkEnd 2])).ctx 0 0).tokens 3 = [0x3801] ∧
    ((after (.chunkPlacement 7 .ok) (sharing 0 {} [chunkEnd 4] [chunkEnd 2])).recvHalf 7).done = [chunkEnd 4] ∧
    ((after (.chunkPlacement 8 .ok) (sharing 0 {} [chunkEnd 4] [chunkEnd 2])).recvHalf 8).done = [] ∧
    (let t := { sharing 1 { begun := true, turn := 1 } [] [chunkEnd 2] with
       recv := [(7, { rhalf 0 with ended := true }), (8, { rhalf 0 with target := 2 ^ 22, done := [chunkEnd 2] })] }
     Tab.get {} (after (.chunkPlacement 8 .ok) t).exch 7 = {} ∧ ((after (.chunkPlacement 8 .ok) t).recvHalf 7).ended = false) := by
  decide +kernel

/-- An EXPERT exchange of the two halves with rows of two bytes: two rows in the buffer and one in the overflow region at Loam 0, the
count word at 2^20 + 4,096, and the token of its end (R353, R389). -/
def rdescX (rows past : Nat) : Bytes :=
  bytesOf 64 [(0, 4096), (4, rows), (8, 2), (12, 2 ^ 20 + 4096), (16, 0), (24, past), (28, 7), (32, 2), (36, 0x3802), (48, 5)]
def chunkX (stamp n : Nat) (eot : Bool) : RxChunk := ⟨stamp, (List.range n).map (fun i => BitVec.ofNat 8 (i + 1)), eot, 0x3801, false, 0⟩
def experting (o : Bytes) (e : Exch) (a b : List RxChunk) (ended : Bool := false) : State :=
  { sharing 1 e a b o 2 with
    recv := [(7, { rhalf 2 with target := 2 ^ 22, done := a, ended := ended }), (8, { rhalf 2 with target := 2 ^ 22, done := b })] }
/-- Half 8 has the turn and ends the exchange of four bytes, of which two lie in the buffer. -/
def ending (n : Nat) : State := experting (rdescX 2 1) { begun := true, turn := 1, bytes := 2 } [] [chunkX 2 n true] true
theorem test_expert : (ending 2).stuck (.tilth 8) = false ∧ ((ending 2).recvHalf 8).kind = 2 ∧ ((ending 2).ctx 0 0).hranges = [] ∧
    (ending 4).writerReach 0 62 2 0 2 = true ∧ (ending 2).epochMeets 0 2 = false ∧
    (after (.chunkPlacement 8 .ok) (ending 2)).sandBytes 0 0 4098 2 = [1, 2] ∧
    (after (.chunkPlacement 8 .ok) (ending 2)).sandBytes 0 0 (2 ^ 20 + 4096) 8 = leBytes 8 2 ∧
    ((after (.chunkPlacement 8 .ok) (ending 2)).ctx 0 0).tokens 3 = [0x3801, 0x3802] ∧
    Tab.get {} (after (.chunkPlacement 8 .ok) (ending 2)).exch 7 = {} ∧
    (after (.chunkPlacement 8 .ok) (ending 4)).loamBytes 0 2 = [3, 4] ∧
    (after (.chunkPlacement 8 .ok) (ending 4)).sandBytes 0 0 (2 ^ 20 + 4096) 8 = leBytes 8 3 := by decide +kernel
/-- It overflows, or its last sender ends inside a row: the exchange is discarded and delivers no token; a sender that has not the
turn waits; under STRICT a chunk of the first opens the exchange (R389). -/
theorem test_expert_bad : ((after (.chunkPlacement 8 .ok) (ending 6)).ctx 0 0).tokens 3 = [] ∧
    (after (.chunkPlacement 8 .ok) (ending 6)).sandBytes 0 0 (2 ^ 20 + 4096) 1 = [0] ∧
    ((after (.chunkPlacement 8 .ok) (ending 3)).ctx 0 0).tokens 3 = [] ∧
    ((after (.chunkPlacement 8 .ok) (experting (rdescX 2 1) {} [] [chunkX 2 2 true])).recvHalf 8).done.length = 1 ∧
    Tab.get {} (after (.chunkPlacement 7 .ok) (experting (rdescX 2 1) {} [chunkX 2 2 true] [])).exch 7 = { begun := true, turn := 1, bytes := 2 } ∧
    ((after (.chunkPlacement 7 .ok) (experting (rdescX 2 1) {} [chunkX 2 2 true] [])).ctx 0 0).tokens 3 = [0x3801] := by decide +kernel
/-- The read of a descriptor that fails replays the context, or ends it where the commit holds the word (R283, R512). -/
def badDesc (held : List HRange) : State :=
  { receiving { rhalf 0 with done := [chunk1] } with
    eng := [(0, { sand := memOf [(2 ^ 20, rdesc)], ctx := [(0, { st := .running, hranges := held })] })] }
theorem test_desc_error : ((badDesc []).ctx 0 0).going = false ∧ ((badDesc []).ctx 0 0).shadow = false ∧
    ((after (.chunkPlacement 7 (.uncorrectable 0 none)) (badDesc [])).ctx 0 0).rep = .restoring ∧
    ((badDesc [⟨0, 2 ^ 20, 64⟩]).ctx 0 0).holds 0 (sramAt 0 (2 ^ 20) 64 0) 8 = true ∧
    ((after (.chunkPlacement 7 (.uncorrectable 0 none)) (badDesc [⟨0, 2 ^ 20, 64⟩])).ctx 0 0).st = .halted := by decide +kernel
/-- A RETRACT of provisional transfer 0x3801 that began two chunks before: both come back, and the tokens of that transfer go; an ACK
tells of a rise alone (R391, R517). -/
def retracting : State :=
  { receiving { rhalf 1 with provs := [(0x3801, 2, 9)], echunk := 5, placed := 4, done := [⟨0, [1], true, 0x3801, true, 9⟩, ⟨1, [2], false, 0, true, 10⟩] }
      [{ rxPkt 4 0 with tok := 0x3801, prov := true }] with
    eng := [(0, { ctx := [(0, { st := .running, queue := [(3, [0x3801])], netTags := [⟨7, 9, true⟩] })] })] }
theorem test_retract_rewinds : (retracting.recvHalf 7).kind = 1 ∧ (retracting.ctx 0 0).shadow = false ∧
    ((after (.tilthRetractReceive 1) retracting).recvHalf 7).echunk = 3 ∧
    ((after (.tilthRetractReceive 1) retracting).recvHalf 7).placed = 3 ∧
    ((after (.tilthRetractReceive 1) retracting).recvHalf 7).done.map (·.xfer) = [10] ∧
    ((after (.tilthRetractReceive 1) retracting).ctx 0 0).tokens 3 = [] ∧ ((after (.tilthRetractReceive 1) retracting).ctx 0 0).rep = .restoring := by
  decide +kernel
theorem test_ack_rise : let s := receiving { rhalf 4 with pmod := 5, grant := 1 }
    let u := receiving { rhalf 4 with pmod := 5, grant := 9 }
    s.grantOf (s.recvHalf 7) = 3 ∧ ((after (.ackSend 7) s).recvHalf 7).raised = true ∧ (after (.ackSend 7) s).ackIn.length = 1 ∧
    (after (.ackSend 7) u).ackIn = [] := by decide +kernel

/-- Entry 2 for three senders, under STRICT in sender order and otherwise in the order of arrival; a chunk of another length; and no
room on the way out (R398). -/
def pd3 : Bytes := bytesOf 68 [(4, 3), (8, 16), (12, 2), (16, 4), (28, 1), (30, 0x3005), (64, 3)]
def three (det : W64) (x : Bytes) (credit : Nat := 5) : State :=
  { sending { half 1 9 0 with credit := credit } with
    regs := (Reg.detCtl, det) :: net.regs, swtab := [(swKey net.swCopy 4 0 2, pd3)]
    recv := [(16, { rhalf 3 with done := [⟨8, leBytes 4 0x3F800000, false, 0, false, 0⟩] }),
             (17, { rhalf 3 with done := [⟨7, leBytes 4 0x40000000, false, 0, false, 0⟩] }),
             (18, { rhalf 3 with done := [⟨9, x, false, 0, false, 0⟩] })] }
def three4 : Bytes := leBytes 4 0x40800000
theorem test_three_senders : (three 1 three4).pdEntry 2 = pd3 ∧ dfld pd3 4 4 = 3 ∧ (pdOuts pd3).Nodup ∧
    (three 1 three4).outsRoom pd3 4 = true ∧ (three 1 three4 65535).outsRoom pd3 4 = false ∧
    ((after (.reductionFold 2 false) (three 1 three4)).sendHalf 3).todo.map (·.data) = [leBytes 4 0x40E00000] ∧
    Tab.get {} (after (.reductionFold 2 false) (three 0 three4)).folds 2 = { pos := 1 } ∧
    ((after (.reductionFold 2 false) (three 1 [1, 2])).recvHalf 16).done = [] ∧
    ((after (.reductionFold 2 false) (three 1 [1, 2])).sendHalf 3).todo = [] := by decide +kernel
/-- A broadcast context hands its chunk on (R401). -/
def broadcasting (credit : Nat) : State :=
  { sending { half 1 9 0 with credit := credit } with
    swtab := [(swKey net.swCopy 4 0 2, pd3)], recv := [(16, { rhalf 5 with target := 2, done := [⟨8, [4, 5], true, 0x3801, false, 0⟩] })] }
theorem test_broadcast : ((broadcasting 5).recvHalf 16).kind = 5 ∧ (broadcasting 5).stuck (.tilth 16) = false ∧
    (broadcasting 5).outsRoom pd3 2 = true ∧ (broadcasting 65535).outsRoom pd3 2 = false ∧
    ((after (.chunkPlacement 16 .ok) (broadcasting 5)).sendHalf 3).todo.map (fun k => (k.data, k.eot, k.tok)) = [([4, 5], true, 0x3801)] ∧
    ((after (.chunkPlacement 16 .ok) (broadcasting 65535)).recvHalf 16).done.length = 1 := by decide +kernel
/-- The relay's place has its write slot, and another has none (R296, R363). -/
theorem test_relay_slots : (relaying [relay0 true true] 0).writerReach 0 63 2 65536 16 = true ∧
    (relaying [relay0 true true] 0).writerReach 0 63 2 131072 16 = false := by decide +kernel
/-- A telemetry datagram goes out when the last is a period old, and not before (R565). -/
def telling (w : W64) : State := { net with mgmt := { lastTel := some w } }
theorem test_telemetry_period : (telling 5).store.mrec.telPeriod = 1000 ∧ (after (.telemetryDatagram 1000000004) (telling 5)).mgmt.lastTel = some 5 ∧
    (after (.telemetryDatagram 1000000005) (telling 5)).mgmt.lastTel = some 1000000005 ∧ net.mgmt.lastTel = none := by decide +kernel
/-- A held group does nothing more; a member with an acknowledgement does not ask the deputy; the answer to a second REGISTER; GO without
a registration; and GO writes its layout (R569, R570, R571). -/
def slice77 : GoOrder := { order42 with layout := [(BitVec.ofNat 26 Reg.sliceBase, 77)] }
theorem test_planned_cases : (after (.join (.member 6)) (planned 4 { held := some [5] })).mgmt.joined = [] ∧
    (after (.register none) (planned 4 { held := some [5] })).out = [] ∧ (after .joinTimeout (planned 6 { acked := true })).out = [] ∧
    (after .joinTimeout (planned 6)).out.length = 1 ∧ (after (.join .ack) (planned 6)).mgmt.acked = true ∧
    (after (.join .ack) (planned 4 { boss := some 5 })).mgmt.acked = true ∧
    (after (.register (some 5)) (planned 4)).mgmt.boss = some 5 ∧ (after (.register (some 5)) (planned 4)).out.length = 2 ∧
    (after (.register none) (planned 4 { registered := true })).out = [] ∧
    (after (.go order42 7) (planned 4)).mgmt.go = none ∧ (after (.go order42 7) (planned 4 { registered := true })).stage = 8 ∧
    ((after (.go order42 7) (planned 4 { registered := true })).ring 4096).on = true ∧
    (after (.go order42 7) (planned 4 { registered := true, joined := [6] })).out.length = 1 ∧
    (after (.go slice77 7) (planned 4 { registered := true })).reg Reg.sliceBase = 77 := by decide +kernel
/-- A new plan is stored and installed, and the old one's is taken as it stands (R568, R571). -/
def replanned : State := { planning true with store := { (planning true).store with plan := some (planPort true) } }
theorem test_new_plan : replanned.goPlan { allOk with plan := some (plan1 true) } = some (plan1 true) ∧
    replanned.store.plan ≠ some (plan1 true) ∧ (after (.stageAdvance { allOk with plan := some (plan1 true) }) replanned).stage = 9 ∧
    (after (.stageAdvance { allOk with plan := some (plan1 true) }) replanned).store.plan = some (plan1 true) ∧
    ((after (.stageAdvance allOk) (planning true)).sendHalf 0xFFF00).sstate = 0 ∧
    ((after (.stageAdvance allOk) (planning true)).sendHalf 2).sstate = 1 := by decide +kernel

/-! ## Well-formed commands -/

/-- An ill-formed command for each check, and a well-formed one beside it. -/
theorem test_wf_registerWrite : (Instr.registerWrite (.func 0) 0 3 0).wf = false ∧ (Instr.registerWrite (.func 0) 0 4 (BitVec.ofNat 64 (2 ^ 32))).wf = false ∧
    (Instr.registerWrite (.func 0) 0 8 (BitVec.ofNat 64 (2 ^ 32))).wf = true := by decide +kernel

theorem test_wf_descriptorFetch : (Instr.descriptorFetch 0 (.got (List.replicate 63 0) false)).wf = false ∧
    (Instr.descriptorFetch 0 (.got (List.replicate 64 0) false)).wf = true := by decide +kernel

theorem test_wf_selfTestEnd : (Instr.selfTestEnd false [⟨3, 0, 0⟩, ⟨3, 1, 0⟩]).wf = false ∧
    (Instr.selfTestEnd false [⟨3, 0, 0⟩, ⟨4, 1, 0⟩]).wf = true := by decide +kernel

theorem test_wf_stageAdvance :
    let p (id n : Nat) : Plan := ⟨0, [(1, id)], [(n, 0)], [], 0, false⟩
    let o (p : Plan) : StageOutcome := ⟨true, true, true, true, true, true, true, true, [], 0, [], [], [], (0, 0), some p, none, 0⟩
    (Instr.stageAdvance (o (p 131072 0))).wf = false ∧ (Instr.stageAdvance (o (p 131071 16))).wf = false ∧
    (Instr.stageAdvance (o (p 131071 15))).wf = true := by decide +kernel

theorem test_wf_storeBatchWrite : (Instr.storeBatchWrite 0).wf = false ∧ (Instr.storeBatchWrite 1).wf = true := by decide +kernel

theorem test_wf_frameReceive : (Instr.frameReceive 0 false true []).wf = false ∧ (Instr.frameReceive 0 false true [0]).wf = true := by
  decide +kernel

/-! ## More forms of the engine's instructions -/

/-- V.COMPRESS of VP1 that adds to LC2 (ACC), one that only counts (CO), and the share's end for it. -/
def wcompA : W64 := word 1 19 [(1, 34), (1, 19), (2, 16), (1, 15), (1, 14)]
def wcompC : W64 := word 1 19 [(1, 34), (1, 19), (2, 16), (1, 15), (1, 11)]
theorem test_vCompress_forms : (running [wcompA] regs3 xcomp).canRun 0 0 .vCompress wcompA ∧ (running [wcompC] regs3 xcomp).canRun 0 0 .vCompress wcompC ∧
    wcompA.getLsbD 14 = true ∧ wcompC.getLsbD 11 = true ∧
    ((after (.vCompress 0 0 none) (running [wcompC] regs3 xcomp)).ctx 0 0).cur.cptr = xcomp.cur.cptr := by
  unfold State.canRun; decide +kernel

/-- V.LD may meet an uncorrectable error there. -/
theorem test_vLd_err : ((smem 17 2048).ctx 0 0).holds 0 ((smem 17 2048).vAddr 0 0 (wmem 17)) 8 = false ∧
    ((smem 17 2048).reg (Reg.sramEccunc 0)).toNat + 1 < 2 ^ 64 - 1 := by decide +kernel

/-- A reduction that finishes: with SEG to v4 lane 0, to two summary entries, and as P96 to lane 3. -/
def wfinS (op : Nat) : W64 := word 2 op [(1, 38), (1, 34), (1, 33), (1, 31), (4, 23)]
def wfinQ (op : Nat) : W64 := word 2 op [(1, 38), (1, 34), (1, 33), (2, 29), (0x1234, 13), (1, 32)]
def wfinP : W64 := word 2 0 [(1, 38), (1, 34), (1, 33), (1, 29), (4, 23), (3, 14)]
def wqS : W64 := word 2 0 [(1, 38), (1, 34), (1, 31), (1, 32)]
theorem test_finishes : (∀ i : Fin 6, (sq (wfinS i)).canRun 0 0 (match i with | 0 => .qSum | 1 => .qSumsq | 2 => .qMax | 3 => .qMin | 4 => .qArgmax | _ => .qArgmin) (wfinS i) ∧
      (sq (wfinQ i)).canRun 0 0 (match i with | 0 => .qSum | 1 => .qSumsq | 2 => .qMax | 3 => .qMin | 4 => .qArgmax | _ => .qArgmin) (wfinQ i) ∧
      quietQ (sq (wfinS i)) (wfinS i) ∧ (wfinS i).getLsbD 34 = true ∧ (wfinS i).getLsbD 33 = true) ∧
    (sq wfinP).canRun 0 0 .qSum wfinP ∧ (sq wqS).canRun 0 0 .qSum wqS ∧ wqS.getLsbD 33 = false ∧
    v4 (.qSum 0 0 0 none) (sq (wfinS 0)) 0 = 0x40400000 := by
  unfold State.canRun; decide +kernel

/-- Q.NFC of two accumulators to v4. -/
def wnfcS : W64 := word 2 6 [(1, 33), (1, 31), (4, 23)]
def snfcS : State := running [wnfcS] {} { qa := [(0, { count := 5, used := true }), (1, { count := 7, used := true })] }
theorem test_qNfc_seg : snfcS.canRun 0 0 .qNfc wnfcS ∧ (∀ n ∈ qAccs wnfcS, ((snfcS.ctx 0 0).acc n).used = true) ∧
    v4 (.qNfc 0 0 0 none) snfcS 2 = 7 := by
  unfold State.canRun; decide +kernel

/-- A transposed pass of one row; a masked pass of the row its mask byte marks, and of none; M.OUT to Sand and to a register. -/
def wmask : W64 := wm 2 [(1, 13), (1, 11)]
def outV : Bytes := bytesOf 64 [(0, 256), (4, 1), (16, 1), (20, 2), (22, 1), (24, 0x3F800000), (28, 0x3F800000), (36, 4)]
def maskDesc (m : Nat) : Bytes := bytesOf 64 [(0, 256), (4, 1), (8, m), (16, 1), (20, 2), (24, 0x3F800000), (28, 0x3F800000), (36, 1024), (40, 1024)]
theorem test_begin_forms : passMask wmask = true ∧ (pend .pass wmask (maskDesc 300) 1).fedRows 0 (mop .pass wmask (maskDesc 300) 1) = [] ∧
    (pend .pass wmask (maskDesc 256) 1).fedRows 0 (mop .pass wmask (maskDesc 256) 1) = [] ∧
    (pend .pass wmask (maskDesc 4) 1).fedRows 0 (mop .pass wmask (maskDesc 4) 1) = [0] ∧
    (pend .pass wmask (maskDesc 4) 1).passRowBad 0 0 block1 false false (maskDesc 4) 0 = none ∧
    ((pend .passt (wm 3 [(1, 13)]) passDesc 1).engine 0).mCanBegin (mop .passt (wm 3 [(1, 13)]) passDesc 1) = true ∧
    outRowBytes (outFmt passDesc) = 1024 ∧ dfld outV 22 1 = 1 ∧
    ((pend .out (wm 5) outV 1).engine 0).mCanBegin (mop .out (wm 5) outV 1) = true := by decide +kernel

/-- A row that leaves with LAST. -/
def flightL (d : Bytes) : Flight := { flight1 with op := mop .pass (wm 2 [(1, 13), (1, 12)]) d 1 }
def drainingL (d : Bytes) : State := running [] { flights := [flightL d] }
theorem test_last : passLast (flightL outV).op.word = true ∧ passFirst (flightL outV).op.word = true ∧
    v4 (.arrayRowCheck 0 .ok 0 none) (drainingL outV) 0 = 0x3F800000 ∧
    (after (.arrayRowCheck 0 .ok 0 none) (drainingL passDesc)).sandBytes 0 0 1024 4 = [0, 0, 0x80, 0x3F] := by decide +kernel

/-- A get into Silt, its one piece the last; a gather of the row that entry 0 of its list names; puts to Loam and to context 1's
Sand, and one that is suppressed. -/
def xsilt : Xfer := xfer .get (bytesOf 64 [(0, loam0), (24, 3072), (27, 1), (28, 256), (40, 1)]) 5 0
def xgather : Xfer := xfer .gather (bytesOf 64 [(0, loam0), (24, 4096), (28, 256), (32, 256), (40, 1), (52, 8192)]) 5 0
def xput : Xfer := xfer .put (bytesOf 64 [(0, loam0 + 64), (24, 4096), (28, 256), (40, 1)]) 5 0
def gathering : State := { moving xgather with slots := [(chanLoam (loamMap 0 0), [slotWord false])] }
theorem test_pieces : ((moving xsilt).ctx 0 0).xfer 3 = some xsilt ∧ xSilt xsilt.desc = true ∧ ((moving xsilt).engine 0).silt.wf = true ∧
    xRbytes xsilt.desc ≤ xsilt.off + ((moving xsilt).nextPiece 0 xsilt.desc (xRemote xsilt.desc 0) 0).2 ∧
    ((moving xsilt).digestRow 0 0 xsilt.desc 0 []).isSome = true ∧ (gathering.gatherRow 0 0 xgather 0).2 = none ∧
    gaTier (gathering.gatherRow 0 0 xgather 0).1 = 2 ∧ (moving xput).loam.wf = true ∧ xput.suppressed = false ∧
    (after (.transferPieceLanding 0 0 3 .ok .ok) (moving xsilt)).siltBytes 0 0 3072 4 = [7, 8, 9, 0] := by decide +kernel

/-- lb x5, 1(x6) of a negative byte; lhu x5, 2(x6); sb x7, 3(x6); sh x7, 2(x6). -/
def ccByte (w : Nat) : State := core w (fun x => x) { ccD := [(1, 0x80), (2, 0xFE)] }
theorem test_cc_bytes : (ccByte 0x00130283).ccFetch 0 0 = some (.load 0 5 6 1, 4) ∧ (ccByte 0x00235283).ccFetch 0 0 = some (.load 5 5 6 2, 4) ∧
    (ccByte 0x007301A3).ccFetch 0 0 = some (.store 0 6 7 3, 4) ∧ (ccByte 0x00731123).ccFetch 0 0 = some (.store 1 6 7 2, 4) ∧
    ((after (.ccInstruction 0 0 .none) (ccByte 0x00130283)).ctx 0 0).cur.xreg 5 = 0xFFFFFF80 ∧
    ((after (.ccInstruction 0 0 .none) (ccByte 0x00235283)).ctx 0 0).cur.xreg 5 = 0xFE ∧
    Mem.bytes ((after (.ccInstruction 0 0 .none) (ccByte 0x007301A3)).engine 0).ccD 0 4 = [0, 0x80, 0xFE, 7] := by decide +kernel

/-- A group whose word has an opcode that its class does not list; a group that waits; V.LD at an address that is not aligned. -/
def malformed : State := running [word 4 63 []]
def sbad : State := running [wmem 17] regs3 { cur := { lp := [(0, 8)] } }
theorem test_faults : malformed.canIssue 0 0 = true ∧ (malformed.ctx 0 0).gi = 0 ∧ malformed.gate 0 0 = .fault 0x01 4 ∧
    waiting.canIssue 0 0 = true ∧ waiting.gate 0 0 = .hold true ∧ sbad.canRun 0 0 .vLd (wmem 17) ∧
    sbad.vAddrBad 0 0 (sbad.vAddr 0 0 (wmem 17)) 2048 = some 0x01 ∧ (running [wc 0]).issues 0 0 .vAdd = false ∧
    (running [wc 0]).gate 0 0 = .go ∧
    ((after (.cNop 0 0) malformed).ctx 0 0).fpc = 64 := by
  unfold State.canRun; decide +kernel

/-- A jump out of an open loop; a second mismatch of an audited engine; epoch switches under STRICT, to a FREE slot, to the
CURRENT one, and away from a slot that no entry holds. -/
def jumpOut : State := running [wjump 66, wc 0] {} { cur := { loops := [⟨64, 65, 2⟩] } }
def selOut : State := running [wc 5, wc 0] { imemA := [(63, 66)] } { sel := some 63, cur := { loops := [⟨64, 65, 2⟩] } }
def again : State := auditing.setFld Reg.auditStat 10 10 1
def epochs (rs : List (Nat × W64)) : State := hosted [cmdAt 0 switchFields] rs
theorem test_second_clauses : jumpOut.canRun 0 0 .cJump (wjump 66) ∧ selOut.canRun 0 0 .cSelect (wc 5) ∧
    again.flag Reg.auditStat 10 = true ∧ again.audit = some auditRun0 ∧ (epochs [(Reg.epsStat 3, 2)]).strict = true ∧
    (epochs [(Reg.epsStat 3, 0), (Reg.detCtl, 0)]).epState 3 = 0 ∧ (epochs [(Reg.epsStat 3, 3), (Reg.detCtl, 0)]).epState 3 = 3 ∧
    (epochs [(Reg.epsStat 3, 2), (Reg.epsStat 1, 3), (Reg.detCtl, 0)]).currentSlot 0 = some 1 ∧
    (epochs [(Reg.epsStat 3, 2)]).cmd 0 14 = some (cmdAt 0 switchFields) := by
  unfold State.canRun; decide +kernel

/-- xsel while a selection stands; C.SELECT of selection 64; the corner comparison of a resident context's block. -/
def xselHeld : State := core iXsel (fun x => { x with sel := some 1 })
/-- The control core held by a selection that stands (R188). -/
def coreHeld : State := core iXsel (fun x => { x with sel := some 1, ccWait := 1 })
theorem test_core_expires : coreHeld.ccHeld 0 0 = true ∧ coreHeld.counted 0 0 = false ∧ 1024 * coreHeld.fld (Reg.tokwd 0 0) 15 0 ≤ 2 ^ 20 ∧
    ((after (.waitExpired 0 0 true (2 ^ 20)) coreHeld).ctx 0 0).st = .halted := by decide +kernel
def sel64 : State := running [wc 5] { imemA := [(63, 64)] } { sel := some 64 }
theorem test_selections : xselHeld.ccCan 0 0 = true ∧ xselHeld.ccFetch 0 0 = some (.xsel 7, 4) ∧ sel64.ccCan 0 0 = true ∧
    sel64.canRun 0 0 .cSelect (wc 5) ∧ (Tab.get [] loading.recBuf 0).length < 8 := by
  unfold State.canRun; decide +kernel

/-- FRAME_TX of a Tilth frame; EPOCH_LOAD that expects no record; a batch that switches to READY slot 3; SETUP in the window of a
retired and of a disabled engine; table entries in range and out of it; the switch from CURRENT slot 1 (R358, R374, R379). -/
def tilthTx : State :=
  hosted [cmdAt 0 [(0, 0x0F), (8, 0x13), (10, 101), (16, 0x5000)]] [(Reg.hvpCfg, 1), (Reg.moduleId, 0x20005)]
def epochFields0 : List (Nat × Nat) := [(0, 13), (8, 3), (9, 16), (16, 9), (24, 8)]
def epochCmd0 : State := { cmd0 epochFields0 with keys := [(16, [5])], gcmTag := [(16, ⟨8, 9, 0⟩)] }
def batchSw : Desc := cmdAt 0 [(0, 12), (8, 5), (10, 7)]
def batchSwRan : State := withCtx0 (hosted [{ batchSw with ran := true }] [(Reg.epsStat 3, 2)])
def setupEng (h : W64) : State := hosted [cmdAt 0 [(0, 7), (8, Reg.tokwd 51 3), (16, 0x50003)]] [(Reg.engHealth 51, h)]
def swFields4 : List (Nat × Nat) := [(0, 9), (8, 4), (16, 0x5000), (24, 1)]
def pdFull : Bytes := fitBytes 512 pd2
def switching31 : State := epochs [(Reg.epsStat 3, 2), (Reg.epsStat 1, 3), (Reg.detCtl, 0)]
theorem test_more_commands : (udpPort frame95).map (·.1) = some (tilthTx.fld Reg.tilthCfg 15 0) ∧ frame95.length = 101 ∧
    tilthTx.ringWindow 0 false 0x5000 101 = true ∧ tilthTx.idValid = true ∧
    (after (.frameTx 0 (.got frame95 false)) tilthTx).reg Reg.tilthBadhdr = 1 ∧
    epochCmd0.epochMeets 0 0 = false ∧ epochCmd0.ownsLoam 0 0 0 = true ∧ (after (.epochLoad 0) epochCmd0).epState 3 = 2 ∧
    (batchSwRan.epState 3 = 2 ∧ batchSwRan.fld (Reg.epsStat 3) 5 3 = 0) ∧
    ((after (.admitBatchTokenEntry 0) batchSwRan).ctx 0 0).hostTags = [.batch (some 3)] ∧
    (setupEng 4).fld (Reg.engHealth 51) 2 0 = 4 ∧ (setupEng 5).fld (Reg.engHealth 51) 2 0 = 5 ∧ windowOf (Reg.tokwd 51 3) = some 51 ∧
    (setupEng 4).pathRefused .setup (Reg.tokwd 51 3) (gauntletRegs.contains (Reg.tokwd 51 3)) = false ∧
    (after (.setup 0) (setupEng 5)).reg (Reg.tokwd 51 3) = (setupEng 5).reg (Reg.tokwd 51 3) ∧
    (cmd0 swFields4).swEntryBad 4 0 pdFull = false ∧ (cmd0 swFields4).swEntryBad 4 0 (pdFull.set 0 9) = true ∧
    (cmd0 swFields4).ringWindow 0 false 0x5000 512 = true ∧ pdFull.length = 512 ∧
    (after (.copy 0 (.got [] false) (.uncorrectable 3 none)) copyOut).out = [] ∧
    (after (.epochSwitch 0) switching31).epState 1 = 0 := by decide +kernel

end Sys2Proof.Tests
end

section
/-!
PROOF. The corner comparison of a load and the token of a finished M instruction (O18; R112, R139, R184, R283): first what
a counter, a dropped audit and a failed read of the SRAM leave as it was, then the comparison's three outcomes.
-/

namespace Sys2Proof.Machine

/-! ## Counters, audits and reads of the SRAM -/

/-- A counter changes no context. -/
@[simp] theorem State.ctx_bump (s : State) (off n p c : Nat) : (s.bump off n).ctx p c = s.ctx p c := by
  rw [State.bump_only]; rfl

/-- A counter outside the engine map leaves the logical numbers of the engines. -/
theorem State.leOf_bump (s : State) (off n p : Nat) (h : ∀ m, m < 48 → off ≠ Reg.leMap m) : (s.bump off n).leOf p = s.leOf p := by
  unfold State.bump
  dsimp only
  split
  · rfl
  · split
    · exact State.leOf_setReg s p off _ h
    · rw [State.sendRec_only]
      exact State.leOf_setReg s p off _ h

/-- The record of a failed check rests on the context and the engine's logical number alone. -/
theorem State.failRec_congr {s t : State} (p c cls : Nat) (d : Bytes) (k : Option Second) (hctx : t.ctx p c = s.ctx p c)
    (hle : t.leOf p = s.leOf p) : t.failRec p c cls d k = s.failRec p c cls d k := by
  unfold State.failRec State.ctxRec
  rw [hctx, hle]

/-- So a check's own counter leaves it as it was. -/
theorem State.failRec_bump (s : State) (p c cls o n : Nat) (d : Bytes) (k : Option Second) (hp : p < 52)
    (ho : classCounter p cls = some o) : (s.bump o n).failRec p c cls d k = s.failRec p c cls d k :=
  State.failRec_congr p c cls d k (State.ctx_bump s o n p c) (State.leOf_bump s o n p (classCounter_ne p cls o hp ho).2.2)

/-- The shadow of an audit that leaves its spare takes no shadow registers with it. -/
theorem State.endShadow_shadow (s : State) (a : AuditRun) (j : Nat) :
    ((s.endShadow a).engine j).shadow = (s.engine j).shadow := by
  unfold State.endShadow
  split
  · rw [State.modEngine_eq]
    by_cases hj : j = a.spare
    · subst hj; rw [State.engine_setEngine_same]
    · rw [State.engine_setEngine_ne _ _ _ _ hj]
  · rfl

/-- Nor does a dropped audit. -/
theorem State.dropAudit_shadow (s : State) (p c j : Nat) : ((s.dropAudit p c).engine j).shadow = (s.engine j).shadow := by
  unfold State.dropAudit
  split
  · split
    · exact State.endShadow_shadow _ _ j
    · rfl
  · rfl

/-- A check failure that is replayed leaves the block in the shadow registers. -/
theorem StoppedForReplay.shadow_eq {s t : State} {p c : Nat} {r : ErrRec} {a : Option Nat} {offs : List Nat}
    (h : StoppedForReplay s t p c r a offs) : (t.engine p).shadow = (s.engine p).shadow := by
  obtain ⟨-, -, -, -, -, hshadow, hown⟩ := h
  cases hs : (s.ctx p c).shadow with
  | true =>
    have he : t.engine p = (s.dropAudit p c).engine p := by unfold State.engine; rw [hshadow hs]
    rw [he, State.dropAudit_shadow]
  | false =>
    obtain ⟨-, -, -, -, -, -, he⟩ := hown hs
    rw [he]

/-- An uncorrectable error in a word that is not held stops the reading context for a replay (R283). -/
theorem State.sramRead_stops (s : State) (p c tier k : Nat) (at_ : Nat → Nat) (also : Option Second) (eff : State → State)
    (hp : p < 52) (hheld : (s.ctx p c).holds tier (at_ k) (sramWord tier) = false)
    (hc : s.countsFails p c (failCounters p 0x08 also)) :
    StoppedForReplay s (s.sramRead p c tier at_ (.uncorrectable k also) id eff) p c
      (s.failRec p c 0x08 (leBytes 4 (at_ k)) also) none (failCounters p 0x08 also) := by
  have hread : s.sramRead p c tier at_ (.uncorrectable k also) id eff =
      (s.bump (Reg.sramEccunc p) 1).replayBoth p c 0x08 (leBytes 4 (at_ k)) none also := by
    unfold State.sramRead
    dsimp only
    rw [State.ctx_bump, hheld]
    rfl
  rw [hread]
  exact State.replayBoth_stops s p c 0x08 (Reg.sramEccunc p) _ none also hp rfl hc

/-! ## The corner comparison -/

/-- The state in which the load of an engine has left the load path. -/
def State.loadEnded (s : State) (p : Nat) : State :=
  s.setEngine p { s.engine p with mLoad := none, reloading := false }

/-- Its contexts are as before. -/
@[simp] theorem State.loadEnded_ctx (s : State) (p c : Nat) : (s.loadEnded p).ctx p c = s.ctx p c := by
  unfold State.loadEnded; rw [State.ctx_setEngine_same]; rfl

/-- Its shadow registers are as before. -/
@[simp] theorem State.loadEnded_shadow (s : State) (p : Nat) : ((s.loadEnded p).engine p).shadow = (s.engine p).shadow := by
  unfold State.loadEnded; rw [State.engine_setEngine_same]

/-- The record of a check that fails there. -/
@[simp] theorem State.loadEnded_failRec (s : State) (p c cls : Nat) (d : Bytes) (k : Option Second) :
    (s.loadEnded p).failRec p c cls d k = s.failRec p c cls d k :=
  State.failRec_congr p c cls d k (State.loadEnded_ctx s p c) rfl

/-- A failure can be counted there when it could be before. -/
theorem State.loadEnded_countsFails {s : State} {p c : Nat} {offs : List Nat} (h : s.countsFails p c offs) :
    (s.loadEnded p).countsFails p c offs := by
  obtain ⟨hcount, hroom, hgoing⟩ := h
  exact ⟨hcount, hroom, by rw [State.loadEnded_ctx]; exact hgoing⟩

/-- What a corner comparison makes of a block whose reads have met no error (R112, R139). -/
def State.cornerCompared (s : State) (p : Nat) (o : MOp) (l : Loaded) (upset : Bool) (also : Option Second) : State :=
  if l.blk.cornerOk && !upset then s.modEngine p (fun e => { e with shadow := some l })
  else
    let s := s.bump (Reg.arrLoadfail p) 1
    if (s.ctx p o.ctx).resident || (s.ctx p o.ctx).shadow then s.replayBoth p o.ctx 0x03 [] none also
    else (s.countSecond p 0x03 also).sendRec p (s.failRec p o.ctx 0x03 [] also)

/-- LOAD_CORNER_COMPARE with a load in progress: the reads of a reloaded block, and then the comparison. -/
theorem exec_loadCornerCompare (s : State) (p : PhysE) (o : MOp) (l : Loaded) (err : ReadErr) (upset : Bool)
    (also : Option Second) (hl : (s.engine p).mLoad = some (o, l)) :
    exec (.loadCornerCompare p err upset also) s =
      .next ((s.loadEnded p).sramRead p o.ctx 0 (fun k => ((s.engine p).mReads o k).2)
        (if (s.engine p).reloading then err else .ok) id (fun t => t.cornerCompared p o l upset also)) := by
  show execLoadCornerCompare p err upset also s = _
  unfold execLoadCornerCompare
  rw [hl]
  rfl

/-- When no read of the block has met an error, the row is the comparison. -/
theorem exec_loadCornerCompare_read (s : State) (p : PhysE) (o : MOp) (l : Loaded) (err : ReadErr) (upset : Bool)
    (also : Option Second) (hl : (s.engine p).mLoad = some (o, l)) (herr : (s.engine p).reloading = true → err = .ok) :
    exec (.loadCornerCompare p err upset also) s = .next ((s.loadEnded p).cornerCompared p o l upset also) := by
  have hok : (if (s.engine p).reloading then err else .ok) = ReadErr.ok := by
    split
    · next hr => exact herr hr
    · rfl
  rw [exec_loadCornerCompare s p o l err upset also hl, hok]
  rfl

/-- A block that passes stands in the shadow registers. -/
theorem State.cornerCompared_pass (s : State) (p : Nat) (o : MOp) (l : Loaded) (also : Option Second)
    (hok : l.blk.cornerOk = true) : s.cornerCompared p o l false also = s.modEngine p (fun e => { e with shadow := some l }) := by
  unfold State.cornerCompared
  rw [hok]
  rfl

/-- A block that fails is counted, and its context is replayed or, when it has left, only recorded. -/
theorem State.cornerCompared_fail (s : State) (p : Nat) (o : MOp) (l : Loaded) (upset : Bool) (also : Option Second)
    (hbad : l.blk.cornerOk = false ∨ upset = true) :
    s.cornerCompared p o l upset also =
      if (s.ctx p o.ctx).resident || (s.ctx p o.ctx).shadow then
        (s.bump (Reg.arrLoadfail p) 1).replayBoth p o.ctx 0x03 [] none also
      else ((s.bump (Reg.arrLoadfail p) 1).countSecond p 0x03 also).sendRec p
        ((s.bump (Reg.arrLoadfail p) 1).failRec p o.ctx 0x03 [] also) := by
  have hjudge : (l.blk.cornerOk && !upset) = false := by
    rcases hbad with h | h
    · rw [h, Bool.false_and]
    · rw [h, Bool.not_true, Bool.and_false]
  unfold State.cornerCompared
  dsimp only
  rw [hjudge, if_neg Bool.false_ne_true, State.ctx_bump]

/-- The failure of a context that is resident, or a shadow, stops it for a replay. -/
theorem State.cornerCompared_stops (s : State) (p : Nat) (o : MOp) (l : Loaded) (upset : Bool) (also : Option Second)
    (hp : p < 52) (hbad : l.blk.cornerOk = false ∨ upset = true)
    (hhere : (s.ctx p o.ctx).resident = true ∨ (s.ctx p o.ctx).shadow = true)
    (hc : s.countsFails p o.ctx (failCounters p 0x03 also)) :
    StoppedForReplay s (s.cornerCompared p o l upset also) p o.ctx (s.failRec p o.ctx 0x03 [] also) none
      (failCounters p 0x03 also) := by
  rw [State.cornerCompared_fail s p o l upset also hbad, if_pos (by rw [Bool.or_eq_true]; exact hhere)]
  exact State.replayBoth_stops s p o.ctx 0x03 (Reg.arrLoadfail p) [] none also hp rfl hc

/-- The failure of a context that has left is counted and recorded alone. -/
theorem State.cornerCompared_departed (s : State) (p : Nat) (o : MOp) (l : Loaded) (upset : Bool) (hp : p < 52)
    (hbad : l.blk.cornerOk = false ∨ upset = true) (hres : (s.ctx p o.ctx).resident = false)
    (hsh : (s.ctx p o.ctx).shadow = false) :
    s.cornerCompared p o l upset none =
      (s.bump (Reg.arrLoadfail p) 1).sendRec p (s.failRec p o.ctx 0x03 [] none) := by
  rw [State.cornerCompared_fail s p o l upset none hbad, if_neg (by rw [hres, hsh]; exact Bool.false_ne_true),
    State.failRec_bump s p o.ctx 0x03 _ 1 [] none hp rfl]
  rfl

/-! ## Tokens -/

/-- PASS_TOKEN_ENTRY delivers the token of the holder's oldest finished instruction. -/
theorem exec_passTokenEntry_done (s : State) (p : PhysE) (c : Nat) (o : MOp) (rest : List MOp)
    (hh : (s.engine p).holder = some c) (hrun : s.holds? p c = true) (hfree : s.stuck (.m p c) = false)
    (hdone : takeDone c (s.engine p).mDone = some (o, rest)) :
    exec (.passTokenEntry p) s = .next ((s.setEngine p { s.engine p with mDone := rest }).deliver p c (.m p c) o.tok) := by
  show execPassTokenEntry p s = _
  unfold execPassTokenEntry
  rw [hh]
  dsimp only
  rw [hfree, hrun, hdone]
  rfl

/-- Settles O18: the comparison's outcomes, an uncorrectable error in the reads of a reload, and the token of the oldest
finished instruction. -/
theorem loadCompareAndPassToken : Obligations.LoadCompareAndPassToken := by
  unfold Obligations.LoadCompareAndPassToken
  intro s p o l
  refine ⟨fun hl err herr => ⟨fun also hok => ?passed, fun upset also hbad =>
    ⟨fun hhere hc => ?resident, fun hres hsh halso => ?departed⟩⟩,
    fun hl hre k upset also also' hheld hc => ?reload, fun c rest => exec_passTokenEntry_done s p c o rest⟩
  case passed =>
    rw [exec_loadCornerCompare_read s p o l err false also hl herr, State.cornerCompared_pass _ p o l also hok]
    simp only [State.loadEnded, State.modEngine_eq, State.engine_setEngine_same, State.setEngine_setEngine]
  case resident =>
    have hstop := State.cornerCompared_stops (s.loadEnded p) p o l upset also p.isLt hbad
      (by rw [State.loadEnded_ctx]; exact hhere) (State.loadEnded_countsFails hc)
    refine ⟨_, exec_loadCornerCompare_read s p o l err upset also hl herr, ?_, ?_⟩
    · rw [hstop.shadow_eq, State.loadEnded_shadow]
    · rw [State.loadEnded_failRec] at hstop
      exact hstop
  case departed =>
    subst halso
    rw [exec_loadCornerCompare_read s p o l err upset none hl herr,
      State.cornerCompared_departed _ p o l upset p.isLt hbad (by rw [State.loadEnded_ctx]; exact hres)
        (by rw [State.loadEnded_ctx]; exact hsh), State.loadEnded_failRec]
    rfl
  case reload =>
    have hstop := State.sramRead_stops (s.loadEnded p) p o.ctx 0 k (fun k => ((s.engine p).mReads o k).2) also
      (fun t => t.cornerCompared p o l upset also') p.isLt (by rw [State.loadEnded_ctx]; exact hheld)
      (State.loadEnded_countsFails hc)
    rw [State.loadEnded_failRec] at hstop
    exact ⟨_, by rw [exec_loadCornerCompare s p o l _ upset also' hl, if_pos hre], hstop⟩

end Sys2Proof.Machine
end

section
/-!
PROOF. The operations under parity that write VD (O5; R147, R152, R207): first what an element of a packed register reads,
then what a register write of a vector instruction leaves, and with both the elements that each operation gives.
-/

namespace Sys2Proof.Machine

/-! ## The elements of a register -/

/-- Packed elements are read back one by one. -/
theorem packElems_div_mod (w : Nat) (xs : List Nat) (i : Nat) (hi : i < xs.length) :
    packElems w xs / 2 ^ (w * i) % 2 ^ w = xs[i] % 2 ^ w := by
  induction xs generalizing i with
  | nil => exact absurd hi (Nat.not_lt_zero i)
  | cons x xs ih =>
    have hcons : packElems w (x :: xs) = x % 2 ^ w + 2 ^ w * packElems w xs := rfl
    rw [hcons]
    cases i with
    | zero => simp
    | succ i =>
      have hdrop : (x % 2 ^ w + 2 ^ w * packElems w xs) / 2 ^ w = packElems w xs := by
        rw [Nat.add_mul_div_left _ _ (Nat.two_pow_pos w), Nat.div_eq_of_lt (Nat.mod_lt _ (Nat.two_pow_pos w)), Nat.zero_add]
      rw [Nat.mul_succ, Nat.add_comm (w * i), Nat.pow_add, ← Nat.div_div_eq_div_mul, hdrop]
      exact ih i (Nat.lt_of_succ_lt_succ hi)

/-- A field of w bits inside a word of n bits is that of the number the word was made of. -/
theorem ofNat_div_mod (n x l w : Nat) (h : l + w ≤ n) :
    (BitVec.ofNat n x).toNat / 2 ^ l % 2 ^ w = x / 2 ^ l % 2 ^ w := by
  obtain ⟨k, rfl⟩ := Nat.exists_eq_add_of_le h
  rw [BitVec.toNat_ofNat, Nat.add_assoc, Nat.pow_add, Nat.mod_mul_right_div_self,
    Nat.mod_mod_of_dvd _ (Nat.pow_dvd_pow 2 (Nat.le_add_right w k))]

/-- The elements of a layout fit a register. -/
theorem Fmt.width_mul_count_le (f : Fmt) : f.width * f.count ≤ 16384 := by cases f <;> decide

/-- A register made of a layout's elements gives them back. -/
theorem elem_ofElems (f : Fmt) (xs : List Nat) (hlen : xs.length = f.count) (k : Nat) (hk : k < xs.length) :
    elem f (ofElems f.width xs) k = xs[k] % 2 ^ f.width := by
  have hfit : f.width * k + f.width ≤ 16384 := by
    calc f.width * k + f.width = f.width * (k + 1) := (Nat.mul_succ _ _).symm
      _ ≤ f.width * f.count := Nat.mul_le_mul_left _ (hlen ▸ hk)
      _ ≤ 16384 := f.width_mul_count_le
  unfold elem ofElems
  rw [ofNat_div_mod _ _ _ _ hfit, packElems_div_mod _ _ _ hk]

/-- An element of the register that a condition picks. -/
theorem elem_ite (f : Fmt) (b : Prop) [Decidable b] (x y : VReg) (k : Nat) :
    elem f (if b then x else y) k = if b then elem f x k else elem f y k := apply_ite (elem f · k) b x y

/-- The elements of an operation on the active ones (R147). -/
theorem elementsAre_mapElems (f : Fmt) (vp : Pred) (dst : VReg) (op : Nat → Nat) :
    elementsAre f vp dst (mapElems f vp dst op) op := by
  intro k hk
  unfold mapElems
  rw [elem_ofElems f _ (by simp [elemsOf]) k (by simpa [elemsOf] using hk)]
  simp only [elemsOf, List.getElem_map, List.getElem_zipIdx, List.getElem_range, Nat.zero_add]
  split
  · rfl
  · exact Nat.mod_mod _ _

/-- Only the low bits of a value count, and only at the elements of the layout. -/
theorem elementsAre.congr {f : Fmt} {vp : Pred} {old new : VReg} {val val' : Nat → Nat} (h : elementsAre f vp old new val)
    (hv : ∀ k, val k % 2 ^ f.width = val' k % 2 ^ f.width) : elementsAre f vp old new val' := by
  intro k hk
  rw [← hv k]
  exact h k hk

/-! ## The write of a vector instruction -/

/-- Issue keeps the execution predicate of a vector instruction. -/
@[simp] theorem State.opened_vp (s : State) (p c : Nat) (w : W64) : (s.opened p c).vp p c w = s.vp p c w := by
  simp [State.vp]

/-- Issue arms no injection, and spends none. -/
@[simp] theorem State.opened_injHit (s : State) (p c target : Nat) (vp : Pred) (one : Bool) :
    (s.opened p c).injHit p target vp one = s.injHit p target vp one := by
  simp [State.injHit]

/-- An operation under parity that meets no upset and no injection runs. -/
theorem State.parity_sound {s : State} {p : Nat} (c : Nat) {vp : Pred} {one : Bool} (h : noInj s p 1 vp one)
    (eff : State → Ran) : (s.opened p c).parity p c vp one none eff = eff (s.opened p c) := by
  unfold State.parity
  rw [State.opened_injHit, h]

/-- A register write and the advance leave the checks that are due. -/
theorem State.vWrite_vchk (s : State) (p c i : Nat) (w : W64) (v : VReg) :
    ((((s.opened p c).vWrite p c i v).advance p c w).engine p).vchk = (s.engine p).vchk := by
  obtain ⟨y, hy, -⟩ := State.advance_eq ((s.opened p c).vWrite p c i v) p c w
  rw [hy, State.setCtx_eq, State.engine_setEngine_same]
  simp only [State.vWrite, State.modCtx_eq, State.setCtx_eq, State.setVreg, State.modEngine_eq, State.engine_setEngine_same]
  rw [State.opened_engine]
  rfl

/-- Instruction i, whose word is w, writes each active element of VD under layout g, and changes nothing else: no check
falls due. -/
def State.GivesElements (s : State) (p c : Nat) (w : W64) (i : Instr) (g : Fmt) (val : Nat → Nat) : Prop :=
  ∃ t, exec i s = .next t ∧ RunsToVreg s t p c (wbits w 45 40) (s.ctx p c).cur ∧
    (t.engine p).vchk = (s.engine p).vchk ∧
    elementsAre g (s.vp p c w) (s.vreg p c (wbits w 45 40)) (t.vreg p c (wbits w 45 40)) val

/-- An instruction whose run writes an operation on VD's active elements gives them. -/
theorem State.givesElements_of_run {s : State} {p c : Nat} {o : EngOp} {w : W64} {i : Instr} {run : W64 → State → Ran}
    {g : Fmt} {val : Nat → Nat} (h : s.canRun p c o w) (hi : exec i s = .next (s.issue p c o run))
    (hrun : run w (s.opened p c) = .seq ((s.opened p c).vWrite p c (wbits w 45 40)
      (mapElems g (s.vp p c w) (s.vreg p c (wbits w 45 40)) val))) : s.GivesElements p c w i g val := by
  obtain ⟨hruns, hreg⟩ := State.vWrite_runs s p c (wbits w 45 40) w (mapElems g (s.vp p c w) (s.vreg p c (wbits w 45 40)) val)
  refine ⟨_, by rw [hi, State.issue_seq h hrun], hruns, State.vWrite_vchk s p c _ w _, ?_⟩
  rw [hreg]
  exact elementsAre_mapElems g _ _ val

/-- Values that agree in an element's bits are given alike. -/
theorem State.GivesElements.congr {s : State} {p c : Nat} {w : W64} {i : Instr} {g : Fmt} {val val' : Nat → Nat}
    (h : s.GivesElements p c w i g val) (hv : ∀ k, val k % 2 ^ g.width = val' k % 2 ^ g.width) :
    s.GivesElements p c w i g val' := by
  obtain ⟨t, ht, hruns, hvchk, helems⟩ := h
  exact ⟨t, ht, hruns, hvchk, helems.congr hv⟩

/-! ## The operations -/

section
variable {s : State} {p c : Nat} {w : W64} (hinj : noInj s p 1 (s.vp p c w) false)
include hinj

/-- A two-source operation under parity gives its value of the elements of VA and VB. -/
theorem State.move_givesElements (g : Fmt) (op : Nat → Nat → Nat) {o : EngOp} {i : Instr} {run : W64 → State → Ran}
    (hi : exec i s = .next (s.issue p c o run)) (hrun : ∀ u, run w u = runMove p c g op none w u) (h : s.canRun p c o w) :
    s.GivesElements p c w i g
      (fun k => op (elem g (s.vreg p c (wbits w 39 34)) k) (elem g (s.vreg p c (wbits w 33 28)) k)) := by
  refine State.givesElements_of_run h hi ?_
  rw [hrun]
  unfold runMove
  rw [State.opened_vp, State.parity_sound c hinj]
  simp only [State.opened_vreg]
  rfl

/-- V.SEL gives the element of VA where VPS is set, and else that of VB. -/
theorem State.sel_givesElements {i : Instr} (hi : exec i s = .next (s.issue p c .vSel (runSel p c none)))
    (h : s.canRun p c .vSel w) :
    s.GivesElements p c w i .int32 (fun k =>
      if ((s.ctx p c).cur.vpred (wbits w 15 13)).getLsbD k then elem .int32 (s.vreg p c (wbits w 39 34)) k
      else elem .int32 (s.vreg p c (wbits w 33 28)) k) := by
  refine State.givesElements_of_run h hi ?_
  unfold runSel
  rw [State.opened_vp, State.parity_sound c hinj]
  simp only [State.opened_vreg, State.opened_ctx, State.ctxAt_cur, elem_ite]

/-- V.PERM gives the lane of VA that the lane of VB names (R152). -/
theorem State.perm_givesElements {i : Instr} (hi : exec i s = .next (s.issue p c .vPerm (runPerm p c none)))
    (h : s.canRun p c .vPerm w) :
    s.GivesElements p c w i .int32 (fun k =>
      elem .int32 (s.vreg p c (wbits w 39 34)) (elem .int32 (s.vreg p c (wbits w 33 28)) k % 512)) := by
  refine State.givesElements_of_run h hi ?_
  unfold runPerm
  rw [State.opened_vp, State.parity_sound c hinj]
  simp only [State.opened_vreg]
  rfl

end

/-- An INT32 element is below 2^32. -/
theorem elem_int32_lt (r : VReg) (k : Nat) : elem .int32 r k < 2 ^ 32 := Nat.mod_lt _ (Nat.two_pow_pos 32)

/-- V.SHL multiplies by the power of two, cut to the lane. -/
theorem shiftLane_left (x n : Nat) : shiftLane 0 x n % 2 ^ 32 = x * 2 ^ (n % 32) % 2 ^ 32 := by
  simp [shiftLane, Nat.shiftLeft_eq]

/-- V.SHR divides a lane by the power of two. -/
theorem shiftLane_right {x : Nat} (hx : x < 2 ^ 32) (n : Nat) : shiftLane 1 x n = x / 2 ^ (n % 32) := by
  simp only [shiftLane, BitVec.toNat_ushiftRight, BitVec.toNat_ofNat, Nat.mod_eq_of_lt hx, Nat.shiftRight_eq_div_pow]

/-- V.SRA shifts a lane with its sign. -/
theorem shiftLane_arithmetic (x n : Nat) : shiftLane 2 x n = ((BitVec.ofNat 32 x).sshiftRight (n % 32)).toNat := rfl

/-- Settles O5: every operation's run is one register write of an operation on the active elements; the shifts agree with
the model's in a lane's bits. -/
theorem vectorMovesGiveTheirElements : Obligations.VectorMovesGiveTheirElements := by
  unfold Obligations.VectorMovesGiveTheirElements
  intro s p c w
  dsimp only
  intro hinj
  refine ⟨State.move_givesElements hinj (vT w) ((vT w).minMax false) rfl (fun _ => rfl),
    State.move_givesElements hinj (vT w) ((vT w).minMax true) rfl (fun _ => rfl),
    State.move_givesElements hinj .int32 (· &&& ·) rfl (fun _ => rfl),
    State.move_givesElements hinj .int32 (· ||| ·) rfl (fun _ => rfl),
    State.move_givesElements hinj .int32 (· ^^^ ·) rfl (fun _ => rfl),
    State.move_givesElements hinj .int32 (fun a b => a &&& (2 ^ 32 - 1 - b)) rfl (fun _ => rfl),
    fun h => ?shl, fun h => ?shr, fun h => ?sra,
    State.sel_givesElements hinj rfl,
    State.perm_givesElements hinj rfl⟩
  case shl =>
    exact (State.move_givesElements hinj .int32 (shiftLane 0) rfl (fun _ => rfl) h).congr
      (fun _ => shiftLane_left _ _)
  case shr =>
    exact (State.move_givesElements hinj .int32 (shiftLane 1) rfl (fun _ => rfl) h).congr
      (fun k => congrArg (· % 2 ^ 32) (shiftLane_right (elem_int32_lt _ k) _))
  case sra =>
    exact (State.move_givesElements hinj .int32 (shiftLane 2) rfl (fun _ => rfl) h).congr
      (fun _ => congrArg (· % 2 ^ 32) (shiftLane_arithmetic _ _))

end Sys2Proof.Machine
end

section
/-!
PROOF. The transfers of control (O23; R192, R200, R219 to R221, R602, R603): first what issue leaves of what their runs read, then
the three ways in which a row of theirs ends: control at a target, a malformed instruction, a commit that is due.
-/

namespace Sys2Proof.Machine

/-! ## What issue leaves -/

/-- A popped token leaves the posted selection. -/
@[simp] theorem Ctx.pop_sel (x : Ctx) (k : Nat) : (x.pop k).sel = x.sel := by
  unfold Ctx.pop
  split
  · rfl
  · dsimp only
    split <;> split <;> (try split) <;> rfl

/-- So do the TW tokens of a group. -/
@[simp] theorem popTw_sel (x : Ctx) (g : List W64) : (popTw x g).sel = x.sel := by
  unfold popTw
  induction g generalizing x with
  | nil => rfl
  | cons w g ih =>
    rw [List.foldl_cons, ih]
    split
    · exact Ctx.pop_sel _ _
    · rfl

/-- The posted selection stands as a group issues. -/
@[simp] theorem State.ctxAt_sel (s : State) (p c : Nat) : (s.ctxAt p c).sel = (s.ctx p c).sel := by
  unfold State.ctxAt State.opened
  split
  · simp [State.modCtx_eq]
  · rfl

/-- The instruction region is as before. -/
@[simp] theorem State.opened_imemShare (s : State) (p c : Nat) : (s.opened p c).imemShare p c = s.imemShare p c := by
  simp [State.imemShare]

/-- The words of the active copy are as before. -/
@[simp] theorem State.opened_imemWord (s : State) (p c i : Nat) : (s.opened p c).imemWord p c i = s.imemWord p c i := by
  have hbank : (((s.opened p c).engine p).at c).cur.bankB = (s.ctx p c).cur.bankB := congrArg Rec.bankB (s.ctxAt_cur p c)
  unfold State.imemWord
  dsimp only
  rw [hbank, State.opened_imemShare, State.opened_engine]
  rfl

/-- The same targets are allowed. -/
@[simp] theorem State.opened_targetOk (s : State) (p c n : Nat) : (s.opened p c).targetOk p c n = s.targetOk p c n := by
  simp [State.targetOk]

/-- A context set after the group has issued is set in the state before. -/
theorem State.opened_setCtx (s : State) (p c : Nat) (x : Ctx) : (s.opened p c).setCtx p c x = s.setCtx p c x := by
  rw [State.opened_eq]
  split
  · simp [State.setCtx_eq]
  · rfl

/-! ## Control at a target -/

/-- A context whose control is at word n, at the start of a group. -/
def Ctx.sentTo (x : Ctx) (n : Nat) : Ctx := { x with gi := 0, oldV := [], oldP := none, cur := { x.cur with pc := n } }

/-- To go to a target sends the context there. -/
theorem State.goto_eq (s : State) (p c n : Nat) : s.goto p c n = s.setCtx p c ((s.ctx p c).sentTo n) := rfl

/-- From the state in which the group has issued. -/
theorem State.opened_goto (s : State) (p c n : Nat) : (s.opened p c).goto p c n = s.setCtx p c ((s.ctxAt p c).sentTo n) := by
  rw [State.goto_eq, State.opened_setCtx, State.opened_ctx]

/-- And after an instruction that changes its context there. -/
theorem State.opened_modCtx_goto (s : State) (p c n : Nat) (f : Ctx → Ctx) :
    ((s.opened p c).modCtx p c f).goto p c n = s.setCtx p c ((f (s.ctxAt p c)).sentTo n) := by
  rw [State.goto_eq, State.modCtx_eq, State.ctx_setCtx_same, State.opened_ctx, State.opened_setCtx]
  simp [State.setCtx_eq]

/-- Nothing changes outside a context that is sent to a target, and there only the PC and what issue keeps of the group. -/
theorem State.sentTo_runs (s : State) (p c n : Nat) (x : Ctx) :
    RunsTo s s (s.setCtx p c (x.sentTo n)) p c (s.engine p) x x.cur := by
  refine ⟨rfl, fun j hj => by simp [State.setCtx_eq, hj], ?_, fun j hj => by simp [hj], ?_⟩
  · rw [State.setCtx_eq, State.engine_setEngine_same]; rfl
  · rw [State.ctx_setCtx_same]; rfl

/-- A row whose run ends at target n: control is there, and no loop advances. -/
theorem State.jump_takes {s u : State} {p c n : Nat} {o : EngOp} {w : W64} {i : Instr} {run : W64 → State → Ran} {x : Ctx}
    {r : Rec} (h : s.canRun p c o w) (hi : exec i s = .next (s.issue p c o run)) (hrun : run w (s.opened p c) = .jump u n)
    (hu : u.goto p c n = s.setCtx p c (x.sentTo n)) (hr : x.cur = r) :
    ∃ t, exec i s = .next t ∧ RunsTo s s t p c (s.engine p) x r ∧
      (t.ctx p c).cur.pc = n ∧ (t.ctx p c).cur.loops = r.loops ∧ (t.ctx p c).gi = 0 := by
  subst hr
  refine ⟨s.setCtx p c (x.sentTo n), by rw [hi, State.issue_jump h hrun, hu], State.sentTo_runs s p c n x, ?_⟩
  rw [State.ctx_setCtx_same]
  exact ⟨rfl, rfl, rfl⟩

/-! ## A malformed instruction -/

/-- A target outside the body of an open loop is not allowed. -/
theorem State.targetOk_of_leaves {s : State} {p c n : Nat} (h : ∃ l ∈ (s.ctx p c).cur.loops, n < l.body ∨ l.stop < n) :
    s.targetOk p c n = false := by
  obtain ⟨l, hl, hout⟩ := h
  have hall : (s.ctx p c).cur.loops.all (fun l => decide (l.body ≤ n) && decide (n ≤ l.stop)) = false :=
    List.all_eq_false.mpr ⟨l, hl, by simp; omega⟩
  unfold State.targetOk
  rw [hall, Bool.and_false]

/-- No class but 4 has a code for C.SELECT or C.JUMP (R177, R178). -/
theorem EngOp.ofCode_transfer : ∀ k < 8, ∀ n < 64,
    EngOp.ofCode k n = some .cSelect ∨ EngOp.ofCode k n = some .cJump → k = 4 := by decide

/-- So a word that holds one is of class 4. -/
theorem wClass_of_transfer {w : W64} {o : EngOp} (h : EngOp.ofWord w = some o) (ho : o = .cSelect ∨ o = .cJump) :
    wClass w = 4 := by
  refine EngOp.ofCode_transfer _ (Nat.mod_lt _ (by decide)) (wbits w 59 54) (Nat.mod_lt _ (by decide)) ?_
  rcases ho with rfl | rfl
  · exact .inl h
  · exact .inr h

/-- A row whose run ends in a fault as its instruction issues. -/
theorem State.issue_bad {s u : State} {p c code : Nat} {o : EngOp} {w : W64} {run : W64 → State → Ran}
    (h : s.canRun p c o w) (hr : run w (s.opened p c) = .bad u code) : s.issue p c o run = u.faultAt p c code w := by
  obtain ⟨hissues, rfl⟩ := h
  simp only [State.issues, Bool.and_eq_true, Bool.or_eq_true, decide_eq_true_eq, beq_iff_eq] at hissues
  obtain ⟨⟨hcan, hgo⟩, hop⟩ := hissues
  simp only [State.issue, hcan, Bool.not_true, Bool.false_eq_true, if_false, State.goes_on hgo, State.goes_whole hgo, hop, if_true,
    State.execAt, hr]

/-- It halts the context, which had issued its group. -/
theorem State.bad_halts {s : State} {p c code : Nat} {o : EngOp} {w : W64} {i : Instr} {run : W64 → State → Ran} (hp : p < 52)
    (h : s.canRun p c o w) (hi : exec i s = .next (s.issue p c o run)) (hrun : run w (s.opened p c) = .bad (s.opened p c) code) :
    ∃ t, exec i s = .next t ∧
      HaltedBy (s.opened p c) t p c code (wClass w) (s.ctx p c).cur.pc (s.ctx p c).cur.bankB := by
  refine ⟨_, by rw [hi, State.issue_bad h hrun], ?_⟩
  rw [← State.ctxAt_cur]
  exact State.faultIn_halts (s.opened p c) p c code (wClass w) _ _ hp

/-- A C.SELECT or C.JUMP that faults does so as a malformed instruction of its class. -/
theorem State.transfer_halts {s : State} {p c : Nat} {o : EngOp} {w : W64} {i : Instr} {run : W64 → State → Ran} (hp : p < 52)
    (ho : o = .cSelect ∨ o = .cJump) (h : s.canRun p c o w) (hi : exec i s = .next (s.issue p c o run))
    (hrun : run w (s.opened p c) = .bad (s.opened p c) fMalformed) :
    ∃ t, exec i s = .next t ∧
      HaltedBy (s.opened p c) t p c fMalformed 4 (s.ctx p c).cur.pc (s.ctx p c).cur.bankB := by
  obtain ⟨hissues, hw⟩ := id h
  simp only [State.issues, Bool.and_eq_true, beq_iff_eq] at hissues
  have hclass : wClass w = 4 := wClass_of_transfer (hw ▸ hissues.2) ho
  rw [← hclass]
  exact State.bad_halts hp h hi hrun

/-! ## C.JUMP, C.SELECT and C.SWAPBANK -/

/-- C.JUMP takes a target that is allowed. -/
theorem runJump_takes {s : State} {p c : Nat} {w : W64} (h : s.targetOk p c (wbits w 12 0) = true) :
    runJump p c w (s.opened p c) = .jump (s.opened p c) (wbits w 12 0) := by
  unfold runJump
  rw [State.opened_targetOk, if_pos h]

/-- And faults on any other. -/
theorem runJump_bad {s : State} {p c : Nat} {w : W64} (h : s.targetOk p c (wbits w 12 0) = false) :
    runJump p c w (s.opened p c) = .bad (s.opened p c) fMalformed := by
  unfold runJump
  rw [State.opened_targetOk, h, if_neg Bool.false_ne_true]

/-- C.SELECT takes the block-table entry of the posted selection, which it consumes (R220). -/
theorem runSelect_takes {s : State} {p c : Nat} {w : W64} {v : W32} (hsel : (s.ctx p c).sel = some v) (hv : v.toNat < 64)
    (hentry : (s.imemWord p c v.toNat).toNat < 2 ^ 13) (hok : s.targetOk p c (s.imemWord p c v.toNat).toNat = true) :
    runSelect p c w (s.opened p c) =
      .jump ((s.opened p c).modCtx p c (fun x => { x with sel := none })) (s.imemWord p c v.toNat).toNat := by
  unfold runSelect
  rw [State.opened_ctx, State.ctxAt_sel, hsel]
  dsimp only
  rw [State.opened_imemWord, State.opened_targetOk, if_neg (by rw [hok]; simp; omega)]

/-- And faults on an entry that is no allowed target. -/
theorem runSelect_bad {s : State} {p c : Nat} {w : W64} {v : W32} (hsel : (s.ctx p c).sel = some v)
    (hbad : s.targetOk p c (s.imemWord p c v.toNat).toNat = false) :
    runSelect p c w (s.opened p c) = .bad (s.opened p c) fMalformed := by
  unfold runSelect
  rw [State.opened_ctx, State.ctxAt_sel, hsel]
  dsimp only
  rw [State.opened_imemWord, State.opened_targetOk, if_pos (.inr (.inr hbad))]

/-- The context once its copies have exchanged their roles (R221). -/
def Ctx.swapped (x : Ctx) : Ctx :=
  let b := !x.cur.bankB
  { x with cur := { x.cur with bankB := b }, copyA := if b then .ready else .active, copyB := if b then .active else .ready }

/-- The copy that was active is ready, and the other one active. -/
theorem Ctx.swapped_eq (x : Ctx) : x.swapped = { x with
    cur := { x.cur with bankB := !x.cur.bankB }
    copyA := if x.cur.bankB then .active else .ready, copyB := if x.cur.bankB then .ready else .active } := by
  unfold Ctx.swapped
  cases x.cur.bankB <;> rfl

/-- With no loop open, C.SWAPBANK exchanges the copies and takes a target in the region behind the block table. -/
theorem runSwapbank_takes {s : State} {p c : Nat} {w : W64} (hloops : (s.ctx p c).cur.loops = []) (hlow : 64 ≤ wbits w 12 0)
    (hhigh : wbits w 12 0 < (s.imemShare p c).2) :
    runSwapbank p c w (s.opened p c) = .jump ((s.opened p c).modCtx p c Ctx.swapped) (wbits w 12 0) := by
  unfold runSwapbank
  dsimp only
  rw [State.opened_ctx, State.ctxAt_cur, hloops, State.opened_imemShare, if_neg (by simp; omega)]
  rfl

/-! ## C.COMMIT and C.END -/

/-- A context whose commit is due issues nothing (R219). -/
theorem State.canIssue_of_commit {s : State} {p c : Nat} {k : CommitReq} (h : (s.ctx p c).commit = some k) :
    s.canIssue p c = false := by
  simp [State.canIssue, h]

/-- The context with a commit due. -/
def Ctx.commitDue (x : Ctx) (k : CommitReq) : Ctx := { x with commit := some k }

/-- Issue that keeps nothing of a group leaves its context. -/
theorem Ctx.issued_self (x : Ctx) : x.issued x x.cur := rfl

/-- Without provisional input the commit is due. -/
theorem runCommit_due {s : State} {p c : Nat} (hdesc : Option Nat) (ends : Option W32) (h : (s.ctxAt p c).provHeld = []) :
    runCommit p c hdesc ends (s.opened p c) =
      .seq ((s.opened p c).setCtx p c ((s.ctxAt p c).commitDue ⟨hdesc, ends, (s.ctx p c).cur.pc⟩)) := by
  have hprov : ((s.opened p c).ctx p c).provisional = false := by
    rw [State.opened_ctx, Ctx.provisional, h]
    rfl
  unfold runCommit
  rw [hprov, if_neg Bool.false_ne_true, ← State.ctxAt_cur]
  rfl

/-- Nothing else changes as the commit falls due, and the context issues no more. -/
theorem State.commitDue_runs (s : State) (p c : Nat) (w : W64) (k : CommitReq) :
    RunsTo s s (((s.opened p c).setCtx p c ((s.ctxAt p c).commitDue k)).advance p c w) p c (s.engine p)
      ((s.ctxAt p c).commitDue k) (s.ctx p c).cur ∧
    (((s.opened p c).setCtx p c ((s.ctxAt p c).commitDue k)).advance p c w).canIssue p c = false := by
  have hcur : ((s.ctxAt p c).commitDue k).cur = (s.ctx p c).cur := s.ctxAt_cur p c
  have hruns := State.setCtx_runs s p c w _ _ _ (Ctx.issued_self ((s.ctxAt p c).commitDue k))
  rw [hcur] at hruns
  obtain ⟨-, -, -, -, hissued⟩ := id hruns
  exact ⟨hruns, State.canIssue_of_commit (congrArg Ctx.commit hissued)⟩

/-- A row of C.COMMIT or C.END without provisional input stops issue until its commit. -/
theorem State.commit_stopsIssue {s : State} {p c : Nat} {o : EngOp} {w : W64} {i : Instr} {run : W64 → State → Ran}
    {hdesc : Option Nat} {ends : Option W32} (h : s.canRun p c o w) (hi : exec i s = .next (s.issue p c o run))
    (hrun : ∀ u, run w u = runCommit p c hdesc ends u) (hprov : (s.ctxAt p c).provHeld = []) :
    ∃ t, exec i s = .next t ∧
      RunsTo s s t p c (s.engine p) ((s.ctxAt p c).commitDue ⟨hdesc, ends, (s.ctx p c).cur.pc⟩) (s.ctx p c).cur ∧
      t.canIssue p c = false := by
  have hseq := (hrun _).trans (runCommit_due hdesc ends hprov)
  exact ⟨_, by rw [hi, State.issue_seq h hseq], State.commitDue_runs s p c w _⟩

/-- Settles O23: a transfer's run ends at its target or in a fault, and a commit's in a commit that is due. -/
theorem controlTransfersTakeTheirTarget : Obligations.ControlTransfersTakeTheirTarget := by
  unfold Obligations.ControlTransfersTakeTheirTarget
  intro s p c w
  refine ⟨fun h hok => ?jump, fun h v hsel hv hentry hok => ?select,
    ⟨fun h hout => ?jumpOut, fun h v hsel hout => ?selectOut⟩, fun h hloops hlow hhigh => ?swap, fun h hprov => State.commit_stopsIssue h rfl (fun _ => rfl) hprov,
    fun h hprov => State.commit_stopsIssue h rfl (fun _ => rfl) hprov⟩
  case jump =>
    exact State.jump_takes h rfl (runJump_takes hok) (State.opened_goto s p c _) (State.ctxAt_cur s p c)
  case select =>
    obtain ⟨t, ht, hruns, hpc, hstand, -⟩ := State.jump_takes (i := .cSelect p c) h rfl (runSelect_takes hsel hv hentry hok)
      (State.opened_modCtx_goto s p c _ _) (State.ctxAt_cur s p c)
    exact ⟨t, ht, hruns, hpc, hstand⟩
  case jumpOut =>
    exact State.transfer_halts p.isLt (.inr rfl) h rfl (runJump_bad (State.targetOk_of_leaves hout))
  case selectOut =>
    exact State.transfer_halts p.isLt (.inl rfl) h rfl (runSelect_bad hsel (State.targetOk_of_leaves hout))
  case swap =>
    obtain ⟨t, ht, hruns, hpc, -⟩ := State.jump_takes (i := .cSwapbank p c) h rfl (runSwapbank_takes hloops hlow hhigh)
      (State.opened_modCtx_goto s p c _ _) rfl
    simp only [Ctx.swapped_eq, State.ctxAt_cur] at hruns
    exact ⟨t, ht, hruns, hpc⟩

end Sys2Proof.Machine
end
